-- ==== Sys2Proof/Word.lean ====
section
/-! DEFINITION. The word types, the exact value type of chapter 02 and the sparse table type. -/

namespace Sys2Proof

abbrev Byte := BitVec 8
abbrev U16 := BitVec 16
abbrev U32 := BitVec 32
abbrev U64 := BitVec 64
/-- A 384-bit measurement register or digest (R452). -/
abbrev U384 := BitVec 384

/-- A module physical address, 48 bits wide (R202); a key of memory is a plain number. -/
abbrev Addr := Nat

/-- A sparse table: keys strictly rising, no entry equal to the table's default value. -/
abbrev TMap (α : Type) := List (Nat × α)

/-- The value an element of any storage format holds (R36, R38, R41, R48): a signed zero, a non-zero finite
value held exactly, an infinity or a NaN with its sign. -/
inductive XVal where
  | zero (neg : Bool)
  | fin (v : Rat)
  | inf (neg : Bool)
  | nan (neg : Bool)
deriving DecidableEq, Repr

end Sys2Proof
end

