-- ==== Sys2Proof/Syntax.lean ====
section
/-! DEFINITION. The commands of the block: one constructor per row of spec/opcode_table.json, in the table's order,
with the operands that the access, packet, flit, pin or measurement carries. -/

namespace Sys2Proof

/-- A queue, bay, Abond port or stall number, 0 to 63. -/
abbrev Idx64 := Fin 64
/-- A fabric identifier (R249). -/
abbrev Fid := U16
/-- Number of a command in issue order (R329). -/
abbrev CmdNo := Nat

/-- Flit header of Table 09-4 with the payload bytes in use (R252). The CRC-64 is checked before a flit becomes a
command: a flit that fails it is the command FLIT_DISCARD. `fec` is no field of the header: the symbols corrected in it as it was received (R254). -/
structure Flit where
  kind : BitVec 4 := 0
  vc : BitVec 2 := 0
  seq : BitVec 12 := 0
  ack : BitVec 12 := 0
  nak : Bool := false
  sr : Bool := false
  dst : Fid := 0
  src : Fid := 0
  crvc : BitVec 2 := 0
  crcnt : BitVec 10 := 0
  park : Bool := false
  hop : BitVec 3 := 0
  ttl : BitVec 6 := 0
  stall : Byte := 0
  tag : BitVec 24 := 0
  payload : List Byte := []
  fec : Nat := 0
deriving DecidableEq, Repr

/-- The fields PROBE and PROBE_REPLY carry (R250); their places in the payload are not given (log 21). -/
structure Probe where
  fid : Fid
  fidValid : Bool
  port : BitVec 6
  modid : U64
  vmask : Byte
  ret : List (BitVec 6)
deriving DecidableEq, Repr

/-- A memory message by R206 and Table 09-5; the places of the fields in the payload are not given (log 21). -/
structure MemMsg where
  addr : BitVec 48
  len : Nat
  data : List Byte
deriving DecidableEq, Repr

/-- A RESP: the status, and whether it says UNREACH (R264); `result` holds what follows a completion (R330). -/
structure RespMsg where
  unreach : Bool
  status : Byte
  detail : U16
  result : List Byte
deriving DecidableEq, Repr

/-- Collective header of Table 09-8. -/
structure CollHdr where
  group : U32
  inst : U32
  op : Byte
  rank : U16
  wire : BitVec 4
  clk : BitVec 2
  nf : Bool
  nrm : Bool
  chunk : U16
  segment : U16
  arrival : U64
  nthr : U16
  laterank : U16
  abort : Bool
  arrived : Bool
deriving DecidableEq, Repr

/-- One segment of reduce-scatter data (R269 to R272): the scale record of each block (E5M2), the wire codes and the
offending blocks of a contributor's bitmap. -/
structure SegData where
  records : List U32
  codes : List U16
  marked : List Nat
deriving DecidableEq, Repr

/-- What the physical steps of a training attempt find (Table 09-2): the partner's presence, whether it offers the
higher rate, the lanes that pass equalisation at each rate, lane order, the difference of the references in ppm,
codeword lock, the partner's version mask and credits, and its PROBE_REPLY. -/
structure TrainResult where
  present : Bool
  offers128 : Bool
  pass128 : Byte
  pass64 : Byte
  reversed : Bool
  ppm : Nat
  locked : Bool
  vmask : Byte
  credits : List Nat
  reply : Probe
deriving DecidableEq, Repr

/-- The address spaces of the registers a register write reaches (R8): BAR0, the Oligan DVSEC, the IDE capability. -/
inductive RegSpace where
  | bar0 | dvsec | config
deriving DecidableEq, Repr

/-- Causes of a conventional reset (Table 10-8). -/
inductive ConvCause where
  | perst (lowNs : Nat) | hotReset | linkDown
deriving DecidableEq, Repr

/-- What the entry that a word of the management bank names holds (R309, R346, R421): an error record, a unit's state, or the
management controller's request for SYNC_OUT and its end. -/
inductive MgmtEntry where
  | record | unitState (unit : U16) | pps (enable : Bool)
deriving DecidableEq, Repr

/-- What takes place at a mailbox of an inner bank on an edge (R307, R308): a word passes, written and then taken; it is written; the word is
taken; both on one edge; a W1C write of the flags, with those that hardware sets on that edge (R10). -/
inductive MailStep where
  | pass | write | read | both | clear (flags sets : BitVec 4)
deriving DecidableEq, Repr

/-- The events that fail the module (R433). -/
inductive FailCause where
  | clerkMemory | yardStop0 | thermalTrip | mgmtResets | clerkHeartbeat
deriving DecidableEq, Repr

/-- What a test of the Farrier finds (R426 to R428, Table 15-9); `captured`: the operands of the failing patterns that CAPTURE takes. -/
structure TestResult where
  ran : BitVec 4
  failed : BitVec 4
  interrupted : Bool
  ownPath : Bool
  stressHeldOff : Bool
  replays : U16
  replayFail : U16
  marchFail : U32
  tj : Byte
  vstress : U16
  fstress : U16
  captured : List (List Byte)
  reached95 : Bool
deriving DecidableEq, Repr

/-- The outcome of the physical part of a boot (R440, R445): failed reads of each die's PUF, whether the
replay-protected region authenticates, the bays that fail their pattern check, the stack and channel of each TSV lane that
fails interface training, and the stack and bank of each row that the test record maps out (R221). -/
structure BootResult where
  pufReads : List Nat
  regionOk : Bool
  failedBays : List Nat
  tsvFail : List (Nat × Nat)
  testRows : List (Nat × Nat)
deriving DecidableEq, Repr

/-- The activity counts and measured values of a budget window (R368, R372): class counts in the order of Table 13-2,
rail voltages in mV and temperatures of the islands. -/
structure WindowCounts where
  counts : List Nat
  temps : List Int
deriving DecidableEq, Repr

/-- The 230 commands of spec/opcode_table.json. An operand with a default says more of the access than that it comes: what hardware
sets on its edge (R10), the edge of two in one nanosecond (R227), the word of a counter block, the step that is late. -/
inductive Instr where
  -- opcode rows: the work of the dispatched command `c` of the Clerk's command table (R352)
  | caps (c : CmdNo)
  | stallLoad (c : CmdNo)
  | stallSwitch (c : CmdNo)
  | stallEvictDrop (c : CmdNo)
  | stallEvictPark (c : CmdNo)
  | windowSet (c : CmdNo)
  | move (c : CmdNo)
  | gather (c : CmdNo)
  | scatter (c : CmdNo)
  | matmulFwd (c : CmdNo)
  | matmulBwd (c : CmdNo)
  | attnFwd (c : CmdNo)
  | attnBwd (c : CmdNo)
  | vectorOp (c : CmdNo)
  | matmulRef (c : CmdNo)
  | scaleScan (c : CmdNo)
  | convert (c : CmdNo)
  | stepClose (c : CmdNo)
  | stepCloseProcessing (c : CmdNo)
  | setMode (c : CmdNo)
  | setBounds (c : CmdNo)
  | setStartlen (c : CmdNo)
  | setFlags (c : CmdNo)
  | lossScaleSet (c : CmdNo)
  | numericsStats (c : CmdNo)
  | updateLayer (c : CmdNo)
  | precondRefresh (c : CmdNo)
  | maskSet (c : CmdNo)
  | weightPublish (c : CmdNo)
  | publicationResume (vaddr : BitVec 48)
  | publicationCommit (vaddr : BitVec 48)
  | publicationWaitTimeout (vaddr : BitVec 48)
  | collAllreduce (c : CmdNo)
  | collRedscatter (c : CmdNo)
  | collAllgather (c : CmdNo)
  | collBarrier (c : CmdNo)
  | collAlltoall (c : CmdNo)
  | peerAttach (c : CmdNo)
  | peerDetach (c : CmdNo)
  | peerClaim (fid : Fid)
  | peerRelease (fid : Fid)
  | handoff (fid newFid : Fid)
  | grant (c : CmdNo)
  | energyBudgetSet (c : CmdNo)
  | capOrderSet (c : CmdNo)
  | freqMode (c : CmdNo)
  | energyReport (c : CmdNo)
  | pstateReqA0 (c : CmdNo)
  | pstateReqBg (c : CmdNo)
  | pstateReqBo (c : CmdNo)
  | pstateReqDi (c : CmdNo)
  | pstateReqDo (c : CmdNo)
  | pstateReqMs (c : CmdNo)
  | pstateReport (c : CmdNo)
  | farrierRun (c : CmdNo)
  | farrierRunMarkDue (c : CmdNo)
  | errlogRead (c : CmdNo)
  | errlogReadHealth (c : CmdNo)
  | unitFence (c : CmdNo)
  | unitReturn (c : CmdNo)
  | attestReport (c : CmdNo)
  | ideKeySetup (c : CmdNo)
  | certRead (c : CmdNo)
  | fwStage (c : CmdNo)
  | fwActivate (c : CmdNo)
  | fwActivateNow (c : CmdNo)
  | roundLoad (c : CmdNo)
  | roundStart (c : CmdNo)
  | roundStepIssue (r : Fin 8)
  | roundIterationEnd (r : Fin 8)
  | checkpoint (c : CmdNo)
  | restore (c : CmdNo)
  | restoreLayerWrite (c : CmdNo)
  | quiesce (c : CmdNo)
  -- queues and the Clerk
  | doorbell (q : Idx64) (v : U32)
  | rciWrite (q : Idx64) (v : U32)
  | queueAttach (q : Idx64) (ctl : U32)
  | queueDetach (q : Idx64)
  | drainEnd (q : Idx64)
  | ringerrClear (q : Idx64) (again : Bool := false)
  | coherentWakeSnoop (q : Idx64)
  | cmdFlit (p : Idx64) (f : Flit)
  | packetRead (q : Idx64)
  | commandDispatch (c : CmdNo)
  | commandComplete (c : CmdNo)
  | deadlineExpiry (c : CmdNo)
  -- mailboxes and registers
  | h2cWrite (i : Fin 4) (v : U32) (readLatched : Bool)
  | mailboxRequestTake (i : Fin 4)
  | holdRegisterPost (i : Fin 4)
  | c2hRead (i : Fin 4)
  | millerMailboxWord (g : Fin 8) (toMiller : Bool) (box : Fin 2) (word : U32) (step : MailStep := .pass)
  | mgmtMailboxWord (toMgmt : Bool) (box : Fin 4) (word : U32) (entry : MgmtEntry) (step : MailStep := .pass)
  | mbBankRead (stray : Bool := false)
  | notownerRead (event : Bool := false)
  | lostreplyRead (event : Bool := false)
  | acceptsRead (q : Idx64) (event : Bool := false)
  | registerWrite (space : RegSpace) (off : Nat) (len : Nat) (v : Option U64) (sets : U64 := 0)
  | bar2Write (off : BitVec 28) (bytes : List Byte) (read : Option Nat := none)
  | hostClaim (alsoRelease : Bool) (peerSameEdge : Option Fid)
  | hostRelease
  | hdmApply (a0 a1 : Bool)
  | hdmCommit (n : Fin 2) (commit : Bool) (hpa : U64) (size : Nat) (ways : Nat)
  | hdmRead (hpa : U64) (cacheable : Bool)
  | hdmWrite (hpa : U64) (bytes : List Byte)
  | ideIntegrityFailure (stream : Fin 2)
  | conventionalReset (cause : ConvCause)
  | functionLevelReset
  | cxlReset
  | moduleReset (lowNs : Nat)
  -- Ostlers
  | ostlerRequest (o : Fin 808) (slot : Fin 21) (dl : Option U16) (beats : Nat) (lock : Option Nat) (c : Option CmdNo) (early : Bool := false)
  | arbitrationBoundary (o : Fin 808) (early : Bool := false)
  | ostlerCommit (all : Bool)
  | ostlerClrcnt (ev : List Nat := [])
  | ostlerCounterRead (word : Fin 16 := 0)
  | aliveFall (o : Fin 808) (slot : Fin 21) (early : Bool := false)
  | aliveRise (o : Fin 808) (slot : Fin 21) (early : Bool := false)
  | crossingLoss (c : CmdNo) (unit : U16) (crossing : Nat)
  -- Abond
  | portEnableWrite (v : U32)
  | retrain
  | portClrcnt (ev : List Nat := []) (engineEv : List Nat := [])
  | linkCounterRead (word : Fin 16 := 0)
  | engineCounterRead (word : Fin 16 := 0)
  | fidWrite (v : U32)
  | rtDataWrite (v : U32)
  | training (p : Idx64) (r : TrainResult)
  | trainingTimeout (p : Idx64) (step : Fin 6 := 0)
  | trainingRetry (p : Idx64)
  | probeTimer (p : Idx64)
  | probe (p : Idx64) (f : Flit) (m : Probe)
  | probeReply (p : Idx64) (f : Flit) (m : Probe)
  | probeRetry (p : Idx64)
  | heartbeatSend (p : Idx64)
  | heartbeat (p : Idx64) (f : Flit)
  | null (p : Idx64) (f : Flit)
  | flitDiscard (p : Idx64) (fec : Nat := 0)
  | neighbourLost (p : Idx64)
  | lostRetrain (p : Idx64)
  | park (p : Idx64)
  | unpark (p : Idx64)
  | switchRoute (p : Idx64) (f : Flit)
  | transitTimeout (p : Idx64)
  | memWrite (p : Idx64) (f : Flit) (m : MemMsg)
  | memRead (p : Idx64) (f : Flit) (m : MemMsg)
  | memData (p : Idx64) (f : Flit) (m : MemMsg)
  | resp (p : Idx64) (f : Flit) (m : RespMsg)
  | redscatterData (p : Idx64) (f : Flit) (h : CollHdr) (d : SegData)
  | allgatherData (p : Idx64) (f : Flit) (h : CollHdr) (data : List Byte)
  | alltoallData (p : Idx64) (f : Flit) (h : CollHdr) (data : List Byte)
  | segGrant (p : Idx64) (f : Flit) (h : CollHdr)
  | arrive (p : Idx64) (f : Flit) (h : CollHdr)
  | release (p : Idx64) (f : Flit) (h : CollHdr)
  | pollSend (group : U32)
  | poll (p : Idx64) (f : Flit) (h : CollHdr)
  | pollAns (p : Idx64) (f : Flit) (h : CollHdr)
  | pollTimeout (group : U32)
  | abort (p : Idx64) (f : Flit) (h : CollHdr)
  | yardEdgeWithdraw (e : Fin 4)
  -- memory events
  | dramReadCorrected (addr : BitVec 48) (bank : Nat) (row : Nat)
  | uncorrectableRead (addr : BitVec 48) (c : Option CmdNo)
  | sramSecondCorrection (unit : U16) (word : Nat) (bit : Nat := 0) (syn : Byte := 0)
  | scrubRead (addr : BitVec 48) (bank row : Nat) (bad : Nat)
  | refreshRateChange (stack : Fin 48) (temp : Int)
  -- energy, clocks and safety limits
  | budgetWindowEnd (w : WindowCounts)
  | brake (projected : Nat)
  | trimInterval (die : Fin 4) (tj : Int) (islandCycles : Nat)
  | kCorrection (measured modelled : Nat)
  | boostStep (b : Idx64) (tj : Int) (current : Nat)
  | boostWithdraw (b : Idx64) (tj : Int) (current : Nat)
  | frequencySwitch (b : Idx64)
  | railLower (die : Fin 4)
  | droopTrip (b : Idx64)
  | stretchEnd (b : Idx64) (cleanCycles : Nat)
  | heldChangeApply (b : Idx64) (cleanCycles : Nat)
  | thermalThrottle (b : Idx64) (tj : Int)
  | thermalFloor (b : Idx64) (tj : Int)
  | thermalTrip (tj : Int)
  | millerThermal (g : Fin 8) (tj : Int)
  | coreCurrentLimit (die : Fin 4) (amps : Nat)
  | inputPowerLimit (watts : Nat)
  | stackTemperatureLimit (stack : Fin 48) (temp : Int)
  | safetyRelease (row : Fin 8) (unit : Nat) (value : Int)
  | treadmillRamp (b : Idx64)
  | treadmillDecay (b : Idx64)
  -- power states
  | idleBgEntry (unit : U16)
  | powerStateReached (u : Nat)
  | wakeComplete (u : Nat) (checkPass : Bool) (tsvFail : List (Nat × Nat))
  -- faults and the Farrier
  | residueDetection (unit : U16) (code : Byte) (word : Nat) (syndrome : BitVec 128) (capsule : List Byte) (c : Option CmdNo) (bit : Nat := 0)
  | parityError (unit : U16)
  | capsuleCopy (unit : U16)
  | capsuleRelease (slot : Idx64)
  | viewCompare
  | viewDisagreement (unit : U16)
  | farrierTest (unit : U16)
  | verdict (unit : U16) (r : TestResult)
  | shoeingDue (unit : U16)
  | shoeingSlice (unit : U16) (tj : Int)
  | moduleFailure (cause : FailCause)
  | clerkWatchdog (missingNs : Nat)
  | mgmtWatchdog (missingNs : Nat)
  | errorRecordReport (index : U32)
  | remap (reason : Nat)
  | mgmtResend
  | ack (mseq : U32)
  | setCollector (sender addr : BitVec 128)
  | releaseOwner
  | capsuleReq (index : U32)
  | setThresholds (throttle : U16) (bays : Byte)
  -- boot and board
  | bootChain (r : BootResult)
  | readyTimeout
  | rngHealthFail
  | inrushClose (mated : Bool) (aboveNs : Nat)
  | powerGoodRise
  | powerGoodFall
  | senseBreak
  | abrefLoss (absentNs : Nat)
  | abrefRestore (goodNs : Nat)
  | cxlRefclkLoss
  | syncInPulse (utc : U64)
  | syncInTimeout
  | ptpMessage (utc : U64)
  | ppsPulse
  | stepmarkEnd
  | modstatRead (event : Bool := false)
  | mctpSensorRead
  | modPgAssert
  | cxlLinkUp (host : BitVec 5) (width : Nat)
  | cxlRefclkReturn
  | ppsPulseEnd
  | heldModuleReset (hottest : Int)
  | reservedKindFlit (p : Idx64) (f : Flit)
deriving DecidableEq, Repr

end Sys2Proof
end

