-- ==== Sys2Proof/Config.lean ====
section
/-! DEFINITION. What an implementation fixes and the free values: constants with no body, of which no proof can
see a value. -/

namespace Sys2Proof.Config

/-- A free value: the one value the spec leaves open at its `n`th use (State.freeCtr), for the purpose and
index given. Log entry 5. -/
opaque free : (n purpose index : Nat) → Nat

/-- The voltage table of die `d` from the signed test record (R360, R444): its step-0 entry in mV, and by how much the entry of step `k` lies above
that of the step below it. Log entry 13. -/
opaque voltBase : (d : Nat) → Nat
opaque voltRise : (d k : Nat) → Nat

/-- The entry of step `k` of die `d` in mV: no entry is lower than the entry for the step below it (R360). -/
def voltage (d : Nat) : (k : Nat) → Nat
  | 0 => voltBase d
  | k + 1 => voltage d k + voltRise d (k + 1)

/-- Class coefficient k(c) of Table 13-2 in fJ at 0.70 V, from the signed test record (R368, R444). Log entry 13. -/
opaque coef : (cls : Nat) → Nat

/-- Static coefficient of island or stack `i` in µW (R368): 0 to 63 bays, 64 to 71 Millers, 72 to 119 stacks, 120 the Clerk, 121 the Yard, 122 the CXL
link, 123 management, 124 to 187 the link islands of ports 0 to 63 (Table 01-5). Log entry 13. -/
opaque staticCoef : (i : Nat) → Nat

/-- The fixed consumers' power, in mW (R368). Log entry 13. -/
opaque fixedPower : Nat

/-- Whether the leakage factor of R368, `2^((t - 85) / 20)`, is taken upward to the next 1/65536: the Tallyman's own resolution and rounding are not
given. Log entry 13. -/
opaque leakUp : (t : Int) → Bool

/-- The 256-bit secret S_d that the boot ROM rebuilds from die d's PUF (R440). Log entry 14. -/
opaque secret : (d : Nat) → BitVec 256

/-- Version word of the boot ROM (R452, M0). Log entry 14. -/
opaque romVersion : BitVec 32

/-- The X.509 part of R451 and R444 (a published standard outside the spec): the public key (x, y) that a
certificate chain of these bytes, ending at the Oligan root with firmware-signing usage, certifies; none where the
chain does not verify. Log entry 14. -/
opaque chainKey : List Byte → Option (Nat × Nat)

/-- The DER bytes of certificate `k` of R454 (2 device CA, 3 identity of die `d`, 4 attestation) of this module,
for the measurements it carries. Log entry 14. -/
opaque certificate : (k d : Nat) → List (BitVec 384) → List Byte

/-- The bytes of signed test record `r` (0 module, 1 to 4 dies; R444). Log entry 14. -/
opaque testRecord : (r : Nat) → List Byte

/-- Whether test record `r` is accepted: 0 accepted, 1 signature, 2 chain, 3 key digest fails (R444). Log entry 14. -/
opaque testRecordCheck : (r : Nat) → Nat

/-- The byte that the package flash holds at an offset when the part leaves test (R437). Log entry 9. -/
opaque flashByte : (a : Nat) → BitVec 8

/-- What an erased byte of the flash reads as, which no rule says (R457). Log entry 9. -/
opaque erasedByte : (a : Nat) → BitVec 8

/-- Word of the entropy source drawn at the `n`th use (R456). Log entry 15. -/
opaque entropy : (n : Nat) → Nat

/-- What the softmax backward of ATTN_BWD delivers, whose roundings the spec does not give (R355): element `e` of `o` (0 the gradient
of the scores, 1 P over its row's l) of the command whose operand bytes are given. Log entry 16. -/
opaque attnGrad : (operands : List Nat) → (o e : Nat) → Nat

/-- Which way the real exp(n / d) rounds where the two rationals that enclose it round apart (R49, R355). Log entry 25. -/
opaque settleUp : (n : Int) → (d : Nat) → Bool

/-- Idle power of the links and the added power of boosting a bay of die `d` by one step to `k`, in mW: parts of the
standing reservation and of boost that R374 names and no table gives. Log entry 13. -/
opaque linkIdle : Nat
opaque boostPower : (d k : Nat) → Nat

/-- Offsets of the MSI-X capability and of the IDE extended capability in configuration space, which no table gives
(R296). Log entry 36. -/
opaque msixCap : Nat
opaque ideCap : Nat
/-- The offset of the CXL Devices DVSEC, and the next-capability field of capability `c`, which no table gives (R296). Log 36. -/
opaque cxlDvsec : Nat
opaque capNext : (c : Nat) → Nat
/-- The offsets of the Flex Bus Port and Register Locator DVSECs, the revision that DVSEC `d` states, and the words of them that CXL 3.1 leaves to
the device, by DVSEC and word (R296). Log 36. -/
opaque flexDvsec : Nat
opaque locatorDvsec : Nat
opaque dvsecRev : (d : Nat) → Nat
opaque dvsecWord : (d o : Nat) → Nat

/-- The channel of its stack that holds line `l` (address ÷ 64): a fixed mapping that software cannot see (R203). Log 8. -/
opaque channel : (l : Nat) → Nat

/-- How far indicator output `k` stands in the period of its blink at module time 0, in ns (R483). Log 38. -/
opaque blinkPhase : (k : Nat) → Nat

/-- Check symbol `j` of the RS(544, 514) codeword of the data symbols (R252): neither the field's polynomial nor the generator is given.
Log 62. -/
opaque rsCheck : (data : List (BitVec 10)) → (j : Nat) → BitVec 10

end Sys2Proof.Config
end

