-- ==== Sys2Proof/Machine/State.lean ====
section
/-! DEFINITION. The state of the part as plain data, the reset state, and the reasons a step can stop. A `TMap` is a
sparse table by unit or address: keys strictly rising, no entry equal to the default. Field values given here are the
reset values; INVENTORY.md lists each with its rule. -/

namespace Sys2Proof.Machine

/-- What makes the block stop. -/
inductive Fault where
  /-- Raised by HDM_READ and HDM_WRITE alone: the host presented an address that no committed decoder covers, and the
  spec gives such an access no effect (R223, R286). Safe: the hardware answers in some way the spec leaves out. -/
  | hdmNotDecoded (hpa : U64)
deriving DecidableEq, Repr

/-- Why the model gives a command no meaning. -/
inductive Refusal where
  /-- The arm of a command that has no meaning yet. Safe: nothing is claimed of it. -/
  | notModelled (mnemonic : String)
deriving DecidableEq, Repr

/-! ## Time, pins and board (chapters 00, 01, 18) -/

/-- Module time (R6, R32) and what steers it (R478, R480). -/
structure Clk where
  ticks : Nat := 0
  time : U64 := 0
  onAbref : Bool := false
  lastSync : Option U64 := none
  lastSyncTicks : Nat := 0
  ptpOnly : Bool := true
deriving DecidableEq, Repr

/-- Pins, power and the management die's MODSTAT bits (R470 to R482, Table 18-7). `resetHeld`: a MOD_RESET_N held by a thermal
trip (R383); `pgAt`, `fellAt`: when input power good last rose and, while it is false, fell (ticks). -/
structure Board where
  sense : Bool := false
  inrush : Bool := false
  pg : Bool := false
  mgmtRom : Bool := false
  mgmtRun : Bool := false
  modPg : Bool := false
  resetHeld : Bool := false
  trip : Bool := false
  abrefOk : Bool := false
  cxlRefOk : Bool := false
  powered : Bool := false
  syncOut : Bool := false
  syncFall : Option Nat := none
  inrushAt : Nat := 0
  pgAt : Nat := 0
  fellAt : Option Nat := none
  uvCount : U16 := 0
deriving DecidableEq, Repr

/-! ## Boot, flash and identity (chapter 16) -/

/-- One copy of the boot pointer block (R438); `pending` is none, 0 or 1. -/
structure BootPtr where
  seq : U32 := 0
  pending : Option (Fin 2) := none
  tries : Nat := 0
  valid0 : Bool := false
  valid1 : Bool := false
  good : Bool := true
deriving DecidableEq, Repr

/-- Package flash and its replay-protected region (R437 to R439, Table 16-2): `bytes` lists what has been programmed in
service; every other byte is as the part left test (Config.flashByte), or erased where its slot was erased (`wiped0`, `wiped1`; log 9). -/
structure Flash where
  bytes : TMap (Option Byte) := []
  ptrA : BootPtr := { valid0 := true }
  ptrB : BootPtr := { valid0 := true }
  counter : U32 := 0
  committed : Fin 2 := 0
  fenceList : List (U16 × U32) := []
  repairList : List (List Nat) := []
  wiped0 : Bool := false
  wiped1 : Bool := false
deriving DecidableEq, Repr

/-- Boot state: READY, HALTED, the running image and the measurement registers (R445 to R453). -/
structure Boot where
  ready : Bool := false
  halted : Bool := false
  failed : Bool := false
  slot : Nat := 0
  svn : U32 := 0
  fwver : U32 := 0
  timeouts : Nat := 0
  t0 : Option Nat := none
  m0 : U384 := 0
  m1 : U384 := 0
  m2 : U384 := 0
  m3 : U384 := 0
  m4 : U384 := 0
  m5 : U384 := 0
  m6 : U384 := 0
  rejected : List Nat := []
  rngStopped : Bool := false
  mgmtDigest : U384 := 0
  nowResetAt : Option Nat := none
deriving DecidableEq, Repr

/-! ## The host port and mailboxes (chapters 10, 11) -/

/-- The owner (R297, Table 10-4): KIND and PEERFID. -/
inductive Owner where
  | nobody | host | peer (fid : Fid)
deriving DecidableEq, Repr

/-- One HDM range: pending and active values and the last apply result (Table 10-4). -/
structure HdmRange where
  pendBase : BitVec 20 := 0x01000
  pendSize : BitVec 14 := 0
  actBase : BitVec 20 := 0x01000
  actSize : BitVec 14 := 0
  err : BitVec 4 := 0
deriving DecidableEq, Repr

/-- One HDM decoder of the component registers (R286). -/
structure HdmDecoder where
  committed : Bool := false
  error : Bool := false
  hpaBase : U64 := 0
  size : Nat := 0
deriving DecidableEq, Repr

/-- One IDE stream: its key sets, its state, and skid mode in place of containment mode (R281, R294, R295, R455). -/
structure IdeStream where
  enabled : Bool := false
  skid : Bool := false
  insecure : Bool := false
  active : List Byte := []
  inactive : List Byte := []
deriving DecidableEq, Repr

/-- One MSI-X table entry (Table 10-6): address, data, vector control. -/
structure MsixEntry where
  addr : U64 := 0
  data : U32 := 0
  ctl : U32 := 1
deriving DecidableEq, Repr

/-- A CXL Reset (`cxl`) or function-level reset in progress: done at `until_`; `ended`: it ended the host's ownership (R304, R306). -/
structure PortReset where
  cxl : Bool
  until_ : Nat
  ended : Bool
deriving DecidableEq, Repr

/-- The CXL port (chapter 10). -/
structure HostPort where
  resetting : Option PortReset := none
  linkUp : Bool := false
  mode : Nat := 0
  width : Nat := 0
  cause : BitVec 6 := 0
  mask : BitVec 6 := 0
  notOwner : U32 := 0
  lostReply : U32 := 0
  pba : BitVec 70 := 0
  msix : TMap MsixEntry := []
  msixEnable : Bool := false
  msixFnMask : Bool := false
  bar0 : U64 := 0
  bar2 : U64 := 0
  command : U16 := 0
  hdm0 : HdmRange := { pendSize := 0x1000, actSize := 0x1000 }
  hdm1 : HdmRange := {}
  dec0 : HdmDecoder := {}
  dec1 : HdmDecoder := {}
  ide0 : IdeStream := {}
  ide1 : IdeStream := {}
  snoop : List Addr := []
  qcache : List Nat := []
deriving DecidableEq, Repr

/-- A mailbox (R307). -/
structure Mailbox where
  data : U32 := 0
  full : Bool := false
  ovwr : Bool := false
  coll : Bool := false
  emptied : Bool := false
deriving DecidableEq, Repr

/-- Every mailbox bank (Table 11-1), the hold registers (R312), DBSTRAY and the last index written to each doorbell. -/
structure Mailboxes where
  h2c : TMap Mailbox := []
  c2h : TMap Mailbox := []
  hold : TMap (Option U32) := []
  toMiller : TMap Mailbox := []
  fromMiller : TMap Mailbox := []
  toMgmt : TMap Mailbox := []
  fromMgmt : TMap Mailbox := []
  dbStray : U16 := 0
  db : TMap U16 := []
deriving DecidableEq, Repr

/-! ## The Clerk (chapter 12) -/

/-- Queue registers of Table 12-5; `granted` by PEER_ATTACH GRANT, `wake` when a wake is latched: tick and module
time; `tags`: the TAGs of the CMD flits whose packets are unread (R330). -/
structure Queue where
  qbase : U64 := 0
  rbase : U64 := 0
  enable : Bool := false
  cohwake : Bool := false
  loc : BitVec 2 := 0
  csize : BitVec 4 := 4
  drain : Bool := false
  ringerr : Bool := false
  noroom : Bool := false
  qpi : U16 := 0
  qci : U16 := 0
  rpi : BitVec 17 := 0
  rci : BitVec 17 := 0
  accepts : U32 := 0
  attfid : Fid := 0
  granted : Bool := false
  wake : Option (Nat × U64) := none
  tags : List (BitVec 24) := []
deriving DecidableEq, Repr

/-- Where a command came from: a queue, the attach channel of a peer, a round's step, or the Clerk itself. -/
inductive Origin where
  | queue (q : Nat)
  | attach (src : Fid)
  | round (r step : Nat)
deriving DecidableEq, Repr

/-- A command header (Table 12-1). -/
structure Header where
  opcode : U16 := 0
  vminor : Byte := 0
  vmajor : Byte := 0
  seq : U32 := 0
  stall : Byte := 0
  flags : Byte := 0
  deadline : U32 := 0
  plen : Byte := 0
  mb : Byte := 0
deriving DecidableEq, Repr

/-- How far a command is: issued, waiting for energy under ENWAIT, dispatched, started and awaiting events, ended. -/
inductive Phase where
  | issued | energyWait | running | working | ended
deriving DecidableEq, Repr

/-- A span of bytes a command names, and whether it writes them. -/
structure Span where
  lo : Nat
  len : Nat
  write : Bool
deriving DecidableEq, Repr

/-- A window entry (Table 07-4). -/
structure Window where
  valid : Bool := false
  spill : Bool := false
  peer : Bool := false
  w : Bool := false
  r : Bool := false
  tier : BitVec 4 := 0
  base : BitVec 36 := 0
  limit : BitVec 36 := 0
deriving DecidableEq, Repr

/-- A region of a command (R212, R493), and whether the command reads it and writes it; `each`: an address the command reads from
memory during its run, checked access by access and not as one span (R209); `unread`: one whose data the command writes but does not consume, so
that poison in it stops no read (R219). -/
structure Region where
  lo : Nat
  len : Nat
  rd : Bool
  wr : Bool
  each : Bool := false
  unread : Bool := false
deriving DecidableEq, Repr

/-- An entry of the Clerk's command table: packet (`area`: its own parameter area, `params`: that or its extended block), progress and the outcome so far (R320, R321); `lost`: its queue was
detached by a reset (R304); `descs`: the descriptors read at dispatch, by parameter offset (R344); `grp`: the group tag and instance
number of a collective, taken in issue order (R268); `left`: the layers a RESTORE has still to write (R356);
`tag`: the TAG that its replies carry (R330); `claims`: the trace buffers it claimed (R346); `disp`: it has been
dispatched; `level`: the level of its work in the ramp of its bays (R387); `needs`: the units that its issue found it to need (R400, R403); `rgs`, `sides`: its regions as its last judgement found them, those of version sides apart (R493), and `wins`: the window
entries it was checked against (R210). -/
structure Cmd where
  no : CmdNo
  origin : Origin
  hdr : Header
  params : List Byte
  area : List Byte := []
  fullRights : Bool := true
  wakeTick : Nat := 0
  tstart : U64 := 0
  phase : Phase := .issued
  status : Byte := 0
  detail : U16 := 0
  errIdx : U32 := 0xFFFFFFFF
  nf : Bool := false
  skipped : Bool := false
  histLost : Bool := false
  inexact : Bool := false
  promoted : Bool := false
  activity : List Nat := []
  reserved : Nat := 0
  bays : U64 := 0
  slots : List Nat := []
  wrote : List Span := []
  result : List Byte := []
  stage : Nat := 0
  lowered : Nat := 0
  level : Nat := 0
  lost : Bool := false
  descs : List (Nat × Nat) := []
  grp : Option (U32 × U32) := none
  left : List Nat := []
  tag : BitVec 24 := 0
  claims : U64 := 0
  disp : Bool := false
  rgs : List Region := []
  sides : List Region := []
  wins : TMap Window := []
  issuedAt : Nat := 0
  needs : List Nat := []
deriving DecidableEq, Repr

/-- A layer table entry (Table 12-7). -/
structure LayerEnt where
  vaddr : BitVec 48 := 0
  lraddr : BitVec 48 := 0
  lines : BitVec 24 := 0
  length : BitVec 24 := 0
  ofwd : BitVec 24 := 0
  obwd : BitVec 24 := 0
  ofb : BitVec 24 := 0
  ffmt : BitVec 4 := 0
  rot : Bool := false
  ledger : Bool := false
deriving DecidableEq, Repr

/-- A saved tensor (R126 to R131): BF16 bytes of a kept one with the bays that hold its lines; the spill address and the bytes
freed of a spilled one; `freed`: a kept tensor's space is free again. -/
structure Saved where
  layer : U16
  idx : Byte
  lines : Nat
  len : Nat
  kept : Bool
  bays : U64
  data : List Byte
  addr : Nat
  freed : Bool := false
deriving DecidableEq, Repr

/-- A live micro-batch: the pinned side of each layer's version record (R194), its saved tensors (R126), the layers whose saved
tensor is kept, once chosen (R127), its first MATMUL_FWD with SAVE received (R129), and its SAVE commands in issue order with the
layer of each (R345). -/
structure MicroBatch where
  mb : Byte
  pinned : Bool := false
  pins : List (Nat × Bool) := []
  saved : List Saved := []
  keep : Option (List Nat) := none
  firstFwd : Option CmdNo := none
  saves : List (CmdNo × Nat) := []
deriving DecidableEq, Repr

/-- Stall numerics header (Table 05-7). -/
structure NumHeader where
  step : U32 := 0
  clean : U16 := 0
  cleanlim : U16 := 2000
  startleft : U16 := 64
  startlen : U16 := 64
  lsexp : Byte := 16
  lsmin : Byte := 0
  lsmax : Byte := 32
  mode : BitVec 4 := 1
  stormrun : BitVec 4 := 0
  recovleft : U16 := 0
  lspins : U16 := 0
  skips : U32 := 0
  flagged : U32 := 0
  decision : Bool := false
deriving DecidableEq, Repr

/-- Calibration entry (Table 05-3) with its headroom table (R160): (block, D) in order of entry. -/
structure CalEnt where
  layer : U16
  slot : BitVec 3
  elems : BitVec 48 := 0
  cands : BitVec 48 := 0
  cmax : U16 := 0x8000
  cmin : U16 := 0x4000
  target : U16 := 0x0040
  clip : U16 := 0x8000
  share : U16 := 0
  pins : Byte := 0
  frozen : Bool := false
  outl : Bool := false
  headroom : List (BitVec 28 × BitVec 4) := []
deriving DecidableEq, Repr

/-- Layer entry (Table 05-6). -/
structure LayerNum where
  layer : U16
  blocks : BitVec 40 := 0
  pcand : BitVec 40 := 0
  fbsteps : Byte := 0
  nofb : Bool := false
  fallback : Bool := false
deriving DecidableEq, Repr

/-- A stall's scale history (R166). -/
structure History where
  hdr : NumHeader := {}
  cal : List CalEnt := []
  layers : List LayerNum := []
deriving DecidableEq, Repr

/-- The numerics state of a stall: history, defaults (R145, R494), waiting requests (R155, R161, R162) by command
number, the local step flag (R149), offending blocks (layer, block) of the open step (R159), decisions of closed steps
with the offending blocks each listed (R156, R176) and the headroom tables by layer in force in each (R160), where each layer's gradient output lies (layer, address, lines,
inner length: R159), and the run of closes at which the stall was THROTTLED, with the clock state at arrival of the close in progress
and whether the run was told (R389). -/
structure Numerics where
  now : History := {}
  closed : History := {}
  defCmin : U16 := 0x4000
  defCmax : U16 := 0x8000
  defTarget : U16 := 0x0040
  defOutl : Bool := false
  defFrozen : Bool := false
  reqMode : Option (CmdNo × BitVec 4) := none
  reqStartlen : Option (CmdNo × U16) := none
  reqLoss : Option (CmdNo × List Byte) := none
  stepFlag : Bool := false
  groupNf : Bool := false
  groupNrm : Bool := false
  offending : List (Nat × Nat) := []
  decisions : List (Nat × Bool × List (Nat × Nat)) := []
  closedHeads : List (Nat × List (Nat × List (BitVec 28 × BitVec 4))) := []
  historyLost : Bool := false
  inStorm : Bool := false
  gradAt : List (Nat × Nat × Nat × Nat) := []
  throttledCloses : Nat := 0
  arrived : Nat := 0
  throttleTold : Bool := false
deriving DecidableEq, Repr

/-- A stall (R337). `atClose`: CONTEXT and ROUNDS of a checkpoint as they stood at the last step close, none before one (R356). -/
structure Stall where
  layers : List LayerEnt := []
  bays : U64 := 0
  seed : U64 := 0
  budget : U16 := 0
  numaddr : BitVec 48 := 0
  numcal : U16 := 0
  windows : TMap Window := []
  live : List MicroBatch := []
  num : Numerics := {}
  parked : Option Nat := none
  atClose : Option (List Byte × List Byte) := none
deriving DecidableEq, Repr

/-- One step of a round program (R347, Table 12-10). -/
structure RStep where
  packet : List Byte
  ctl : U64
deriving DecidableEq, Repr

/-- A running round (R348, R349). `next`: step to issue; `again`: failed steps to reissue first; `tries`, `rebays`: reissues
used by step; `stop`: the status, DETAIL and record index with which it stops; `marked`: SYNC_OUT has risen in this
iteration. -/
structure RoundRun where
  cmd : CmdNo
  first : Nat
  iters : U32
  iter : U32 := 0
  startIter : U32 := 0
  next : Option Nat
  again : List Nat := []
  tries : List (Nat × Nat) := []
  rebays : List (Nat × Nat) := []
  stop : Option (Byte × U16 × U32) := none
  marked : Bool := false
deriving DecidableEq, Repr

/-- A loaded round (R347); `iter`: the iteration count a restored round starts from (R356). -/
structure Round where
  steps : List RStep
  mark : Bool := false
  iter : U32 := 0
  run : Option RoundRun := none
deriving DecidableEq, Repr

/-- A claim word of the claim table (Table 12-9, Table 12-15): resource, bay, holder code, queue or round. -/
structure Claim where
  res : Byte
  bay : Byte
  holder : Byte
  by_ : Byte
deriving DecidableEq, Repr

/-- The Clerk's copy of a weight-version record's RO fields (Table 06-4, R193); `flipped`: the edge of the last commit (R198). -/
structure Vers where
  ver0 : U16 := 0
  ver1 : U16 := 0
  pins0 : U16 := 0
  pins1 : U16 := 0
  curver : U16 := 0
  cur : Bool := false
  pending : Bool := false
  valid0 : Bool := false
  valid1 : Bool := false
  pubwait : U32 := 0
  pubs : U32 := 0
  flipped : Option Nat := none
deriving DecidableEq, Repr

/-- The Miller's copy of a layer record's RO fields (Table 06-1, R172). -/
structure LayerRO where
  staged : Bool := false
  dirty : Bool := false
  step : U32 := 0
  p1 : U32 := 0x3F800000
  p2 : U32 := 0x3F800000
  nextstep : U32 := 0
  lastlr : U32 := 0
  rootfails : U32 := 0
  diagsteps : U32 := 0
  flagged : U32 := 0
  underwin : U32 := 0
  lastiters : U16 := 0
  updates : U32 := 0
  saturated : U32 := 0
deriving DecidableEq, Repr

/-- A publication in progress (R197): `converting` after step 2; `since`: when it began to wait; `recorded`: its
100 ms record is written (R200); `conv`: the stall and the bays on which its conversions run, once they do (R339). -/
structure Publication where
  vaddr : Nat
  lraddr : Nat
  cmd : CmdNo
  stall : Nat
  layer : Nat
  converting : Bool := false
  since : Nat := 0
  waitUs : Nat := 0
  recorded : Bool := false
  conv : Option (Nat × U64) := none
deriving DecidableEq, Repr

/-- The Clerk (chapter 12). `heldClaim`: a host CLAIM that waits for READY (R305); `quiescing`: stalls that a CXL Reset
quiesces and whose commands before the number given still run, with the micro-batches to end (R304, R357). -/
structure Clerk where
  queues : TMap Queue := []
  cmds : List Cmd := []
  nextCmd : CmdNo := 0
  stalls : TMap (Option Stall) := []
  svc : TMap Window := []
  claims : List Claim := []
  rounds : TMap (Option Round) := []
  dropped : BitVec 24 := 0
  vers : TMap Vers := []
  lrec : TMap (Option LayerRO) := []
  pubs : List Publication := []
  owner : Owner := .nobody
  heldClaim : Bool := false
  quiescing : List (Nat × CmdNo × List Byte) := []
deriving DecidableEq, Repr

/-! ## Memory and Ostlers (chapters 07, 08) -/

/-- A stack (Table 07-7). ROWSLEFT is its tier's spare rows less `rowsUsed`. `rowHits`: corrected reads by
(bank, row, time) within 24 h; `unlisted`: the banks of rows spared while the field repair list was full (R221, Table 16-2);
`testRows`: the banks of rows that the signed test record maps out, spared at boot (R221); `tsv`: lanes spared in each channel, and
`tsvOut`: channels with a failing lane and no spare left. -/
structure Stack where
  corr : U32 := 0
  uncorr : U32 := 0
  fieldRows : U16 := 0
  rowsUsed : U16 := 0
  tsvSpared : Byte := 0
  tsvLeft : Byte := 4
  temp : Byte := 0
  scrubTime : U64 := 0
  scrubNext : Nat := 0
  hotref : Bool := false
  degraded : Bool := false
  selfRefresh : Bool := false
  halfRate : Bool := false
  rowHits : List (Nat × Nat × Nat) := []
  unlisted : List Nat := []
  testRows : List Nat := []
  tsv : TMap Nat := []
  tsvOut : List Nat := []
deriving DecidableEq, Repr

/-- A waiting request of an Ostler (R229, R230): its deadline, when it was latched, beats, lock length, and whether its
slack fell below 0 under another slot's lock (R238). -/
structure Request where
  dl : U16
  latched : Nat
  slack0 : Int
  beats : Nat
  lock : Option Nat
  underLock : Bool := false
deriving DecidableEq, Repr

/-- Ostler counter block (Table 08-8), but for SNAPTIME. -/
structure OstlerCtrs where
  waitcyc : U64 := 0
  xfers : U64 := 0
  beats : U64 := 0
  miss : U32 := 0
  lockmiss : U32 := 0
  locks : U32 := 0
  lockrefused : U16 := 0
  maskdrop : U16 := 0
  worstlate : U16 := 0
  lastslot : Byte := 0xFF
  lasttime : U64 := 0
  commits : U32 := 0
deriving DecidableEq, Repr

/-- An Ostler (R227 to R242). `masked`: slots latched not ALIVE, `rising`: slots that take part from the cycle given;
`busyUntil`: the cycle of the last beat of the transfer in progress, and `spare`: by how many 257ths of a cycle that beat ends before
its edge (an egress beat is no whole number of cycles); `lock`: the slot of a locked sequence and the beats it has left; `resumeAt`: when limited slots may be granted again, in 840ths of a
cycle (R376, R382); `due`: beats of the transfer in progress that BEATS does not count yet (R242); `linkAt`: when slot 19 was
last granted (R256). -/
structure Ostler where
  queue : TMap (List Request) := []
  masked : TMap Bool := []
  rising : TMap Nat := []
  last : Nat := 20
  busyUntil : Nat := 0
  busy : Bool := false
  lock : Option (Nat × Nat) := none
  spare : Nat := 0
  resumeAt : Nat := 0
  due : Nat := 0
  linkAt : Option Nat := none
  shadow : TMap (BitVec 12) := []
  active : TMap (BitVec 12) := []
  pending : Bool := false
  ctrs : OstlerCtrs := {}
  copy : OstlerCtrs := {}
  snap : U64 := 0
deriving DecidableEq, Repr

/-! ## Abond (chapter 09) -/

/-- States of a neighbour entry (Table 09-10). -/
inductive NbrState where
  | down | training | up | lost | conflict | incompatible | nofid
deriving DecidableEq, Repr

/-- Neighbour entry (Table 09-10). -/
structure Nbr where
  id : U64 := 0
  fid : Fid := 0
  port : BitVec 6 := 0
  state : NbrState := .down
  width : BitVec 4 := 0
  rate : BitVec 2 := 0
  ver : BitVec 2 := 0
  parkTx : Bool := false
  parkRx : Bool := false
  rev : Bool := false
  changes : BitVec 24 := 0
deriving DecidableEq, Repr

/-- Link counter block (Table 09-14), but for SNAPTIME. -/
structure LinkCtrs where
  txflits : U64 := 0
  rxflits : U64 := 0
  feccorr : U64 := 0
  crcerr : U32 := 0
  retries : U32 := 0
  peerlost : U16 := 0
  parks : U16 := 0
  transitdrop : U32 := 0
  ttldrop : U32 := 0
  unreach : U32 := 0
  verdrop : U16 := 0
  proterr : U16 := 0
deriving DecidableEq, Repr

/-- A flit that waits for egress: since when, and the port on which it came, none for a flit of the module itself. -/
structure Queued where
  flit : Flit
  since : Nat
  ingress : Option Nat
deriving DecidableEq, Repr

/-- An Abond port: control (Table 09-9), neighbour entry, counters, and the link protocol's own state (R255 to R259,
R267). Times are module time. `unacked`: sequenced flits sent with the time of first transmission; `egress`: flits that
wait; `credits`, `rxCredits`: those held of the partner and those it holds, by VC; `owed`: credits to return and `ackDue`: an
acknowledgement to give; `lastCtl`: when a link-control flit last left; `collMsg`: by source, the TAG of the last collective message that came in and
whether it is E5M2 data (R248). `cycBase`, `cycFrom`: cycles of the link island up to the tick of its last change of rate,
and that tick. -/
structure Port where
  parkIdle : U16 := 20
  parkEn : Bool := true
  maxRate : Bool := false
  enable : Bool := true
  fenced : Bool := false
  nbr : Nbr := {}
  ctrs : LinkCtrs := {}
  copy : LinkCtrs := {}
  snap : U64 := 0
  txSeq : BitVec 12 := 0
  rxSeq : BitVec 12 := 0
  unacked : List (Flit × Nat) := []
  egress : List Queued := []
  credits : List Nat := []
  discarding : Bool := false
  lastSeqSent : Nat := 0
  lastTraffic : Nat := 0
  probeSent : Option Nat := none
  lastProbe : Nat := 0
  retryAt : Option Nat := none
  trainingSince : Nat := 0
  parkedAt : Nat := 0
  rxCredits : List Nat := []
  owed : List Nat := []
  ackDue : Bool := false
  lastCtl : Option Nat := none
  nakDue : Bool := false
  resend : List Flit := []
  collMsg : TMap (Option (BitVec 24 × Bool)) := []
  cycBase : Nat := 0
  cycFrom : Nat := 0
deriving DecidableEq, Repr

/-- Reduction engine counter block (Table 09-15), but for SNAPTIME. -/
structure EngineCtrs where
  elems : U64 := 0
  contribs : U64 := 0
  nonfinite : U64 := 0
  saturated : U64 := 0
  flushedIn : U64 := 0
  flushedOut : U64 := 0
  zeroed : U32 := 0
  slotwait : U32 := 0
deriving DecidableEq, Repr

/-- A reduction engine (R271, R275, R280). -/
structure Engine where
  ctrs : EngineCtrs := {}
  copy : EngineCtrs := {}
  snap : U64 := 0
deriving DecidableEq, Repr

/-- An accumulator slot (R271, R272): the segment's elements' sums in units of 2^-146, those whose every contribution is −0 (R48),
which are NaN, the marked blocks, and the ranks latched. -/
structure AccSlot where
  group : U32
  inst : U32
  chunk : Nat
  segment : Nat
  sums : List Int
  negs : List Nat := []
  nans : List Nat
  marked : List Nat
  ranks : List Nat
deriving DecidableEq, Repr

/-- A collective of the member in progress (R268 to R274): the command that runs it, its instance, its chunks, its engine
and what it still waits for, as (peer rank, chunk, segment): `toSend` data not yet sent, `granted` those whose grant came
before the segment was rounded, `need` data not yet received; `toGrant`: segments (chunk, segment) to receive or to reduce that
are not granted yet; `toWrite`: own segments not yet written; `unackd`: data messages not yet acknowledged. -/
structure Coll where
  group : U32
  inst : U32
  cmd : CmdNo
  members : List Fid
  rank : Nat
  engine : Nat := 0
  chunks : List (Nat × Nat × Nat × Nat) := []
  toGrant : List (Nat × Nat) := []
  toWrite : List (Nat × Nat) := []
  toSend : List (Nat × Nat × Nat) := []
  granted : List (Nat × Nat × Nat) := []
  need : List (Nat × Nat × Nat) := []
  unackd : List (BitVec 24) := []
deriving DecidableEq, Repr

/-- A barrier in progress (R276, R277): the ranks whose ARRIVE is latched, the combination so far, own arrival, when
each member waited for was last polled. -/
structure Barrier where
  group : U32
  inst : U32
  cmd : CmdNo
  members : List Fid
  rank : Nat
  comb : CollHdr
  arrivals : List Nat
  sentUp : Bool := false
  own : U64 := 0
  lastPoll : Nat := 0
  polled : List (Nat × Nat) := []
deriving DecidableEq, Repr

/-- What a group tag has seen (R268, R269, R279, R390): the next instance number, the last release, messages held until a
collective starts. -/
structure Group where
  nextInst : U32 := 0
  lastRelease : U64 := 0
  held : List CollHdr := []
deriving DecidableEq, Repr

/-- An outstanding access over the fabric of a command (R206, R253): read data goes to `dst`. -/
structure Xfer where
  tag : BitVec 24
  peer : Fid
  port : Option Nat
  cmd : CmdNo
  read : Bool
  dst : Nat
  len : Nat
deriving DecidableEq, Repr

/-- Abond (chapter 09). -/
structure Abond where
  fid : Fid := 0
  fidValid : Bool := false
  pollInt : BitVec 10 := 20
  fidConf : Bool := false
  nbrChg : Bool := false
  portSel : BitVec 6 := 0
  rtIndex : U16 := 0
  engSel : BitVec 2 := 0
  rt : TMap U16 := []
  ports : TMap Port := []
  engines : TMap Engine := []
  slots : List AccSlot := []
  groups : TMap Group := []
  colls : List Coll := []
  barriers : List Barrier := []
  xfers : List Xfer := []
  nextTag : BitVec 24 := 0
  unreached : List (Fid × BitVec 24) := []
  edgesOut : List Nat := []
deriving DecidableEq, Repr

/-! ## The Tallyman and power states (chapters 13, 14) -/

/-- The settings of Table 13-3. -/
structure Budget where
  capw : U16 := 4000
  fmin : U16 := 800
  fmax : U16 := 2350
  vofflo : Byte := 0xEC
  voffhi : Byte := 0x14
  tread : U64 := 0
  tlevel : Byte := 128
  order : Byte := 0x06
deriving DecidableEq, Repr

/-- Totals and counters of Table 13-7 that are not settings; energies in µJ. -/
structure Totals where
  emodel : U64 := 0
  emeas : U64 := 0
  ecomp : U64 := 0
  emem : U64 := 0
  elink : U64 := 0
  efill : U64 := 0
  estatic : U64 := 0
  peakwin : U32 := 0
  refusals : U32 := 0
  waits : U32 := 0
  kcorr : U16 := 1024
  maxdev : U16 := 0
  pinfreq : U16 := 0
  pincut : U16 := 0
  pinplace : U16 := 0
  safety : U16 := 0
  brakes : U32 := 0
deriving DecidableEq, Repr

/-- An episode of a safety limit (R384): row and unit of Table 13-5, time of its last action, time from which its release
condition has held or of its last step up, whether it steps up already, and whether it stopped filler (R388). -/
structure Episode where
  row : Nat := 0
  unit : Nat := 0
  acted : Nat := 0
  quiet : Nat := 0
  rising : Bool := false
  filler : Bool := false
deriving DecidableEq, Repr

/-- The Tallyman (chapter 13). `modelled` is the modelled energy, in fJ, of the windows accounted in the open 10 ms (R369). Cuts are in eighths taken (memory, links, Miller issue) and steps taken (compute). -/
structure Tally where
  set : Budget := {}
  next : List (CmdNo × Budget) := []
  nextOrder : List (CmdNo × Byte) := []
  tot : Totals := {}
  reserve : U32 := 8000000
  braked : Bool := false
  cutC : Nat := 0
  cutMiller : Nat := 0
  cutM : Nat := 0
  cutL : Nat := 0
  atFmin : List (Nat × Bool) := []
  atFmax : List (Nat × Bool) := []
  atOrder : List (Nat × Bool) := []
  lastWindow : Nat := 0
  lastK : Nat := 0
  modelled : Nat := 0
  limits : List Episode := []
deriving DecidableEq, Repr

/-- A compute die (Table 13-8) with the counts of the open 1 ms interval. VCORE is the rail's setpoint, to which the rail rises from `railFrom` since
`railAt` (R361). -/
structure Die where
  vtrim : Int := 0
  vcore : U16 := 0
  tmax : Byte := 0
  ipeak : U16 := 0
  pinvolt : U16 := 0
  stretches : U32 := 0
  strcyc : U64 := 0
  strcycInt : Nat := 0
  defer : U32 := 0
  therm : U32 := 0
  ilimit : U32 := 0
  droopfb : U16 := 0
  atWindow : Bool := false
  lastTrim : Nat := 0
  railFrom : U16 := 0
  railAt : Nat := 0
  railLowerAt : Option Nat := none
deriving DecidableEq, Repr

/-- Numerics counters of a bay (Table 05-4). -/
structure BayCtrs where
  flushedIn : U64 := 0
  flushedOut : U64 := 0
  clipped : U64 := 0
  saturated : U64 := 0
  nonfinite : U64 := 0
  underwin : U64 := 0
  outliers : U64 := 0
  promoted : U64 := 0
  int32wrap : U64 := 0
  promoCand : U64 := 0
  headroomFull : U64 := 0
deriving DecidableEq, Repr

/-- A bay: counters, current stall (R339), its clock (R358 to R367, R378 to R390) and its Treadmill filler. `plan`,
`pace` is a step, `safe` the step that each row of Table 13-5 in action sets; `boost` steps above 26; `want` a decided change; `held` a held one
(R380); `stretchFrac` the fraction of a stretched cycle not yet counted, in 1/2000 (R379); `tj` the last sample of its hottest junction (R382). After a wait,
`work` is the level of the work that `combined`, work and filler together, still moves to (R387); `acts` the level and length in ns of its latest work, newest
first (R386); `paceGrp` the group that set `pace` (R390). -/
structure Bay where
  ctrs : BayCtrs := {}
  stall : Option Nat := none
  step : BitVec 5 := 0
  plan : BitVec 5 := 26
  fixed : Bool := false
  boost : Nat := 0
  boostAt : Nat := 0
  pace : Option (BitVec 5) := none
  safe : List (Nat × BitVec 5) := []
  want : Option (BitVec 5) := none
  held : Option (BitVec 5) := none
  stretched : Bool := false
  stretchAt : Nat := 0
  stretchFrac : Nat := 0
  cleanFrom : Nat := 0
  halfIssue : Bool := false
  stackHot : Bool := false
  tj : Option Int := none
  waitStart : Option Nat := none
  fill : Nat := 0
  fillAt : Nat := 0
  work : Option Nat := none
  combined : Nat := 0
  acts : List (Nat × Nat) := []
  paceGrp : U32 := 0
deriving DecidableEq, Repr

/-- Power states of Table 14-1. -/
inductive PState where
  | a0 | bg | bo | di | do_ | ms
deriving DecidableEq, Repr

/-- Residency record (Table 14-5) of a unit with the transition in progress: the state aimed at and the request it
belongs to. -/
structure Power where
  state : PState := .a0
  ta0 : U64 := 0
  tlight : U64 := 0
  tdeep : U64 := 0
  nlight : U32 := 0
  ndeep : U32 := 0
  demand : U32 := 0
  wakewait : U32 := 0
  wakemax : U32 := 0
  refused : U16 := 0
  seqwakes : U16 := 0
  lastchg : U64 := 0
  lastTick : Nat := 0
  idleFrom : Nat := 0
  entering : Option PState := none
  waking : Bool := false
  wakeFrom : Nat := 0
  onDemand : Bool := false
  sequenced : Bool := false
  req : Option CmdNo := none
deriving DecidableEq, Repr

/-- Refusal log entry (Table 14-6). -/
structure RefusalRec where
  time : U64
  target : U16
  refuser : U16
  reqstate : Byte
  reason : Byte
  source : Byte
  origin : Byte
  seq : U32
  info : U16
deriving DecidableEq, Repr

/-! ## Faults, the Farrier and the management controller (chapter 15) -/

/-- Error record (Table 15-2). -/
structure ErrRec where
  index : U32 := 0
  time : U64 := 0
  fid : Fid := 0
  cls : Byte := 0
  code : Byte := 0
  unit : U16 := 0
  pattern : U16 := 0
  opcode : U16 := 0
  seq : U32 := 0
  stall : Byte := 0xFF
  origin : Byte := 0xFF
  status : Byte := 0
  temp : Byte := 0
  vrail : U16 := 0
  freq : U16 := 0
  clk : BitVec 2 := 0
  stress : Bool := false
  nocaps : Bool := false
  fidv : Bool := false
  verdict : BitVec 2 := 0
  ustate : BitVec 2 := 0
  addr : BitVec 48 := 0
  capsule : BitVec 48 := 0
  related : U32 := 0xFFFFFFFF
  syndrome : BitVec 128 := 0
deriving DecidableEq, Repr

/-- Unit states (R422). -/
inductive UState where
  | active | suspect | fenced
deriving DecidableEq, Repr

/-- A unit's views and test state (R421, R422, R425, R429, R431). `last`: last verdict, 0 none; `fromUnres`: the fence
came from an UNRESOLVED verdict; `testing`: when a test began and which tests; `corr`: corrected words of the unit's SRAM (R218);
`was`: its state in the Clerk's view before the edge `changedAt` (R422); `msAtSlice`: time spent in MS up to the last slice (R431). -/
structure UnitState where
  clerk : UState := .active
  mgmt : UState := .active
  detIdx : U32 := 0xFFFFFFFF
  detPattern : U16 := 0
  last : Nat := 0
  fromUnres : Bool := false
  unresRow : Nat := 0
  testing : Option (Nat × BitVec 4) := none
  queuedTest : Bool := false
  run : Option CmdNo := none
  due : Bool := false
  dueSince : Nat := 0
  lastSlice : Nat := 0
  cool : Bool := false
  shoeing : Bool := false
  disagreeAt : Option Nat := none
  frozen : Option (List Byte) := none
  corr : U32 := 0
  changedAt : Option Nat := none
  was : UState := .active
  msAtSlice : Nat := 0
deriving DecidableEq, Repr

/-- A slot of the capsule store (R417): the unit, the record, the operands, and when its unit's verdict was written. -/
structure Capsule where
  unit : U16
  record : U32
  data : List Byte
  judged : Option Nat := none
deriving DecidableEq, Repr

/-- A message of the management controller (Table 15-5). -/
structure MgmtMsg where
  kind : Byte
  mseq : U32
  ref : U32
  payload : List Byte
  sentAt : Nat
deriving DecidableEq, Repr

/-- The management controller and the error log (R418 to R421). `health`: POISONED and DEGRADED of each stack as last reported
(R222). -/
structure Mgmt where
  nextIndex : U32 := 0
  log : List ErrRec := []
  kept : List ErrRec := []
  unsent : List U32 := []
  collector : Option (BitVec 128) := none
  mseq : U32 := 0
  unacked : List MgmtMsg := []
  drops : U32 := 0
  throttleLimit : U16 := 50
  bayLimit : Byte := 48
  belowBays : Bool := false
  resets : List Nat := []
  lastAcked : Option U32 := none
  history : List (U16 × U16 × Nat) := []
  remapDue : List Nat := []
  health : TMap (Nat × Bool) := []
deriving DecidableEq, Repr

/-- What left the part (log 17). -/
inductive Out where
  /-- An MSI-X message of a vector, with the address and the data of its table entry as software wrote them (R282, R301). -/
  | msix (v : Nat) (addr : U64) (data : U32)
  /-- A flit put on the line of a port (R255). -/
  | flit (p : Nat) (f : Flit)
  /-- A collective message's header, addressed to a fabric identifier (R276, R278). -/
  | coll (dst : Fid) (h : CollHdr) (body : List Byte)
  /-- A RESP with status, detail and result bytes to a fabric identifier (R206, R264, R330). -/
  | resp (dst : Fid) (tag : BitVec 24) (unreach : Bool) (status : Byte) (detail : U16) (body : List Byte)
  /-- A memory request to a peer (R206). -/
  | memReq (dst : Fid) (tag : BitVec 24) (write : Bool) (addr : Nat) (len : Nat) (data : List Byte)
  /-- A PROBE or PROBE_REPLY (R250). -/
  | probe (p : Nat) (reply : Bool) (m : Probe)
  /-- A back-invalidate snoop of an HDM line (R289). -/
  | backInval (line : Addr)
  /-- A management datagram (R419). -/
  | datagram (kind : Byte) (mseq : U32) (ref : U32) (payload : List Byte)
  /-- An I3C in-band interrupt (R482). -/
  | ibi
deriving DecidableEq, Repr

/-- A staged activation (R126, R128): the address and the bytes of the tensor just produced, the BF16 bytes of its unrotated
values, and the bays that produced its lines. -/
structure Staged where
  addr : Nat
  image : List Byte
  plain : List Byte
  bays : U64
deriving DecidableEq, Repr

/-! ## The whole part -/

/-- The state of the FD8-4T as a block: the queue of waiting commands and everything the spec gives the module.
`staging`: the staged activations by data address (R126, R128, log 23). -/
structure State where
  pending : List Instr := []
  freeCtr : Nat := 0
  resp : List Byte := []
  respPoison : Bool := false
  out : List Out := []
  hostMem : TMap Byte := []
  mem : TMap Byte := []
  poison : List Nat := []
  staging : List Staged := []
  clk : Clk := {}
  brd : Board := {}
  flash : Flash := {}
  boot : Boot := {}
  hp : HostPort := {}
  mb : Mailboxes := {}
  ck : Clerk := {}
  stackTab : TMap Stack := []
  ostlers : TMap Ostler := []
  ostSel : BitVec 10 := 0
  ab : Abond := {}
  tal : Tally := {}
  dies : TMap Die := []
  bays : TMap Bay := []
  millerHalf : TMap Bool := []
  pw : TMap Power := []
  refusals : List RefusalRec := []
  logTotal : U32 := 0
  units : TMap UnitState := []
  capsules : TMap (Option Capsule) := []
  mg : Mgmt := {}
deriving DecidableEq, Repr

/-- The machine right after reset: cold, before input power, every register at its reset value, nothing in memory, no
command waiting (logs 1 to 13, 19). -/
def State.reset : State := {}

end Sys2Proof.Machine
end

