-- ==== Sys2Proof/Machine/Ops.lean ====
section
/-! DEFINITION. Shared operations: sparse tables, little-endian fields, memory and its lines, the address map, window
checks, free values, interrupts and error records. -/

namespace Sys2Proof.Machine

/-! ## Sparse tables -/

/-- Value at a key; `d` where the key is not listed. -/
def tget (d : α) : TMap α → Nat → α
  | [], _ => d
  | (k', v) :: m, k => if k = k' then v else tget d m k

/-- Put a key into a table, keeping keys rising. -/
def tput : TMap α → Nat → α → TMap α
  | [], k, v => [(k, v)]
  | (k', v') :: m, k, v => if k < k' then (k, v) :: (k', v') :: m else if k = k' then (k, v) :: m else (k', v') :: tput m k v

/-- Write a key, keeping keys rising and listing no default. -/
def tset [DecidableEq α] (d : α) (m : TMap α) (k : Nat) (v : α) : TMap α :=
  if v = d then m.filter (fun x => x.1 != k) else tput m k v

/-- Every key of the table is above `b`, keys rise strictly and no value is the default. -/
def tableFrom [DecidableEq α] (d : α) : Option Nat → TMap α → Bool
  | _, [] => true
  | b, (k, v) :: m => (match b with | none => true | some b => decide (b < k)) && decide (v ≠ d) && tableFrom d (some k) m

/-- The canonical form of a sparse table. -/
def tableWf [DecidableEq α] (d : α) (m : TMap α) : Bool := tableFrom d none m

/-- The canonical form of memory: addresses strictly rising, no entry equal to what an unlisted address reads as (log 3). -/
abbrev Memory.wf (m : TMap Byte) : Bool := tableWf 0 m

/-! ## Bits, fields and little-endian bytes (R4, R5) -/

/-- Bits [hi:lo] of a number. -/
def bits (v hi lo : Nat) : Nat := (v >>> lo) % 2 ^ (hi + 1 - lo)
/-- Bit `i` of a number. -/
def bit (v i : Nat) : Bool := v.testBit i
/-- A Bool as one bit. -/
def b1 (b : Bool) : Nat := if b then 1 else 0
/-- The number with the fields given as (lowest bit, width, value). -/
def pack : List (Nat × Nat × Nat) → Nat
  | [] => 0
  | (lo, w, v) :: fs => (v % 2 ^ w) <<< lo ||| pack fs
/-- `n` bytes of a number, lowest byte first (R5). -/
def bytesLE : (n : Nat) → (v : Nat) → List Byte
  | 0, _ => []
  | n + 1, v => BitVec.ofNat 8 v :: bytesLE n (v / 256)
/-- The number whose bytes, lowest first, are given (R5). -/
def natLE : List Byte → Nat
  | [] => 0
  | b :: bs => b.toNat + 256 * natLE bs
/-- A two's-complement reading of `w` bits. -/
def sgn (w v : Nat) : Int := if v % 2 ^ w < 2 ^ (w - 1) then (v % 2 ^ w : Nat) else ((v % 2 ^ w : Nat) : Int) - 2 ^ w
/-- Saturating addition on an event counter (R7). -/
def satAdd {w : Nat} (c : BitVec w) (n : Nat) : BitVec w := BitVec.ofNat w (min (c.toNat + n) (2 ^ w - 1))
/-- Bytes `off … off + n` of a byte string, zeros beyond its end (R316). -/
def slice (bs : List Byte) (off n : Nat) : List Byte :=
  let t := (bs.drop off).take n
  t ++ List.replicate (n - t.length) 0
/-- The field of `n` bytes at `off` of a byte string. -/
def fieldAt (bs : List Byte) (off n : Nat) : Nat := natLE (slice bs off n)
/-- The numbers of the bits set in a mask, ascending, below `n`. -/
def maskBits (m n : Nat) : List Nat := (List.range n).filter (fun i => m.testBit i)
/-- ⌈a / b⌉. -/
def ceilDiv (a b : Nat) : Nat := (a + b - 1) / b
/-- Two half-open spans share a byte. -/
def overlaps (a la b lb : Nat) : Bool := decide (a < b + lb) && decide (b < a + la)

/-! ## Units of the state -/

def State.queue (s : State) (q : Nat) : Queue := tget {} s.ck.queues q
def State.setQueue (s : State) (q : Nat) (v : Queue) : State :=
  { s with ck := { s.ck with queues := tset {} s.ck.queues q v } }
def State.port (s : State) (p : Nat) : Port := tget {} s.ab.ports p
def State.setPort (s : State) (p : Nat) (v : Port) : State :=
  { s with ab := { s.ab with ports := tset {} s.ab.ports p v } }
def State.engine (s : State) (d : Nat) : Engine := tget {} s.ab.engines d
def State.setEngine (s : State) (d : Nat) (v : Engine) : State :=
  { s with ab := { s.ab with engines := tset {} s.ab.engines d v } }
def State.group (s : State) (g : Nat) : Group := tget {} s.ab.groups g
def State.setGroup (s : State) (g : Nat) (v : Group) : State :=
  { s with ab := { s.ab with groups := tset {} s.ab.groups g v } }
def State.bay (s : State) (b : Nat) : Bay := tget {} s.bays b
def State.setBay (s : State) (b : Nat) (v : Bay) : State := { s with bays := tset {} s.bays b v }
def State.die (s : State) (d : Nat) : Die := tget {} s.dies d
def State.setDie (s : State) (d : Nat) (v : Die) : State := { s with dies := tset {} s.dies d v }
def State.stack (s : State) (k : Nat) : Stack := tget {} s.stackTab k
def State.setStack (s : State) (k : Nat) (v : Stack) : State := { s with stackTab := tset {} s.stackTab k v }
def State.ostler (s : State) (o : Nat) : Ostler := tget {} s.ostlers o
def State.setOstler (s : State) (o : Nat) (v : Ostler) : State := { s with ostlers := tset {} s.ostlers o v }
def State.power (s : State) (u : Nat) : Power := tget {} s.pw u
def State.setPower (s : State) (u : Nat) (v : Power) : State := { s with pw := tset {} s.pw u v }
def State.unit (s : State) (u : Nat) : UnitState := tget {} s.units u
def State.setUnit (s : State) (u : Nat) (v : UnitState) : State := { s with units := tset {} s.units u v }
def State.stall (s : State) (k : Nat) : Option Stall := tget none s.ck.stalls k
def State.setStall (s : State) (k : Nat) (v : Option Stall) : State :=
  { s with ck := { s.ck with stalls := tset none s.ck.stalls k v } }
def State.round (s : State) (r : Nat) : Option Round := tget none s.ck.rounds r
def State.setRound (s : State) (r : Nat) (v : Option Round) : State :=
  { s with ck := { s.ck with rounds := tset none s.ck.rounds r v } }
def State.vers (s : State) (a : Nat) : Vers := tget {} s.ck.vers a
def State.setVers (s : State) (a : Nat) (v : Vers) : State :=
  { s with ck := { s.ck with vers := tset {} s.ck.vers a v } }
def State.lrec (s : State) (a : Nat) : Option LayerRO := tget none s.ck.lrec a
def State.setLrec (s : State) (a : Nat) (v : Option LayerRO) : State :=
  { s with ck := { s.ck with lrec := tset none s.ck.lrec a v } }

/-- Every loaded stall with its number, ascending. -/
def State.stallsLoaded (s : State) : List (Nat × Stall) :=
  s.ck.stalls.filterMap (fun (k, v) => v.map (fun st => (k, st)))

/-- The entry of the command table with a number. -/
def State.cmd (s : State) (c : CmdNo) : Option Cmd := s.ck.cmds.find? (fun x => x.no == c)

/-- Replace an entry of the command table. -/
def State.setCmd (s : State) (x : Cmd) : State :=
  { s with ck := { s.ck with cmds := s.ck.cmds.map (fun y => if y.no == x.no then x else y) } }

/-- Change the entry of a command, if it is there. -/
def State.onCmd (s : State) (c : CmdNo) (f : Cmd → Cmd) : State :=
  { s with ck := { s.ck with cmds := s.ck.cmds.map (fun y => if y.no == c then f y else y) } }

/-- Put something on the way out of the part. -/
def State.emit (s : State) (o : Out) : State := { s with out := s.out ++ [o] }

/-- Answer a reader with the bytes of a register or line. -/
def State.answer (s : State) (n v : Nat) : State := { s with resp := bytesLE n v, respPoison := false }

/-! ## Free values (log 5) -/

/-- The next free value for a purpose, and the state with the counter advanced. -/
def State.fresh (s : State) (purpose index : Nat) : Nat × State :=
  (Config.free s.freeCtr purpose index, { s with freeCtr := s.freeCtr + 1 })

/-! ## Timers (R31, R32) -/

/-- Module time as a number: what a timer in units of time counts (R32). -/
def State.now (s : State) : Nat := s.clk.time.toNat

/-- Module time has come to `at_`, or is past it. Module time wraps (R7), so the nearer side of the circle decides (log 59). -/
def State.reached (s : State) (at_ : Nat) : Bool := decide (0 ≤ (s.clk.time - BitVec.ofNat 64 at_).toInt)

/-- Nanoseconds of module time since `at_`; none where module time was set back behind it. -/
def State.sinceNs (s : State) (at_ : Nat) : Nat := (s.clk.time - BitVec.ofNat 64 at_).toInt.toNat

/-- R31: an awaited event that is latched on the edge on which its timer expires. No time passes while commands wait in the
queue (log 1), so the events of the present edge not yet evaluated are those that stand in it. -/
def State.latched (s : State) (awaited : Instr → Bool) : Bool := s.pending.any awaited

/-! ## Memory (chapter 07) -/

def State.byte (s : State) (a : Nat) : Byte := tget 0 s.mem a
def State.setByte (s : State) (a : Nat) (b : Byte) : State := { s with mem := tset 0 s.mem a b }

/-- `n` bytes from address `a`. -/
def State.readBytes (s : State) (a : Nat) : Nat → List Byte
  | 0 => []
  | n + 1 => s.byte a :: s.readBytes (a + 1) n

/-- The little-endian number of `n` bytes at `a`. -/
def State.readNat (s : State) (a n : Nat) : Nat := natLE (s.readBytes a n)

/-- Bytes written into a table of bytes from address `a`. -/
def writeTable (m : TMap Byte) (a : Nat) : List Byte → TMap Byte
  | [] => m
  | b :: bs => writeTable (tset 0 m a b) (a + 1) bs

/-- Bytes read from a table of bytes. -/
def readTable (m : TMap Byte) (a : Nat) : Nat → List Byte
  | 0 => []
  | n + 1 => tget 0 m a :: readTable m (a + 1) n

/-- The 64-byte lines that a span touches, by line number (R211). -/
def linesOf (a n : Nat) : List Nat :=
  if n = 0 then [] else (List.range ((a + n - 1) / 64 + 1 - a / 64)).map (· + a / 64)

/-- The span touches a line, and covers it whole. -/
def touches (a n l : Nat) : Bool := 0 < n && overlaps a n (l * 64) 64
def coversLine (a n l : Nat) : Bool := a ≤ l * 64 && l * 64 + 64 ≤ a + n

/-- The lowest line of a list. -/
def lowest : List Nat → Option Nat
  | [] => none
  | l :: ls => some (ls.foldl min l)

/-- Store bytes; a line written whole loses its poison (R219). -/
def State.store (s : State) (a : Nat) (bs : List Byte) : State :=
  { s with mem := writeTable s.mem a bs, poison := s.poison.filter (fun l => !coversLine a bs.length l) }

/-- Bytes of host physical memory (log 4). -/
def State.readHost (s : State) (a n : Nat) : List Byte := readTable s.hostMem a n
def State.storeHost (s : State) (a : Nat) (bs : List Byte) : State := { s with hostMem := writeTable s.hostMem a bs }

/-- The tier of an address: 0 N, 1 M, 2 F (Table 07-1). -/
def tierOf (a : Nat) : Option Nat :=
  if a < 0xC000000000 then some 0
  else if 0x10000000000 ≤ a && a < 0x20000000000 then some 1
  else if 0x20000000000 ≤ a && a < 0x44000000000 then some 2
  else none

/-- First byte and end of a tier (Table 07-1). -/
def tierSpan (t : Nat) : Nat × Nat :=
  if t = 0 then (0, 0xC000000000) else if t = 1 then (0x10000000000, 0x20000000000) else (0x20000000000, 0x44000000000)

/-- The span lies wholly within one tier. -/
def inTier (t a n : Nat) : Bool := (tierSpan t).1 ≤ a && a + n ≤ (tierSpan t).2

/-- Stack holding an address, by Table 07-7's STACK code (R203, Table 07-2). -/
def stackOf (a : Nat) : Option Nat :=
  match tierOf a with
  | some 0 => some (4 * (a / 0x3000000000) + bits (a % 0x3000000000) 11 10)
  | some 1 => let o := a - 0x10000000000; some (16 + 2 * (o / 0x4000000000) + bits (o % 0x4000000000) 10 10)
  | some 2 => let o := a - 0x20000000000; some (24 + 3 * (o / 0x4800000000) + (o % 0x4800000000 / 1024) % 3)
  | _ => none

/-- The Granary group of a Tier F address (Table 07-2). -/
def groupOf (a : Nat) : Nat := (a - 0x20000000000) / 0x4800000000

/-- Channels of a stack (Table 07-3). -/
def channels (k : Nat) : Nat := if k < 16 then 32 else if k < 24 then 16 else 4

/-- The line lies in a channel that has no spare lane for a failed one: it reads as poisoned (R221). -/
def State.deadLine (s : State) (l : Nat) : Bool :=
  match stackOf (l * 64) with
  | some k => (s.stack k).tsvOut.contains (Config.channel l % channels k)
  | none => false
/-- Such lines of a span that are not poisoned themselves. -/
def State.deadIn (s : State) (a n : Nat) : List Nat :=
  if s.stackTab.all (fun x => x.2.tsvOut == []) then [] else (linesOf a n).filter (fun l => s.deadLine l && !s.poison.contains l)

/-- The poisoned lines that a span touches. -/
def State.poisonIn (s : State) (a n : Nat) : List Nat := s.poison.filter (touches a n) ++ s.deadIn a n
/-- The poisoned lines that a span covers only in part. -/
def State.partIn (s : State) (a n : Nat) : List Nat := (s.poisonIn a n).filter (fun l => !coversLine a n l)

/-- Some line of the span is poisoned (R219). -/
def State.poisoned (s : State) (a n : Nat) : Bool := s.poisonIn a n != []
/-- A partly covered line of the span is poisoned: a command's write of it fails, another's write is lost (R219). -/
def State.partPoisoned (s : State) (a n : Nat) : Bool := s.partIn a n != []

/-- Every byte of the span is mapped memory that a window can cover (R202, R205). -/
def mapped (a n : Nat) : Bool := inTier 0 a n || inTier 1 a n || inTier 2 a n

/-! ## Windows (R207 to R210) -/

def Window.lo (w : Window) : Nat := w.base.toNat * 4096
def Window.hi (w : Window) : Nat := w.limit.toNat * 4096
/-- The window grants the rights asked for. -/
def Window.grants (w : Window) (rd wr : Bool) : Bool := (!rd || w.r) && (!wr || w.w)
/-- The window covers the whole span. -/
def Window.covers (w : Window) (a n : Nat) : Bool := w.lo ≤ a && a + n ≤ w.hi

/-- Decode a window entry of 16 bytes (Table 07-4). -/
def Window.ofNat (v : Nat) : Window :=
  { valid := bit v 5, spill := bit v 4, peer := bit v 3, w := bit v 1, r := bit v 0
    tier := BitVec.ofNat 4 (bits v 15 12), base := BitVec.ofNat 36 (bits v 83 48), limit := BitVec.ofNat 36 (bits v 123 88) }

/-- A window entry as the 16 bytes of Table 07-4, in slot `k`. -/
def Window.toNat (w : Window) (k : Nat) : Nat :=
  pack [(88, 36, w.limit.toNat), (48, 36, w.base.toNat), (12, 4, w.tier.toNat), (8, 4, k), (5, 1, b1 w.valid),
    (4, 1, b1 w.spill), (3, 1, b1 w.peer), (1, 1, b1 w.w), (0, 1, b1 w.r)]

/-- R208: an entry that WINDOW_SET and STALL_LOAD accept, against the other windows of the stall. -/
def windowOk (others : List Window) (w : Window) : Bool :=
  !w.valid ||
    (w.base.toNat < w.limit.toNat && w.tier.toNat ≤ 2 && inTier w.tier.toNat w.lo (w.hi - w.lo) &&
      (!w.spill || (w.tier.toNat = 0 && w.r && w.w && !(others.any (fun o => o.valid && o.spill)))))

/-- The valid windows of a table with their slots. -/
def validWindows (ws : TMap Window) : List (Nat × Window) := ws.filter (fun x => x.2.valid)

/-- R209: a single valid window covers every byte of the access and grants the rights. -/
def allowed (ws : TMap Window) (rd wr : Bool) (a n : Nat) : Bool :=
  (validWindows ws).any (fun x => x.2.covers a n && x.2.grants rd wr)

/-- The first failing address of R209. -/
def firstFailing (ws : TMap Window) (rd wr : Bool) (a : Nat) : Nat :=
  (validWindows ws).foldl (fun acc x =>
    if x.2.grants rd wr && x.2.lo ≤ a && a < x.2.hi then max acc x.2.hi else acc) a

/-- The distance of a window from an address (R209). -/
def Window.distance (w : Window) (a : Nat) : Nat :=
  if w.lo ≤ a && a < w.hi then 0 else if a < w.lo then w.lo - a else a - (w.hi - 1)

/-- The nearest slot of R209: least distance, then granting, then lowest slot. None: the stall has no valid window. -/
def nearestSlot (ws : TMap Window) (rd wr : Bool) (a : Nat) : Option Nat :=
  let key := fun (x : Nat × Window) => (x.2.distance a, if x.2.grants rd wr then 0 else 1, x.1)
  let lt := fun (p q : Nat × Nat × Nat) =>
    p.1 < q.1 || (p.1 = q.1 && (p.2.1 < q.2.1 || (p.2.1 = q.2.1 && p.2.2 < q.2.2)))
  ((validWindows ws).foldl (fun (acc : Option (Nat × Nat × Nat)) x =>
    match acc with | none => some (key x) | some k => if lt (key x) k then some (key x) else acc) none).map (·.2.2)

/-- The windows that check a command: the stall's, or the service context's (R209, R338). -/
def State.windowsOf (s : State) (stall : Nat) : TMap Window :=
  if stall = 0xFF then s.ck.svc else match s.stall stall with | some st => st.windows | none => []

/-! ## Unit codes (Table 12-11) -/

def bayCode (b : Nat) : U16 := BitVec.ofNat 16 (0x1000 + b)
def millerCode (g : Nat) : U16 := BitVec.ofNat 16 (0x2000 + g)
def portCode (p : Nat) : U16 := BitVec.ofNat 16 (0x3000 + p)
def engineCode (d : Nat) : U16 := BitVec.ofNat 16 (0x4000 + d)
def stackCode (k : Nat) : U16 := BitVec.ofNat 16 (0x5000 + k)
def clerkCode : U16 := 0x6000
def cxlCode : U16 := 0x7000
def mgmtCode : U16 := 0x8000
def unitKind (u : Nat) : Nat := u / 4096
def unitIndex (u : Nat) : Nat := u % 4096

/-- A unit code that names a unit (R491). -/
def unitOk (u : Nat) : Bool :=
  match unitKind u with
  | 1 => unitIndex u < 64 | 2 => unitIndex u < 8 | 3 => unitIndex u < 64 | 4 => unitIndex u < 4
  | 5 => unitIndex u < 48 | 6 => unitIndex u = 0 | 7 => unitIndex u = 0 | 8 => unitIndex u = 0 | _ => false

/-- A bay is ACTIVE in the Clerk's view (R17, R421). -/
def State.bayActive (s : State) (b : Nat) : Bool := (s.unit (0x1000 + b)).clerk == .active

/-- Number of ACTIVE bays, ACTBAYS (R17). -/
def State.actBays (s : State) : Nat := ((List.range 64).filter s.bayActive).length

/-- min(fplan, fpace) of a bay, as a step (R363). -/
def Bay.desired (b : Bay) : Nat :=
  let fplan := if b.fixed then 26 else b.plan.toNat
  match b.pace with | none => fplan | some p => if b.fixed then fplan else min fplan p.toNat

/-- fsafe: the lowest limit that a safety limit sets for the bay; none where no safety limit acts (R363). -/
def Bay.fsafe (b : Bay) : Option (BitVec 5) :=
  b.safe.foldl (fun m x => match m with | none => some x.2 | some k => some (if x.2 < k then x.2 else k)) none

/-- The clock state of a bay by Table 13-1: 2 THROTTLED, 1 CAPPED, 0 FULL. -/
def Bay.clockState (b : Bay) : Nat :=
  let thr := match b.fsafe with | none => false | some k => decide (k.toNat < b.desired)
  if thr || b.stackHot then 2 else if b.desired < 26 then 1 else 0

/-! ## The host link (R295) -/

/-- Traffic that needs the CXL.io link stream, or the CXL.cachemem stream, is let through: it is not in the insecure state (R295). -/
def State.ioOpen (s : State) : Bool := !(s.hp.ide0.enabled && s.hp.ide0.insecure)
def State.memOpen (s : State) : Bool := !(s.hp.ide1.enabled && s.hp.ide1.insecure)

/-- The Clerk reaches rings in host memory: over CXL.cache in the modes that carry it, else over CXL.io (R292, R295, log 63). -/
def State.ringOpen (s : State) : Bool := if s.hp.mode ≤ 2 then s.memOpen else s.ioOpen

/-- A host access over CXL.io to BAR0 or BAR2: refused, with no effect, while its stream is insecure (R295, log 63). -/
def State.viaIo (s : State) (k : State → State) : State := if s.ioOpen then k s else s

/-! ## Interrupts (R301) -/

/-- Signal an MSI-X vector: sent when MSI-X is enabled, the vector unmasked and the link stream secure (R295), else held in the pending-bit array. -/
def State.signal (s : State) (v : Nat) : State :=
  let e := tget ({} : MsixEntry) s.hp.msix v
  if s.hp.msixEnable && !s.hp.msixFnMask && !e.ctl.getLsbD 0 && s.ioOpen then s.emit (.msix v e.addr e.data)
  else { s with hp := { s.hp with pba := s.hp.pba ||| BitVec.ofNat 70 (2 ^ v) } }

/-- Set CAUSE bit `k`; vector 64 + k is signalled when the bit rises while its mask bit is clear (R301). -/
def State.setCause (s : State) (k : Nat) : State :=
  if s.hp.cause.getLsbD k then s
  else
    let t := { s with hp := { s.hp with cause := s.hp.cause ||| BitVec.ofNat 6 (2 ^ k) } }
    if s.hp.mask.getLsbD k then t else t.signal (64 + k)

/-- Set a bit of ABOND_STAT: vector 66 is signalled as the bit rises (R301). -/
def State.abondEvent (s : State) (fidconf : Bool) : State :=
  let was := if fidconf then s.ab.fidConf else s.ab.nbrChg
  let t := if fidconf then { s with ab := { s.ab with fidConf := true } } else { s with ab := { s.ab with nbrChg := true } }
  if was then t
  else
    let u := { t with hp := { t.hp with cause := t.hp.cause ||| 4 } }
    if s.hp.mask.getLsbD 2 then u else u.signal 66

/-- Send the pending vectors that are now enabled and unmasked (R298, R301). -/
def State.flushPba (s : State) : State :=
  (maskBits s.hp.pba.toNat 70).foldl (fun t v =>
    let e := tget ({} : MsixEntry) t.hp.msix v
    if t.hp.msixEnable && !t.hp.msixFnMask && !e.ctl.getLsbD 0 && t.ioOpen then
      { t.emit (.msix v e.addr e.data) with hp := { t.hp with pba := t.hp.pba &&& ~~~(BitVec.ofNat 70 (2 ^ v)) } }
    else t) s

/-- A PINNED or NUMERICS_STORM event sets CAUSE bit 5 (R301, R392). -/
def State.pinnedEvent (s : State) : State := s.setCause 5

/-! ## Error records (R415, R418, R419) -/

/-- Frequency in MHz of a step (R358). -/
def stepMHz (k : Nat) : Nat := 800 + 50 * k

/-- The voltage of a die's core rail now: to a higher setpoint it rises at 10 mV/µs (R361). -/
def Die.railNow (x : Die) (now : Nat) : Nat :=
  if x.railFrom.toNat < x.vcore.toNat then min x.vcore.toNat (x.railFrom.toNat + (now - x.railAt) / 100) else x.vcore.toNat

/-- Temperature, rail, clock and clock state of a unit's island at detection (Table 15-2): a bay's last sample, a stack's temperature; where no sensor of the
model covers the unit the reading is free (log 5). -/
def State.stamp (s : State) (r : ErrRec) : ErrRec :=
  let u := r.unit.toNat
  let i := unitIndex u
  match unitKind u with
  | 1 =>
    let d := s.die (i / 16)
    let b := s.bay i
    { r with temp := (match b.tj with | some t => BitVec.ofInt 8 t | none => BitVec.ofNat 8 (Config.free s.freeCtr 1 u)), vrail := BitVec.ofNat 16 (d.railNow s.now), freq := BitVec.ofNat 16 (stepMHz b.step.toNat), clk := BitVec.ofNat 2 b.clockState }
  | 5 => { r with temp := (s.stack i).temp }
  | 2 => { r with temp := BitVec.ofNat 8 (Config.free s.freeCtr 1 u), vrail := BitVec.ofNat 16 (Config.free s.freeCtr 2 u), freq := 1600 }
  | 3 => { r with temp := BitVec.ofNat 8 (Config.free s.freeCtr 1 u), vrail := BitVec.ofNat 16 (Config.free s.freeCtr 2 u), freq := if (s.port i).nbr.rate = 1 then 500 else 1000 }
  | 4 => { r with temp := BitVec.ofNat 8 (Config.free s.freeCtr 1 u), vrail := BitVec.ofNat 16 (Config.free s.freeCtr 2 u), freq := 1000 }
  | 6 => { r with temp := BitVec.ofNat 8 (Config.free s.freeCtr 1 u), vrail := BitVec.ofNat 16 (Config.free s.freeCtr 2 u), freq := 1200 }
  | 7 => { r with temp := BitVec.ofNat 8 (Config.free s.freeCtr 1 u), vrail := BitVec.ofNat 16 (Config.free s.freeCtr 2 u), freq := if s.hp.mode = 0 || s.hp.mode = 3 then 1000 else 500 }
  | 8 => { r with temp := BitVec.ofNat 8 (Config.free s.freeCtr 1 u), vrail := BitVec.ofNat 16 (Config.free s.freeCtr 2 u), freq := 500 }
  | _ => r

/-- The index after `i`: 0xFFFF_FFFF is never used (R418). -/
def nextIndex (i : U32) : U32 := if i = 0xFFFFFFFE then 0 else i + 1

/-- Write an error record: the log keeps the newest 8,192, the management controller the newest 65,536, and CAUSE bit 3
is set (R418, R419). Answers the record's index. -/
def State.record (s : State) (r : ErrRec) : U32 × State :=
  let i := s.mg.nextIndex
  let r := s.stamp { r with index := i, time := s.clk.time, fidv := s.ab.fidValid, fid := if s.ab.fidValid then s.ab.fid else 0 }
  let log := s.mg.log ++ [r]
  let kept := s.mg.kept ++ [r]
  let mg := { s.mg with nextIndex := nextIndex i, log := log.drop (log.length - 8192), kept := kept.drop (kept.length - 65536),
                        unsent := s.mg.unsent ++ [i] }
  (i, { s with mg := mg, freeCtr := s.freeCtr + 1 }.setCause 3)

/-- Write an error record whose index nothing needs. -/
def State.note (s : State) (r : ErrRec) : State := (s.record r).2

/-- An error record's fields of the command involved (Table 15-2). -/
def ErrRec.forCmd (r : ErrRec) (c : Cmd) (status : Byte) : ErrRec :=
  { r with opcode := c.hdr.opcode, seq := c.hdr.seq, stall := c.hdr.stall, status := status
           origin := match c.origin with | .queue q => BitVec.ofNat 8 q | .round k _ => BitVec.ofNat 8 (0x40 + k) | .attach _ => 0xFF }

/-! ## Outcomes of commands (R321) -/

/-- End a command of the table with a status (the first event that stops it decides). -/
def State.endCmd (s : State) (c : CmdNo) (status : Byte) (detail : U16 := 0) : State :=
  s.onCmd c (fun x => if x.phase = .ended then x else { x with phase := .ended, status := status, detail := detail })

/-- End a command with a status, a DETAIL and a record's index. -/
def State.failCmd (s : State) (c : CmdNo) (status : Byte) (detail : U16) (idx : U32) : State :=
  s.onCmd c (fun x => if x.phase = .ended then x else { x with phase := .ended, status := status, detail := detail, errIdx := idx })

/-- The status of a command that ends normally: the first that applies of STEP_SKIPPED, HISTORY_LOST, INEXACT,
PROMOTED and DONE (R321). -/
def Cmd.normalStatus (x : Cmd) : Byte :=
  if x.skipped then 0x30 else if x.histLost then 0x33 else if x.inexact then 0x31 else if x.promoted then 0x32 else 0x00

/-- The first address of a span that no window granting the rights covers, where its lines are accesses of their own (R209). A line
lies whole in a window or outside it, windows being of whole pages. -/
def firstOutside (ws : TMap Window) (rd wr : Bool) (hi : Nat) : (fuel a : Nat) → Option Nat
  | 0, _ => none
  | n + 1, a => if hi ≤ a then none else let b := firstFailing ws rd wr a; if b = a then some a else firstOutside ws rd wr hi n b

/-- What a check of a region finds: an address that no window covers for it (R209), or a line that is poisoned where the command
reads it or writes it in part (R219). -/
inductive BadAccess where
  | window (r : Region) (a : Nat) | poison (r : Region)
deriving DecidableEq, Repr

def State.badAccess (s : State) (ws : TMap Window) (r : Region) : Option BadAccess :=
  let out := if r.each then firstOutside ws r.rd r.wr (r.lo + r.len) (ws.length + 1) r.lo
    else if allowed ws r.rd r.wr r.lo r.len then none else some r.lo
  match out with
  | some a => some (.window r a)
  | none => if (r.rd && !r.unread && s.poisoned r.lo r.len) || (r.wr && s.partPoisoned r.lo r.len) then some (.poison r) else none

/-- A command's work ends normally. -/
def State.doneCmd (s : State) (c : CmdNo) : State :=
  s.onCmd c (fun x => if x.phase = .ended then x else { x with phase := .ended, status := x.normalStatus })

/-- The command that an opcode row runs: dispatched, with one of the row's opcodes and not yet started. -/
def State.running (s : State) (c : CmdNo) (opcode : Nat) : Option Cmd :=
  match s.cmd c with
  | some x => if x.phase = .running && x.hdr.opcode.toNat = opcode && !s.brd.trip then some x else none
  | none => none

/-- Bytes of a span recorded as written by the command, for back-invalidation (R289). -/
def State.wrote (s : State) (c : CmdNo) (a n : Nat) : State :=
  s.onCmd c (fun x => { x with wrote := x.wrote ++ [⟨a, n, true⟩] })

/-- A command's write: the bytes stored, and noted. -/
def State.put (s : State) (c : CmdNo) (a : Nat) (bs : List Byte) : State := (s.store a bs).wrote c a bs.length

/-- R209: a window fault of a command: the record with the first failing address and nearest slot, and the status. -/
def State.windowFaultIn (s : State) (ws : TMap Window) (x : Cmd) (rd wr : Bool) (a : Nat) : State :=
  let ff := firstFailing ws rd wr a
  let near := nearestSlot ws rd wr ff
  let det : Nat := match near with | none => 0x1000 | some k => k <<< 8
  let syn : Nat := match near with | none => 16 | some k => k
  let (i, t) := s.record (ErrRec.forCmd { cls := 7, code := 1, unit := clerkCode, addr := BitVec.ofNat 48 ff, syndrome := BitVec.ofNat 128 syn } x 0x20)
  t.failCmd x.no 0x20 (BitVec.ofNat 16 det) i
/-- A window fault against the windows that check the command. -/
def State.windowFault (s : State) (x : Cmd) (rd wr : Bool) (a : Nat) : State := s.windowFaultIn (s.windowsOf x.hdr.stall.toNat) x rd wr a

/-- The first address of a span that a list of written spans leaves out. -/
def firstGap (ws : List Span) (hi : Nat) : (fuel a : Nat) → Option Nat
  | 0, _ => none
  | n + 1, a =>
    if hi ≤ a then none
    else match ws.find? (fun p => p.lo ≤ a && a < p.lo + p.len) with
      | some p => firstGap ws hi n (p.lo + p.len)
      | none => some a

/-- The address of the first line of its outputs, in the order of its regions, that a command has not written whole; none where it has
written them all (R213). -/
def Cmd.firstUnwritten (x : Cmd) : Option Nat :=
  ((x.rgs ++ x.sides).filter (·.wr)).findSome? (fun r => (firstGap x.wrote (r.lo + r.len) (x.wrote.length + 1) r.lo).map (fun a => a / 64 * 64))

/-- R219: an access of a poisoned line by a command: ECC_UNCORRECTED with the stack's unit code. The record names the first line of its
outputs that it did not write (R213), and the poisoned line where it has none; the check syndrome is the line's, which is free.
DEDUCED (log 66). -/
def State.poisonFaultAt (s : State) (x : Cmd) (l : Nat) : State :=
  let k := match stackOf (l * 64) with | some k => k | none => 0
  let syn := pack [(124, 4, 0xE), (116, 8, k), (0, 64, Config.free s.freeCtr 41 l)]
  let y := { x with wrote := match s.cmd x.no with | some z => z.wrote | none => x.wrote }
  let (i, t) := s.record (ErrRec.forCmd { cls := 2, code := 2, unit := stackCode k, pattern := 0xE000, addr := BitVec.ofNat 48 (y.firstUnwritten.getD (l * 64)), syndrome := BitVec.ofNat 128 syn } x 0x21)
  t.failCmd x.no 0x21 (stackCode k) i
/-- At the lowest poisoned line of a span that it reads, or that it writes in part. -/
def State.poisonFault (s : State) (x : Cmd) (a n : Nat) : State := s.poisonFaultAt x ((lowest (s.poisonIn a n)).getD (a / 64))
def State.poisonPart (s : State) (x : Cmd) (a n : Nat) : State := s.poisonFaultAt x ((lowest (s.partIn a n)).getD (a / 64))

/-- A command fails on an access (R209, R219). -/
def State.failAccess (s : State) (ws : TMap Window) (x : Cmd) : BadAccess → State
  | .window r a => s.windowFaultIn ws x r.rd r.wr a
  | .poison r => if r.rd && !r.unread && s.poisoned r.lo r.len then s.poisonFault x r.lo r.len else s.poisonPart x r.lo r.len

/-- The first access that stops a command whose work begins: of its regions as its last judgement found them. The indexed side of a
GATHER or SCATTER is checked element by element. -/
def State.firstBad (s : State) (x : Cmd) : Option BadAccess :=
  if x.hdr.opcode = 0x0202 || x.hdr.opcode = 0x0203 then none else (x.rgs ++ x.sides).findSome? (s.badAccess x.wins)

/-- The running command of an opcode, none of whose accesses stops it. -/
def State.begins (s : State) (c : CmdNo) (opcode : Nat) : Option Cmd :=
  match s.running c opcode with
  | some x => if (s.firstBad x).isSome then none else some x
  | none => none

/-- A running command that one of its accesses stops ends with WINDOW_FAULT or ECC_UNCORRECTED before it writes (R209, R219). -/
def State.stopped (s : State) (c : CmdNo) (opcode : Nat) : State :=
  match s.running c opcode with
  | some x => match s.firstBad x with | some b => s.failAccess x.wins x b | none => s
  | none => s

/-- An access of the command that a window or a poisoned line stops. -/
def State.badElem (s : State) (x : Cmd) (rd wr : Bool) (a n : Nat) : Option BadAccess := s.badAccess x.wins { lo := a, len := n, rd := rd, wr := wr }

/-- An access of a running command to local memory, checked as it is made: the first failing one stops the command (R209,
R219). -/
def State.checked (s : State) (x : Cmd) (rd wr : Bool) (a n : Nat) (k : State → State) : State :=
  match s.cmd x.no with
  | some y => if y.phase = .ended then s else if n = 0 then k s else match s.badElem x rd wr a n with | some b => s.failAccess x.wins x b | none => k s
  | none => s

/-- A memory record of a poisoned line that no command reads (R219). -/
def State.notePoison (s : State) (a : Nat) : State :=
  let k := match stackOf a with | some k => k | none => 0
  s.note { cls := 2, code := 2, unit := stackCode k, pattern := 0xE000, addr := BitVec.ofNat 48 a, syndrome := BitVec.ofNat 128 (pack [(124, 4, 0xE), (116, 8, k)]) }

/-- A write by no command: what it writes of a poisoned line is lost where it covers the line in part, with a memory record for each
such line (R219). -/
def State.partialStore (s : State) (a : Nat) (bs : List Byte) : State :=
  let lost := s.partIn a bs.length
  if lost = [] then s.store a bs
  else
    let kept := bs.mapIdx (fun i b => if lost.contains ((a + i) / 64) then s.byte (a + i) else b)
    lost.foldl (fun t l => t.notePoison (max a (l * 64))) (s.store a kept)

/-- A write of a record by the Clerk or a Miller on behalf of a command: lost on a poisoned line (R219), and noted for
back-invalidation (R214). -/
def State.putRecord (s : State) (c : CmdNo) (a : Nat) (bs : List Byte) : State := (s.partialStore a bs).wrote c a bs.length

end Sys2Proof.Machine
end

