-- ==== Sys2Proof/Machine/Operands.lean ====
section
/-! DEFINITION. The operand forms of a command packet: header, parameter area, the table of opcodes with their named
fields, tensor descriptors, group descriptors, layer table entries, and the 32-byte reply. -/

namespace Sys2Proof.Machine

/-! ## Headers and parameters (R316, Table 12-1) -/

/-- The header of a packet (Table 12-1). -/
def Header.ofBytes (bs : List Byte) : Header :=
  let v := fieldAt bs 0 16
  { opcode := BitVec.ofNat 16 (bits v 15 0), vminor := BitVec.ofNat 8 (bits v 23 16), vmajor := BitVec.ofNat 8 (bits v 31 24)
    seq := BitVec.ofNat 32 (bits v 63 32), stall := BitVec.ofNat 8 (bits v 71 64), flags := BitVec.ofNat 8 (bits v 79 72)
    deadline := BitVec.ofNat 32 (bits v 111 80), plen := BitVec.ofNat 8 (bits v 119 112), mb := BitVec.ofNat 8 (bits v 127 120) }

def Header.ext (h : Header) : Bool := h.flags.getLsbD 7
def Header.grad (h : Header) : Bool := h.flags.getLsbD 6
def Header.mbstart (h : Header) : Bool := h.flags.getLsbD 5
def Header.mbend (h : Header) : Bool := h.flags.getLsbD 4
def Header.fence (h : Header) : Bool := h.flags.getLsbD 3
def Header.quiet (h : Header) : Bool := h.flags.getLsbD 2
def Header.enwait (h : Header) : Bool := h.flags.getLsbD 1

/-- The parameter area of a packet: bytes 16 onward, zero at and beyond PLEN (R316). -/
def paramsOf (bs : List Byte) (plen : Nat) : List Byte := slice (slice bs 16 plen) 0 48

/-- Parameter of `n` bytes at `off`. -/
def Cmd.p (x : Cmd) (off n : Nat) : Nat := fieldAt x.params off n
/-- A local address parameter: bits [47:0] (R318). -/
def Cmd.addr (x : Cmd) (off : Nat) : Nat := x.p off 8 % 2 ^ 48
/-- The opcode as a number. -/
def Cmd.op (x : Cmd) : Nat := x.hdr.opcode.toNat
/-- The stall a command names. -/
def Cmd.stallNo (x : Cmd) : Nat := x.hdr.stall.toNat

/-! ## Opcodes (R352, Tables 12-14 to 12-24) -/

/-- Which contexts an opcode takes (R319). -/
inductive Context where
  | service | stall | either
deriving DecidableEq, Repr

/-- A row of the opcode tables: Q, EXT always, the context, and the named fields as (offset, bytes, meaningful bits). -/
structure OpInfo where
  query : Bool := false
  extAlways : Bool := false
  ctx : Context := .stall
  fields : List (Nat × Nat × Nat) := []

/-- A local address field (R318) and a whole field. -/
def fAddr (off : Nat) : Nat × Nat × Nat := (off, 8, 2 ^ 48 - 1)
def fAll (off n : Nat) : Nat × Nat × Nat := (off, n, 2 ^ (8 * n) - 1)
def fMask (off n m : Nat) : Nat × Nat × Nat := (off, n, m)

/-- The opcode tables. -/
def opInfo (op : Nat) : Option OpInfo :=
  if op = 0x0001 then some { query := true, ctx := .service, fields := [fAddr 0] }
  else if op = 0x0101 then some { extAlways := true, fields := [fAddr 0, fAll 8 8, fAll 16 8, fAddr 24, fAll 32 4, fAll 36 2, fAll 38 2, fAll 40 2, fAll 42 1] }
  else if op = 0x0102 then some { fields := [fAll 0 8] }
  else if op = 0x0103 then some { fields := [fAll 0 1, fAddr 8] }
  else if op = 0x0104 then some { ctx := .either, fields := [fAll 0 1, fMask 16 16 0xFFFFFFFFF0FFFFFFFFF00000000FF3B] }
  else if op = 0x0201 then some { ctx := .either, fields := [fAll 0 8, fAll 8 8, fAll 16 8, fAll 24 1] }
  else if op = 0x0202 then some { ctx := .either, fields := [fAll 0 8, fAddr 8, fAddr 16, fAll 24 4, fAll 28 4] }
  else if op = 0x0203 then some { ctx := .either, fields := [fAddr 0, fAll 8 8, fAddr 16, fAll 24 4, fAll 28 4] }
  else if op = 0x0301 then some { fields := [fAddr 0, fAddr 8, fAddr 16, fAll 24 2, fMask 26 2 0x1F, fMask 28 4 0xFFFFFF1F, fMask 32 4 0xFFFFFF1F, fMask 36 2 0x1F, fMask 38 2 0x1F] }
  else if op = 0x0302 then some { fields := [fAddr 0, fAddr 8, fAddr 16, fMask 24 2 0x1F, fMask 26 2 0x1F, fAll 28 2, fMask 30 2 3] }
  else if op = 0x0303 then some { fields := [fAddr 0, fAddr 8, fAddr 16, fAddr 24, fAddr 32, fAll 40 4, fAll 44 2, fMask 46 2 3] }
  else if op = 0x0304 then some { extAlways := true, fields := [fAddr 0, fAddr 8, fAddr 16, fAddr 24, fAddr 32, fAddr 40, fAddr 48, fAddr 56, fAddr 64, fAll 72 4, fAll 76 2, fMask 78 2 1] }
  else if op = 0x0305 then some { fields := [fAddr 0, fAddr 8, fAddr 16, fAddr 24, fAll 32 2, fMask 34 2 1, fAll 36 4, fAll 40 4] }
  else if op = 0x0306 then some { extAlways := true, fields := [fAddr 0, fAddr 8, fAddr 16, fAddr 24, fAddr 32, fAddr 40, fAddr 48, fAll 56 2] }
  else if op = 0x0401 then some { fields := [fAddr 0, fAddr 8, fAddr 16] }
  else if op = 0x0402 then some { fields := [fAddr 0, fAddr 8, fMask 16 2 1] }
  else if op = 0x0403 then some { fields := [fAll 0 1, fAll 1 1, fAll 2 2, fAll 4 1, fAll 6 2, fAll 8 2, fAll 10 2, fAll 12 2, fMask 14 1 3, fAddr 16] }
  else if op = 0x0404 then some { fields := [fMask 0 1 15, fAll 1 1, fAll 2 1, fAll 3 1, fAll 4 2] }
  else if op = 0x0405 then some { ctx := .either, fields := [fAll 0 8, fAddr 8, fMask 16 2 3] }
  else if op = 0x0501 then some { fields := [fAddr 0, fAll 8 4, fAll 12 4, fMask 16 2 15] }
  else if op = 0x0502 then some { fields := [fAddr 0] }
  else if op = 0x0503 then some { fields := [fAddr 0, fAddr 8, fAddr 16, fMask 24 1 3] }
  else if op = 0x0504 then some { fields := [fAddr 0] }
  else if op = 0x0601 then some { fields := [fAddr 0, fAddr 8, fAddr 16, fAddr 24, fAll 32 4, fAll 36 1, fAll 37 1] }
  else if op = 0x0602 then some { fields := [fAddr 0, fAddr 8, fAddr 16, fAll 24 4, fAll 28 1] }
  else if op = 0x0603 then some { fields := [fAddr 0, fAddr 8, fAll 16 4] }
  else if op = 0x0604 then some { fields := [fAddr 0] }
  else if op = 0x0605 then some { fields := [fAddr 0, fAddr 8, fAddr 16, fAll 24 8] }
  else if op = 0x0606 then some { query := true, ctx := .service, fields := [fAll 0 1, fAll 1 1, fAll 2 1, fAll 4 2, fAddr 8] }
  else if op = 0x0701 then some { ctx := .service, fields := [fAll 0 2, fAll 2 2, fAll 4 2, fAll 6 1, fAll 7 1, fAll 8 8, fAll 16 1] }
  else if op = 0x0702 then some { ctx := .service, fields := [fMask 0 1 0x3F] }
  else if op = 0x0703 then some { ctx := .service, fields := [fAll 0 1, fAll 8 8] }
  else if op = 0x0704 then some { query := true, ctx := .service, fields := [fAddr 0, fMask 8 1 1] }
  else if op = 0x0801 then some { ctx := .service, fields := [fAll 0 2, fAll 2 1, fMask 3 1 1] }
  else if op = 0x0802 then some { query := true, ctx := .service, fields := [fAddr 0] }
  else if op = 0x0901 then some { ctx := .service, fields := [fAll 0 2, fMask 2 1 15, fAll 4 4, fAddr 8] }
  else if op = 0x0902 then some { query := true, ctx := .service, fields := [fAddr 0, fAll 8 4, fAll 12 4, fAll 16 1, fAddr 24] }
  else if op = 0x0903 then some { ctx := .service, fields := [fAll 0 2, fAll 2 1] }
  else if op = 0x0A01 then some { query := true, ctx := .service, fields := [fAll 0 1, fAddr 8, fAddr 16] }
  else if op = 0x0A02 then some { query := true, ctx := .service, fields := [fAll 0 1, fAddr 8, fAll 16 4] }
  else if op = 0x0A03 then some { ctx := .service, fields := [fAddr 0, fAll 8 4, fAll 12 1] }
  else if op = 0x0A04 then some { ctx := .service, fields := [fAll 0 1, fMask 1 1 1] }
  else if op = 0x0B01 then some { ctx := .service, fields := [fAll 0 1, fAddr 8, fAll 16 2, fMask 18 1 1] }
  else if op = 0x0B02 then some { ctx := .service, fields := [fAll 0 1, fAll 4 4, fAll 8 2] }
  else if op = 0x0B03 then some { fields := [fAll 0 8, fAll 8 8, fMask 16 2 0x1F, fAll 18 1] }
  else if op = 0x0B04 then some { fields := [fAll 0 8, fMask 8 2 0x1F, fAll 10 1] }
  else if op = 0x0B05 then some { ctx := .service, fields := [fAll 0 8, fAll 8 1] }
  else none

/-- The meaningful bits of byte `i` of a parameter area, from the opcode's fields. -/
def byteMask (fields : List (Nat × Nat × Nat)) (i : Nat) : Nat :=
  fields.foldl (fun m (off, n, k) => if off ≤ i && i < off + n then m ||| (k >>> (8 * (i - off))) % 256 else m) 0

/-- R11, R317: every reserved bit and every unnamed byte of the area of `n` bytes is zero. -/
def reservedZero (fields : List (Nat × Nat × Nat)) (ps : List Byte) (n : Nat) : Bool :=
  (List.range n).all (fun i => (fieldAt ps i 1) &&& (255 - byteMask fields i) = 0)

/-- The window entries of STALL_LOAD's block: places 0 to NWIN − 1 are named (R317). -/
def stallLoadFields (nwin : Nat) : List (Nat × Nat × Nat) :=
  (List.range nwin).map (fun k => fMask (64 + 16 * k) 16 0xFFFFFFFFF0FFFFFFFFF00000000FF3B)

/-! ## Replies (R320, Table 12-3) -/

/-- The bytes of a reply. -/
def replyBytes (errIdx : U32) (energy : Nat) (tend tstart : U64) (seq : U32) (detail : U16) (nf roundStep receipt : Bool)
    (status : Byte) : List Byte :=
  bytesLE 32 (pack [(224, 32, errIdx.toNat), (192, 32, min energy 0xFFFFFFFF), (128, 64, tend.toNat), (64, 64, tstart.toNat),
    (32, 32, seq.toNat), (16, 16, detail.toNat), (11, 1, b1 nf), (10, 1, b1 roundStep), (9, 1, b1 receipt), (0, 8, status.toNat)])

/-! ## Descriptors (R344, Table 12-8) -/

/-- A tensor descriptor. -/
structure Desc where
  daddr : Nat := 0
  saddr : Nat := 0
  baddr : Nat := 0
  oaddr : Nat := 0
  seed : Nat := 0
  lines : Nat := 0
  len : Nat := 0
  calLayer : Nat := 0
  calSlot : Nat := 0
  calV : Bool := false
  ftag : Nat := 0
  wide : Bool := false
  rot : Bool := false
  weightSide : Bool := false
  carry : Bool := false
  cross : Bool := false
  saved : Bool := false
deriving DecidableEq, Repr

/-- The descriptor in the 64 bytes of Table 12-8. -/
def Desc.ofNat (v : Nat) : Desc :=
  { daddr := bits v 511 464, saddr := bits v 463 416, baddr := bits v 415 368, oaddr := bits v 367 320, seed := bits v 319 256
    lines := bits v 255 232, len := bits v 231 208 + 1, calLayer := bits v 207 192, calSlot := bits v 191 189, calV := bit v 188
    ftag := bits v 187 184, wide := bit v 183, rot := bit v 182, weightSide := bit v 181, carry := bit v 180, cross := bit v 179
    saved := bit v 178 }

/-- The descriptor stored at an address. -/
def State.desc (s : State) (a : Nat) : Desc := Desc.ofNat (s.readNat a 64)

/-- The name of a saved tensor in DADDR (Table 12-8, R345): layer, micro-batch, save index. -/
def Desc.saveName (d : Desc) : Nat × Nat × Nat := (bits d.daddr 31 16, bits d.daddr 15 8, bits d.daddr 7 0)

/-! ## Groups and chunks (R354, R268) -/

/-- A group descriptor: tag, and the members in rank order. -/
structure GroupDesc where
  tag : U32
  members : List Fid
deriving DecidableEq, Repr

def State.groupDesc (s : State) (a : Nat) : GroupDesc :=
  { tag := BitVec.ofNat 32 (s.readNat a 4)
    members := (List.range (min (s.readNat (a + 4) 4) 65536)).map (fun k => BitVec.ofNat 16 (s.readNat (a + 8 + 2 * k) 2)) }

/-- The place of the first element equal to a value. -/
def indexOf [DecidableEq α] (x : α) : List α → Option Nat
  | [] => none
  | y :: ys => if x = y then some 0 else (indexOf x ys).map (· + 1)

/-- A chunk table entry (R354). -/
structure Chunk where
  dest : Nat
  owner : Nat
  off : Nat
  len : Nat
deriving DecidableEq, Repr

def State.chunkAt (s : State) (a : Nat) : Chunk :=
  let v := s.readNat a 16
  { dest := bits v 127 80, owner := bits v 79 64, off := bits v 63 32, len := bits v 31 0 }

def State.chunks (s : State) (a n : Nat) : List Chunk := (List.range n).map (fun k => s.chunkAt (a + 16 * k))

/-! ## Layer table entries (R343, Table 12-7) -/

def LayerEnt.ofNat (v : Nat) : LayerEnt :=
  { vaddr := BitVec.ofNat 48 (bits v 255 208), lraddr := BitVec.ofNat 48 (bits v 207 160), lines := BitVec.ofNat 24 (bits v 159 136)
    length := BitVec.ofNat 24 (bits v 135 112), ofwd := BitVec.ofNat 24 (bits v 111 88), obwd := BitVec.ofNat 24 (bits v 87 64)
    ofb := BitVec.ofNat 24 (bits v 63 40), ffmt := BitVec.ofNat 4 (bits v 39 36), rot := bit v 35, ledger := bit v 34 }

def LayerEnt.toNat (e : LayerEnt) : Nat :=
  pack [(208, 48, e.vaddr.toNat), (160, 48, e.lraddr.toNat), (136, 24, e.lines.toNat), (112, 24, e.length.toNat),
    (88, 24, e.ofwd.toNat), (64, 24, e.obwd.toNat), (40, 24, e.ofb.toNat), (36, 4, e.ffmt.toNat), (35, 1, b1 e.rot), (34, 1, b1 e.ledger)]

/-- Layer `l` of a stall's table. -/
def Stall.layer (st : Stall) (l : Nat) : Option LayerEnt := st.layers[l]?

/-! ## Claims (R346, Table 12-9) -/

/-- The holder of a resource (claim-word resource code, bay or 0xFF). -/
def State.holder (s : State) (res bay : Nat) : Option Claim :=
  s.ck.claims.find? (fun c => c.res.toNat = res && c.bay.toNat = bay)

/-- Take a claim. -/
def State.claim (s : State) (res bay holder by_ : Nat) : State :=
  { s with ck := { s.ck with claims := s.ck.claims ++ [⟨BitVec.ofNat 8 res, BitVec.ofNat 8 bay, BitVec.ofNat 8 holder, BitVec.ofNat 8 by_⟩] } }

/-- Release the claims of a holder code on a resource. -/
def State.unclaim (s : State) (res bay holder : Nat) : State :=
  { s with ck := { s.ck with claims := s.ck.claims.filter (fun c => !(c.res.toNat = res && c.bay.toNat = bay && c.holder.toNat = holder)) } }

/-- Owner codes: holder code and KIND (Table 12-9, Table 10-4). -/
def Owner.kind : Owner → Nat
  | .nobody => 0 | .host => 1 | .peer _ => 2
def Owner.fid : Owner → Fid
  | .peer f => f | _ => 0
/-- DETAIL of a refusal that names the owner (R334, R336): HOST_OWNER or PEER_OWNER, instance 0xFF when there is none. -/
def Owner.conflict : Owner → U16
  | .host => 0x07FF | .peer _ => 0x08FF | .nobody => 0x08FF

/-! ## Which units a command runs on -/

/-- Opcodes that run on the bays of a stall (R339), or on their copy paths (R226), or on a Miller (R170). -/
def isCompute (op : Nat) : Bool := (0x0301 ≤ op && op ≤ 0x0306) || op = 0x0401 || op = 0x0402
def isCopy (op : Nat) : Bool := 0x0201 ≤ op && op ≤ 0x0203
def isMiller (op : Nat) : Bool := 0x0501 ≤ op && op ≤ 0x0504

/-- The ACTIVE bays of a bay set. -/
def State.activeMask (s : State) (m : U64) : U64 :=
  BitVec.ofNat 64 (((List.range 64).filter (fun b => m.toNat.testBit b && s.bayActive b)).foldl (fun n b => n + 2 ^ b) 0)

/-- The bay set that a command's stall has; the service context's copies use every bay (R226). -/
def State.baySet (s : State) (x : Cmd) : U64 :=
  match s.stall x.stallNo with
  | some st => st.bays
  | none => if x.stallNo = 0xFF && isCopy x.op then BitVec.ofNat 64 (2 ^ 64 - 1) else 0

/-- A command of bays has no ACTIVE bay left in its stall's bay set (R226, R424). -/
def State.noBay (s : State) (x : Cmd) : Bool := (isCompute x.op || isCopy x.op) && s.activeMask (s.baySet x) = 0

/-- The lowest-numbered bay of a command's bay set. -/
def State.lowestBay (s : State) (x : Cmd) : Nat := ((maskBits (s.baySet x).toNat 64).head?).getD 0

/-- The Miller that owns the layer a Miller command names (R171): by the group of LRADDR. -/
def millerOf (x : Cmd) : Option Nat := if isMiller x.op && tierOf (x.addr 0) = some 2 then some (groupOf (x.addr 0)) else none

/-- The command of a Miller that begins its work. It waits while its Miller is SUSPECT, and a fence ends it (R170, R423). -/
def State.onMiller (s : State) (c : CmdNo) (opcode : Nat) : Option Cmd :=
  match s.begins c opcode with
  | some x => if (millerOf x).all (fun g => (s.unit (0x2000 + g)).clerk == .active) then some x else none
  | none => none

end Sys2Proof.Machine
end

