-- ==== Sys2Proof/Machine/ClerkOps.lean ====
section
/-! DEFINITION. Operations of the Clerk that several commands share: replies, weight-version records, pins and the end
of a micro-batch, QUIESCE, ownership, attaching and detaching of queues. -/

namespace Sys2Proof.Machine

/-! ## Replies (R320 to R323) -/

/-- Bytes of a command ring and replies of a reply ring of a queue (R324). -/
def Queue.ring (q : Queue) : Nat := 2 ^ q.csize.toNat
def Queue.replies (q : Queue) : Nat := 2 * q.ring
/-- Free reply slots: indices count modulo 2^17 (R324). -/
def Queue.freeReplies (q : Queue) : Nat := q.replies - (q.rpi - q.rci).toNat
/-- Packets between QCI and QPI, modulo 2^16 (R327). -/
def Queue.unread (q : Queue) : Nat := (q.qpi - q.qci).toNat

/-- The queue that issued the ROUND_START of a running round, unless a reset has detached it since (R304); an inner round's is that of the round which issued it (R350). -/
def State.roundQueueFrom (s : State) : (fuel r : Nat) → Option Nat
  | 0, _ => none
  | n + 1, r =>
    match ((s.round r).bind Round.run).bind (fun run => (s.cmd run.cmd).bind (fun y => if y.lost then none else some y.origin)) with
    | some (.queue q) => some q
    | some (.round j _) => s.roundQueueFrom n j
    | _ => none
def State.roundQueue (s : State) (r : Nat) : Option Nat := s.roundQueueFrom 8 r

/-! ## Weight-version records (R193, Table 06-4) -/

/-- The 20 bytes of RO fields of a weight-version record. -/
def Vers.bytes (v : Vers) : List Byte :=
  bytesLE 20 (pack [(144, 16, v.ver1.toNat), (128, 16, v.ver0.toNat), (112, 16, v.pins1.toNat), (96, 16, v.pins0.toNat),
    (80, 16, v.curver.toNat), (71, 1, b1 v.cur), (70, 1, b1 v.pending), (69, 1, b1 v.valid1), (68, 1, b1 v.valid0),
    (32, 32, v.pubwait.toNat), (0, 32, v.pubs.toNat)])

/-- Change the Clerk's copy of a version record's RO fields, and write them into the record (R193, R219). -/
def State.putVers (s : State) (a : Nat) (v : Vers) : State := (s.setVers a v).partialStore a v.bytes

/-- The base of a side of a version record: fields that software holds (Table 06-4). -/
def State.sideBase (s : State) (a : Nat) (side : Bool) : Nat :=
  let v := s.readNat a 32
  if side then bits v 255 208 else bits v 207 160

/-- Pins of a side. -/
def Vers.pins (v : Vers) (side : Bool) : U16 := if side then v.pins1 else v.pins0
def Vers.setPins (v : Vers) (side : Bool) (n : U16) : Vers := if side then { v with pins1 := n } else { v with pins0 := n }

/-- Release a list of pins: PINS of each side falls by 1 (R195). -/
def State.unpinAll (s : State) (pins : List (Nat × Bool)) : State :=
  pins.foldl (fun t (a, side) => let v := t.vers a; t.putVers a (v.setPins side (v.pins side - 1))) s

/-- The live micro-batch of a stall with a number. -/
def Stall.batch (st : Stall) (mb : Byte) : Option MicroBatch := st.live.find? (fun m => m.mb == mb)

/-- Replace a live micro-batch. -/
def Stall.setBatch (st : Stall) (m : MicroBatch) : Stall :=
  { st with live := st.live.map (fun y => if y.mb == m.mb then m else y) }

/-- End a live micro-batch: its pins are released and its kept and spilled tensors freed (R131, R195, R357). -/
def State.endBatch (s : State) (k : Nat) (mb : Byte) : State :=
  match s.stall k with
  | none => s
  | some st =>
    match st.batch mb with
    | none => s
    | some m => (s.unpinAll m.pins).setStall k (some { st with live := st.live.filter (fun y => !(y.mb == mb)) })

/-- End every live micro-batch of a stall. -/
def State.endBatches (s : State) (k : Nat) : State :=
  match s.stall k with
  | none => s
  | some st => st.live.foldl (fun t m => t.endBatch k m.mb) s

/-! ## QUIESCE (R357) -/

/-- The command has been issued and not dispatched. -/
def Cmd.undispatched (x : Cmd) : Bool := x.phase = .issued || x.phase = .energyWait
/-- The command runs. -/
def Cmd.runs (x : Cmd) : Bool := x.phase = .running || x.phase = .working

/-- Refuse the undispatched commands of a stall issued before `self` with REFUSED_STATE and DETAIL 0xFFFD (R357). -/
def State.quiesceIssued (s : State) (k : Nat) (self : CmdNo) : State :=
  { s with ck := { s.ck with cmds := s.ck.cmds.map (fun x =>
      if x.stallNo = k && x.undispatched && x.no < self then { x with phase := .ended, status := 0x13, detail := 0xFFFD } else x) } }

/-- Some command of the stall issued before `self` has run and has not completed. -/
def State.stallBusy (s : State) (k : Nat) (self : CmdNo) : Bool :=
  s.ck.cmds.any (fun x => x.stallNo = k && (x.runs || (x.disp && x.phase = .ended)) && x.no < self)

/-- QUIESCE of one stall: undispatched commands refused; once nothing of it runs, its micro-batches end (R357). -/
def State.quiesceStall (s : State) (k : Nat) (self : CmdNo) : State :=
  let t := s.quiesceIssued k self
  if t.stallBusy k self then t else t.endBatches k

/-- A CXL Reset quiesces a stall (R304): its micro-batches of that moment end once nothing issued before runs. -/
def State.startQuiesce (s : State) (k : Nat) : State :=
  let t := s.quiesceIssued k s.ck.nextCmd
  let live := match t.stall k with | some st => st.live.map (fun m => m.mb) | none => []
  { t with ck := { t.ck with quiescing := t.ck.quiescing ++ [(k, s.ck.nextCmd, live)] } }

/-- The quiesced stalls of which nothing runs any more: their micro-batches end. -/
def State.settleQuiesce (s : State) : State :=
  s.ck.quiescing.foldl (fun t e =>
    if t.stallBusy e.1 e.2.1 then t
    else e.2.2.foldl (fun t mb => t.endBatch e.1 mb) { t with ck := { t.ck with quiescing := t.ck.quiescing.erase e } }) s

/-- Ask a round to stop with a status; it completes after its issued steps have completed (R349). -/
def State.stopRound (s : State) (r : Nat) (status : Byte) (detail : U16) (idx : U32) : State :=
  match s.round r with
  | some rd =>
    match rd.run with
    | some run => s.setRound r (some { rd with run := some { run with stop := some (run.stop.getD (status, detail, idx)), next := none, again := [] } })
    | none => s
  | none => s

/-- The running rounds that steps of a running round have started (R464). -/
def State.innerRounds (s : State) (r : Nat) : List Nat :=
  (List.range 8).filter (fun k => match ((s.round k).bind Round.run).bind (fun run => (s.cmd run.cmd).map Cmd.origin) with
    | some (.round j _) => j = r
    | _ => false)

/-- Ask a round and its running inner rounds to stop, innermost first (R464); at most 8 rounds nest. -/
def State.stopNested (s : State) (status : Byte) : (fuel r : Nat) → State
  | 0, _ => s
  | n + 1, r => ((s.innerRounds r).foldl (fun t k => t.stopNested status n k) s).stopRound r status 0 0xFFFFFFFF

/-! ## Ownership (R297, R298, R334, R336) -/

/-- Change every queue. -/
def State.mapQueues (s : State) (f : Nat → Queue → Queue) : State :=
  (List.range 64).foldl (fun t q => t.setQueue q (f q (t.queue q))) s

/-- The module gets a new owner. A grant of the last owner ends (Table 12-21). Vector 68 is signalled on a claim. -/
def State.own (s : State) (o : Owner) : State :=
  { s with ck := { s.ck with owner := o } }.mapQueues (fun _ q => { q with granted := false })

/-- A fabric peer claims: taken when there is no owner (R336). -/
def State.peerClaim (s : State) (f : Fid) : State :=
  match s.ck.owner with
  | .nobody => (s.own (.peer f)).setCause 4
  | _ => s

/-- The owning peer releases (R336). -/
def State.peerRelease (s : State) (f : Fid) : State :=
  if s.ck.owner = .peer f then (s.own .nobody).setCause 4 else s

/-- The owning peer hands ownership to another peer (R336). -/
def State.handOff (s : State) (f g : Fid) : State :=
  if s.ck.owner = .peer f then (s.own (.peer g)).setCause 4 else s

/-- The host's ownership ends; it passes to no one and CAUSE bit 4 is set (R298). -/
def State.hostOwnershipEnds (s : State) : State :=
  if s.ck.owner = .host then (s.own .nobody).setCause 4 else s

/-- A queue's commands take full rights when read now (R334), FULLRIGHT. -/
def State.fullRight (s : State) (q : Queue) : Bool :=
  (s.ck.owner = .host && (q.loc = 1 || q.loc = 2)) || (q.loc = 3 && s.ck.owner = .peer q.attfid) || q.granted

/-! ## Attach, detach and wakes (R325, R326, R304) -/

/-- A write of ENABLE 1 attaches (R325). -/
def Queue.attachOk (q : Queue) : Bool :=
  4 ≤ q.csize.toNat && q.qbase.toNat % 64 = 0 && q.rbase.toNat % 32 = 0 &&
    (q.loc = 1 || (q.loc = 2 && inTier 1 q.qbase.toNat (64 * q.ring) && inTier 1 q.rbase.toNat (32 * q.replies)))

/-- Fields of the word at 0x10 that the host writes: COHWAKE, LOC, CSIZE (Table 12-5). -/
def Queue.setCtl (q : Queue) (v : U32) : Queue :=
  { q with cohwake := v.getLsbD 30, loc := BitVec.ofNat 2 (bits v.toNat 29 28), csize := BitVec.ofNat 4 (bits v.toNat 27 24) }

/-- Indices and flags of a fresh attach: indices reset to 0 (R325). -/
def Queue.attached (q : Queue) : Queue :=
  { q with enable := true, drain := false, ringerr := false, noroom := false, qpi := 0, qci := 0, rpi := 0, rci := 0, granted := false, wake := none }

/-- ENABLE 0: reading stops, DRAIN is set, RINGERR clears (R325, R327). -/
def Queue.detached (q : Queue) : Queue :=
  { q with enable := false, drain := true, ringerr := false, granted := false, wake := none }

/-- Latch a wake of a queue (R326); an earlier wake not yet served stands. -/
def State.wakeQueue (s : State) (q : Nat) : State :=
  let qu := s.queue q
  s.setQueue q { qu with wake := some (qu.wake.getD (s.now, s.clk.time)) }

/-- Accepted commands of a queue that have not completed. -/
def State.outstanding (s : State) (q : Nat) : Nat := (s.ck.cmds.filter (fun x => x.origin = .queue q && !x.lost)).length

/-- R304: the queues whose rings lie in host memory are detached; replies of their accepted commands will be lost. -/
def State.detachHostQueues (s : State) : State :=
  let hit := fun (q : Nat) => (s.queue q).loc = 1 && ((s.queue q).enable || (s.queue q).drain)
  let t := s.mapQueues (fun q x => if hit q then { x.detached with drain := false } else x)
  { t with ck := { t.ck with cmds := t.ck.cmds.map (fun x =>
      match x.origin with | .queue q => if hit q then { x with lost := true } else x | _ => x) } }

/-- Number of attached queues. -/
def State.attachedQueues (s : State) : Nat := ((List.range 64).filter (fun q => (s.queue q).enable)).length

/-- A round is running. -/
def State.roundRunning (s : State) (r : Nat) : Bool := match s.round r with | some rd => rd.run.isSome | none => false
def State.anyRound (s : State) : Bool := (List.range 8).any s.roundRunning

/-- A live micro-batch exists in some stall. -/
def State.anyLive (s : State) : Bool := s.stallsLoaded.any (fun x => x.2.live ≠ [])

end Sys2Proof.Machine
end

