-- ==== Sys2Proof/Machine/Crypto.lean ====
section
/-! DEFINITION. SHA-384, HMAC, HKDF (RFC 5869), the curve brainpoolP384r1, ECDSA with deterministic nonces (RFC 6979) and
the keys that chapter 16 derives from the dies' secrets (R441, R442). The standards' own parameters are taken from outside
the spec (log 31). -/

namespace Sys2Proof.Machine

/-! ## SHA-384 -/

def shaK0 : List U64 :=
   [0x428A2F98D728AE22, 0x7137449123EF65CD, 0xB5C0FBCFEC4D3B2F, 0xE9B5DBA58189DBBC,
    0x3956C25BF348B538, 0x59F111F1B605D019, 0x923F82A4AF194F9B, 0xAB1C5ED5DA6D8118,
    0xD807AA98A3030242, 0x12835B0145706FBE, 0x243185BE4EE4B28C, 0x550C7DC3D5FFB4E2,
    0x72BE5D74F27B896F, 0x80DEB1FE3B1696B1, 0x9BDC06A725C71235, 0xC19BF174CF692694,
    0xE49B69C19EF14AD2, 0xEFBE4786384F25E3, 0x0FC19DC68B8CD5B5, 0x240CA1CC77AC9C65]
def shaK1 : List U64 :=
   [0x2DE92C6F592B0275, 0x4A7484AA6EA6E483, 0x5CB0A9DCBD41FBD4, 0x76F988DA831153B5,
    0x983E5152EE66DFAB, 0xA831C66D2DB43210, 0xB00327C898FB213F, 0xBF597FC7BEEF0EE4,
    0xC6E00BF33DA88FC2, 0xD5A79147930AA725, 0x06CA6351E003826F, 0x142929670A0E6E70,
    0x27B70A8546D22FFC, 0x2E1B21385C26C926, 0x4D2C6DFC5AC42AED, 0x53380D139D95B3DF,
    0x650A73548BAF63DE, 0x766A0ABB3C77B2A8, 0x81C2C92E47EDAEE6, 0x92722C851482353B]
def shaK2 : List U64 :=
   [0xA2BFE8A14CF10364, 0xA81A664BBC423001, 0xC24B8B70D0F89791, 0xC76C51A30654BE30,
    0xD192E819D6EF5218, 0xD69906245565A910, 0xF40E35855771202A, 0x106AA07032BBD1B8,
    0x19A4C116B8D2D0C8, 0x1E376C085141AB53, 0x2748774CDF8EEB99, 0x34B0BCB5E19B48A8,
    0x391C0CB3C5C95A63, 0x4ED8AA4AE3418ACB, 0x5B9CCA4F7763E373, 0x682E6FF3D6B2B8A3,
    0x748F82EE5DEFB2FC, 0x78A5636F43172F60, 0x84C87814A1F0AB72, 0x8CC702081A6439EC]
def shaK3 : List U64 :=
   [0x90BEFFFA23631E28, 0xA4506CEBDE82BDE9, 0xBEF9A3F7B2C67915, 0xC67178F2E372532B,
    0xCA273ECEEA26619C, 0xD186B8C721C0C207, 0xEADA7DD6CDE0EB1E, 0xF57D4F7FEE6ED178,
    0x06F067AA72176FBA, 0x0A637DC5A2C898A6, 0x113F9804BEF90DAE, 0x1B710B35131C471B,
    0x28DB77F523047D84, 0x32CAAB7B40C72493, 0x3C9EBE0A15C9BEBC, 0x431D67C49C100D4C,
    0x4CC5D4BECB3E42B6, 0x597F299CFC657E2A, 0x5FCB6FAB3AD6FAEC, 0x6C44198C4A475817]
/-- The round constants. -/
def shaK : List U64 := shaK0 ++ shaK1 ++ shaK2 ++ shaK3
/-- The initial hash value. -/
def shaInit : List U64 :=
   [0xCBBB9D5DC1059ED8, 0x629A292A367CD507, 0x9159015A3070DD17, 0x152FECD8F70E5939,
    0x67332667FFC00B31, 0x8EB44A8768581511, 0xDB0C2E0D64F98FA7, 0x47B5481DBEFA4FA4]

def rotr (x : U64) (n : Nat) : U64 := x.rotateRight n

/-- The message schedule, newest word first, extended by `n` words. -/
def shaSchedule : Nat → List U64 → List U64
  | 0, ws => ws
  | n + 1, ws =>
    let w := fun i => ws.getD i 0
    let a := w 14
    let b := w 1
    let s0 := rotr a 1 ^^^ rotr a 8 ^^^ (a >>> 7)
    let s1 := rotr b 19 ^^^ rotr b 61 ^^^ (b >>> 6)
    shaSchedule n ((w 15 + s0 + w 6 + s1) :: ws)

/-- One round on the eight working words. -/
def shaRound (v : List U64) (kw : U64) : List U64 :=
  match v with
  | [a, b, c, d, e, f, g, h] =>
    let t1 := h + (rotr e 14 ^^^ rotr e 18 ^^^ rotr e 41) + ((e &&& f) ^^^ (~~~e &&& g)) + kw
    let t2 := (rotr a 28 ^^^ rotr a 34 ^^^ rotr a 39) + ((a &&& b) ^^^ (a &&& c) ^^^ (b &&& c))
    [t1 + t2, a, b, c, d + t1, e, f, g]
  | v => v

/-- The big-endian number of bytes. -/
def natBE (bs : List Byte) : Nat := bs.foldl (fun n b => n * 256 + b.toNat) 0
/-- `n` big-endian bytes of a number. -/
def bytesBE (n v : Nat) : List Byte := (bytesLE n v).reverse

/-- One block of 128 bytes. -/
def shaBlock (h : List U64) (bs : List Byte) : List U64 :=
  let w0 := (List.range 16).map (fun i => BitVec.ofNat 64 (natBE ((bs.drop (8 * i)).take 8)))
  let ws := (shaSchedule 64 w0.reverse).reverse
  let v := (List.zip shaK ws).foldl (fun v p => shaRound v (p.1 + p.2)) h
  (List.zip h v).map (fun p => p.1 + p.2)

/-- The blocks of a padded message, `n` of them. -/
def shaBlocks : Nat → List U64 → List Byte → List U64
  | 0, h, _ => h
  | n + 1, h, bs => shaBlocks n (shaBlock h (bs.take 128)) (bs.drop 128)

/-- SHA-384 of a byte string: 48 bytes. -/
def sha384 (m : List Byte) : List Byte :=
  let pad := (128 - (m.length + 17) % 128) % 128
  let p := m ++ [0x80] ++ List.replicate pad 0 ++ bytesBE 16 (8 * m.length)
  ((shaBlocks (p.length / 128) shaInit p).take 6).flatMap (fun w => bytesBE 8 w.toNat)

/-! ## HMAC and HKDF -/

def hmac384 (key m : List Byte) : List Byte :=
  let k := if 128 < key.length then sha384 key else key
  let k := k ++ List.replicate (128 - k.length) 0
  sha384 (k.map (· ^^^ 0x5C) ++ sha384 (k.map (· ^^^ 0x36) ++ m))

/-- T(i) of HKDF-Expand, `n` blocks from block `i`. -/
def hkdfBlocks (prk info : List Byte) : (n i : Nat) → List Byte → List Byte
  | 0, _, _ => []
  | n + 1, i, t =>
    let t' := hmac384 prk (t ++ info ++ [BitVec.ofNat 8 i])
    t' ++ hkdfBlocks prk info n (i + 1) t'
/-- HKDF of RFC 5869 over HMAC-SHA-384; an empty salt is 48 zero bytes. -/
def hkdf (salt ikm info : List Byte) (len : Nat) : List Byte :=
  (hkdfBlocks (hmac384 (if salt = [] then List.replicate 48 0 else salt) ikm) info (ceilDiv len 48) 1 []).take len

/-! ## brainpoolP384r1 -/

def ecP : Nat := 0x8CB91E82A3386D280F5D6F7E50E641DF152F7109ED5456B412B1DA197FB71123ACD3A729901D1A71874700133107EC53
def ecA : Nat := 0x7BC382C63D8C150C3C72080ACE05AFA0C2BEA28E4FB22787139165EFBA91F90F8AA5814A503AD4EB04A8C7DD22CE2826
def ecB : Nat := 0x04A8C7DD22CE28268B39B55416F0447C2FB77DE107DCD2A62E880EA53EEB62D57CB4390295DBC9943AB78696FA504C11
def ecN : Nat := 0x8CB91E82A3386D280F5D6F7E50E641DF152F7109ED5456B31F166E6CAC0425A7CF3AB6AF6B7FC3103B883202E9046565
/-- A point; none is the point at infinity. -/
abbrev Point := Option (Nat × Nat)
def ecG : Point := some (0x1D1C64F068CF45FFA2A63A81B7C13F6B8847A3E77EF14FE3DB7FCAFE0CBD10E8E826E03436D646AAEF87B2E247D4AF1E,
  0x8ABE1D7520F9C2A45CB1EB8E95CFD55262B70B29FEEC5864E19C054FF99129280E4646217791811142820341263C5315)

/-- x^e modulo m, over the low `k` bits of e. -/
def powMod (m x : Nat) : (k e : Nat) → Nat
  | 0, _ => 1 % m
  | k + 1, e => let r := powMod m (x * x % m) k (e / 2); if e % 2 = 1 then x * r % m else r
/-- The inverse modulo a prime below 2^384. -/
def invMod (m x : Nat) : Nat := powMod m (x % m) 384 (m - 2)
/-- a - b modulo p. -/
def subMod (a b : Nat) : Nat := (a + (ecP - b % ecP)) % ecP

/-- A pair of coordinates lies on the curve. -/
def onCurve (x y : Nat) : Bool := x < ecP && y < ecP && y * y % ecP = (x * x % ecP * x + ecA * x + ecB) % ecP

def ecAdd (p q : Point) : Point :=
  match p, q with
  | none, q => q
  | p, none => p
  | some (x1, y1), some (x2, y2) =>
    if x1 = x2 && (y1 + y2) % ecP = 0 then none
    else
      let l := if x1 = x2 then (3 * x1 * x1 + ecA) * invMod ecP (2 * y1) % ecP else subMod y2 y1 * invMod ecP (subMod x2 x1) % ecP
      let x3 := subMod (l * l) (x1 + x2)
      some (x3, subMod (l * subMod x1 x3) y1)

/-- k times a point, over the low `n` bits of k. -/
def ecMul : (n k : Nat) → Point → Point
  | 0, _, _ => none
  | n + 1, k, p => let r := ecMul n (k / 2) (ecAdd p p); if k % 2 = 1 then ecAdd p r else r

/-- SEC 1 uncompressed form. -/
def sec1 (p : Point) : List Byte := match p with | some (x, y) => [0x04] ++ bytesBE 48 x ++ bytesBE 48 y | none => [0]

/-! ## ECDSA (RFC 6979) -/

/-- A private key of 56 bytes of HKDF output (R441). -/
def privKey (bs : List Byte) : Nat := natBE bs % (ecN - 1) + 1
def pubKey (d : Nat) : Point := ecMul 384 d ecG

/-- The nonce of RFC 6979, `n` tries. -/
def nonceLoop : Nat → (k v : List Byte) → Nat
  | 0, _, _ => 1
  | n + 1, k, v =>
    let v := hmac384 k v
    let t := natBE v
    if 1 ≤ t && t < ecN then t
    else let k' := hmac384 k (v ++ [0]); nonceLoop n k' (hmac384 k' v)
def nonce6979 (d : Nat) (h : List Byte) : Nat :=
  let seed := bytesBE 48 d ++ bytesBE 48 (natBE h % ecN)
  let v := List.replicate 48 (1 : Byte)
  let k := hmac384 (List.replicate 48 0) (v ++ [0] ++ seed)
  let v := hmac384 k v
  let k := hmac384 k (v ++ [1] ++ seed)
  nonceLoop 64 k (hmac384 k v)

/-- The signature (r, s) of a message. -/
def sign (d : Nat) (m : List Byte) : Nat × Nat :=
  let h := sha384 m
  let k := nonce6979 d h
  let r := match ecMul 384 k ecG with | some (x, _) => x % ecN | none => 0
  (r, invMod ecN k * ((natBE h + r * d) % ecN) % ecN)

def verify (q : Nat × Nat) (m : List Byte) (r s : Nat) : Bool :=
  if r = 0 || ecN ≤ r || s = 0 || ecN ≤ s || !onCurve q.1 q.2 then false
  else
    let w := invMod ecN s
    match ecAdd (ecMul 384 (natBE (sha384 m) * w % ecN) ecG) (ecMul 384 (r * w % ecN) (some q)) with
    | some (x, _) => x % ecN = r
    | none => false

/-! ## The module's keys (R441, R442, Table 16-3) -/

/-- The bytes of an ASCII string. -/
def ascii (t : String) : List Byte := t.toList.map (fun c => BitVec.ofNat 8 c.toNat)
/-- S_d as bytes (R440). -/
def secretBytes (d : Nat) : List Byte := bytesLE 32 (Config.secret d).toNat
/-- The identity key of die d. -/
def dieKey (d : Nat) : Nat := privKey (hkdf [] (secretBytes d) (ascii "FD8 die identity") 56)
/-- The first 8 bytes of the SHA-384 of die 0's identity public key (R442). -/
def modidValue : Nat := natLE ((sha384 (sec1 (pubKey (dieKey 0)))).take 8)
/-- MODID (R442). -/
@[irreducible] def modid : BitVec 64 := BitVec.ofNat 64 modidValue

end Sys2Proof.Machine
end

