-- ==== Sys2Proof/Machine/Report.lean ====
section
/-! DEFINITION. Messages of the management controller (R419, Table 15-5), remap recommendations (R434) and the unit
states of both views (R421, R422). -/

namespace Sys2Proof.Machine

/-- A management message as it leaves: the header of Table 15-5 and the payload, from and to port 4721 (R419). -/
def State.datagram (s : State) (m : MgmtMsg) : Out :=
  .datagram m.kind m.mseq m.ref (bytesLE 32 (pack [(248, 8, 1), (240, 8, m.kind.toNat), (208, 32, m.mseq.toNat), (144, 64, modid.toNat), (128, 16, if s.ab.fidValid then s.ab.fid.toNat else 0),
    (64, 64, s.clk.time.toNat), (32, 32, m.ref.toNat), (16, 16, m.payload.length % 65536), (15, 1, b1 s.ab.fidValid)]) ++ m.payload)

/-- Send a management message: it stays unacknowledged until an ACK; a full store of 65,536 loses its oldest, counted in
DROPS (R419). It leaves the part once a collector is set. -/
def State.mgmtSend (s : State) (kind : Byte) (ref : U32) (payload : List Byte) : State :=
  let m : MgmtMsg := ⟨kind, s.mg.mseq, ref, payload, s.now⟩
  let full := decide (65536 ≤ s.mg.unacked.length)
  let old := if full then s.mg.unacked.drop 1 else s.mg.unacked
  let t := { s with mg := { s.mg with mseq := s.mg.mseq + 1, unacked := old ++ [m], drops := if full then satAdd s.mg.drops 1 else s.mg.drops } }
  if s.mg.collector.isSome then t.emit (s.datagram m) else t

/-- A cause of a remap recommendation (R434, Table 15-10): the message leaves with REMAP. -/
def State.remapMsg (s : State) (reason : Nat) : State := { s with mg := { s.mg with remapDue := s.mg.remapDue ++ [reason] } }

/-- A change reported to the management network (R251, R389): KIND 6 naming the unit; a stack's carries its health record (R222). -/
def State.changeMsg (s : State) (unit : U16) (record : List Byte := []) : State := s.mgmtSend 6 unit.toNat (bytesLE 2 unit.toNat ++ record)

/-- Code of a unit state in records (Table 15-2). -/
def UState.code : UState → Nat
  | .active => 0 | .suspect => 1 | .fenced => 2

/-- The index of a unit's residency record (R408): bays, Millers, ports, dies, the module. -/
def powerIndex (u : Nat) : Option Nat :=
  let i := unitIndex u
  match unitKind u with
  | 1 => some i | 2 => some (64 + i) | 3 => some (72 + i) | 4 => some (136 + i) | 6 => some 140 | _ => none

/-- The unit code of a residency record (R395, R408). -/
def powerUnit (u : Nat) : U16 :=
  if u < 64 then bayCode u else if u < 72 then millerCode (u - 64) else if u < 136 then portCode (u - 72)
  else if u < 140 then engineCode (u - 136) else clerkCode

/-- A unit's state in the Clerk's view before this edge: a detection latched on an edge comes before any other change on it (R422). -/
def UnitState.before (x : UnitState) (tick : Nat) : UState := if x.changedAt = some tick then x.was else x.clerk

/-- Set a unit's state in both views (R422). -/
def State.setUnitState (s : State) (u : Nat) (v : UState) : State :=
  let x := s.unit u
  s.setUnit u { x with clerk := v, mgmt := v, disagreeAt := none, changedAt := some s.clk.ticks, was := x.before s.clk.ticks }

/-- Fewer ACTIVE bays than the threshold raises one remap recommendation as the count crosses it (R434, reason 2). -/
def State.checkBayCount (s : State) : State :=
  let low := decide (s.actBays < s.mg.bayLimit.toNat)
  let t := { s with mg := { s.mg with belowBays := low } }
  if low && !s.mg.belowBays then t.remapMsg 2 else t

/-- Units that have states: bays, Millers, ports, reduction engines. -/
def hasState (u : Nat) : Bool := unitOk u && 1 ≤ unitKind u && unitKind u ≤ 4
/-- A bay leaves ACTIVE: its TREADMILL claim ends, and the count of ACTIVE bays is judged (R346, R434). -/
def State.leaveActive (s : State) (u : Nat) : State := if unitKind u = 1 then (s.unclaim 3 (unitIndex u) 5).checkBayCount else s

/-- An ACTIVE unit becomes SUSPECT, in the Clerk's view or in both, and waits for the Farrier (R422, R425). -/
def State.makeSuspect (s : State) (u : Nat) (both : Bool) : State :=
  let x := s.unit u
  if !hasState u || x.clerk != .active then s
  else (s.setUnit u { x with clerk := .suspect, mgmt := if both then .suspect else x.mgmt, queuedTest := true }).leaveActive u

/-- A detection: it makes SUSPECT a unit that was ACTIVE before any other change on its edge (R413, R422). -/
def State.suspect (s : State) (u : Nat) (both : Bool) : State :=
  if (s.unit u).before s.clk.ticks = .active then s.makeSuspect u both else s

end Sys2Proof.Machine
end

