-- ==== Sys2Proof/Machine/Energy.lean ====
section
/-! DEFINITION. The Tallyman's clocks, rails, safety limits, energy accounting and its commands (chapter 13). -/

namespace Sys2Proof.Machine

/-! ## Rails and frequencies (R358 to R363) -/

/-- The step of a frequency in MHz (R358). -/
def mhzStep (f : Nat) : Nat := (f - 800) / 50
def State.fminStep (s : State) : Nat := mhzStep s.tal.set.fmin.toNat
def State.fmaxStep (s : State) : Nat := mhzStep s.tal.set.fmax.toNat

/-- A bay's island runs: neither clock-gated nor off (R359). -/
def State.bayRuns (s : State) (b : Nat) : Bool := (s.power b).state == .a0

/-- The bays of a die. -/
def dieBays (d : Nat) : List Nat := (List.range 16).map (· + 16 * d)

/-- The highest step that a bay's island runs at or is to rise to: the rail moves first (R361). -/
def Bay.topStep (x : Bay) : Nat := max x.step.toNat (max (match x.want with | some k => k.toNat | none => 0) (match x.held with | some k => k.toNat | none => 0))

/-- The rail setpoint V(d, kmax) + trim of a die (R359); in DI the step-0 entry plus trim (R395). -/
def State.setpoint (s : State) (d : Nat) : Int :=
  let kmax := ((dieBays d).filter s.bayRuns).foldl (fun k b => max k (s.bay b).topStep) 0
  (Config.voltage d kmax : Int) + (s.die d).vtrim

/-- Time at which the rail reports settled (R361). -/
def Die.railSettled (x : Die) : Nat := x.railAt + 100 * (x.vcore.toNat - x.railFrom.toNat)

/-- The highest step that a die's present rail supports (R401); in DI that is step 0. -/
def State.railStep (s : State) (d : Nat) : Nat :=
  if (s.power (136 + d)).state = .di then 0
  else (List.range 32).foldl (fun m k => if (Config.voltage d k : Int) + (s.die d).vtrim ≤ (s.die d).railNow s.now then k else m) 0

/-- The die's core rail is on. -/
def State.railOn (s : State) (d : Nat) : Bool := (s.power (136 + d)).state != .do_ && (s.power (136 + d)).state != .ms && !s.brd.trip

/-- Bring a die's rail to its setpoint at once: a rail turned on, or lowered. -/
def State.setRail (s : State) (d : Nat) : State :=
  let v := BitVec.ofNat 16 (s.setpoint d).toNat
  s.setDie d { s.die d with vcore := v, railFrom := v, railAt := s.now, railLowerAt := none }

/-- A setpoint above the rail's: the rail starts to rise (R361). -/
def State.railRises (s : State) (d : Nat) : State :=
  let x := s.die d
  if s.railOn d && decide ((x.vcore.toNat : Int) < s.setpoint d) then
    s.setDie d { x with vcore := BitVec.ofNat 16 (s.setpoint d).toNat, railFrom := BitVec.ofNat 16 (x.railNow s.now), railAt := s.now }
  else s

/-- The setpoint has fallen: the rail is lowered 1 µs later (R359, R361). -/
def State.railFalls (s : State) (d : Nat) : State :=
  if s.railOn d && decide (s.setpoint d < (s.die d).vcore.toNat) then s.setDie d { s.die d with railLowerAt := some (s.now + 1000) } else s

/-- The rail after a decision (R361): it rises first; where what held it up is dropped, it falls, unless a lowering is already due. -/
def State.railFollows (s : State) (d : Nat) : State :=
  let t := s.railRises d
  if (t.die d).railLowerAt.isNone then t.railFalls d else t

/-- The step an island should run at: min(fplan, fpace, fsafe) (R363). -/
def Bay.target (b : Bay) : Nat := match b.fsafe with | none => b.desired | some k => min b.desired k.toNat

/-- Decide a frequency change of an island, if its target differs: a held change is replaced and counts once more in
DEFER (R380); else the change waits for its switch, and the rail for a raise starts to rise (R361). -/
def State.retarget (s : State) (b : Nat) : State :=
  let x := s.bay b
  let k := BitVec.ofNat 5 x.target
  let t : State :=
    if k = x.step then s.setBay b { x with want := none, held := none }
    else if x.held.isSome then
      if x.held = some k then s
      else
        let t := s.setBay b { x with held := some k }
        t.setDie (b / 16) { t.die (b / 16) with defer := satAdd (t.die (b / 16)).defer 1 }
    else if x.want = some k then s else s.setBay b { x with want := some k }
  t.railFollows (b / 16)

/-- Steps by which running commands' grants lower a bay (R374). -/
def State.loweredOn (s : State) (b : Nat) : Nat :=
  s.ck.cmds.foldl (fun n x => if x.disp && x.bays.toNat.testBit b then max n x.lowered else n) 0

/-- Step from which the budget cuts: 2.1 GHz, or FMAX below it (R363, R376). -/
def State.topPlan (s : State) : Nat := min 26 s.fmaxStep

/-- fplan of an adaptive island lowered by `low` steps for a grant (R363): the budget's step, 2.1 GHz less cuts, raised by boost, clamped to
[FMIN, FMAX]; FMIN under the brake (R372). -/
def State.planOf (s : State) (low boost : Nat) : Nat :=
  if s.tal.braked then s.fminStep else max s.fminStep (min s.fmaxStep (s.topPlan - s.tal.cutC - low + boost))

/-- A bay enters or leaves THROTTLED: reported by the management controller (R389). -/
def State.reportClock (s : State) (b was : Nat) : State :=
  if ((s.bay b).clockState = 2) != (was = 2) && s.bayActive b then s.changeMsg (bayCode b) else s

/-- Change what sets a bay's frequency (R363): the island is aimed at its new target, and its clock state reported. -/
def State.retune (s : State) (b : Nat) (x : Bay) : State := ((s.setBay b x).retarget b).reportClock b (s.bay b).clockState

/-- Set a bay's boost, in steps above 2.1 GHz (R363, R365). -/
def State.boostTo (s : State) (b n : Nat) (x : Bay) : State := s.retune b { x with boost := n, plan := BitVec.ofNat 5 (s.planOf (s.loweredOn b) n) }

/-- Recompute every island's plan; the brake holds adaptive islands at FMIN, and cuts leave no boost (R363, R365, R372). -/
def State.replan (s : State) : State :=
  (List.range 64).foldl (fun t b => t.boostTo b (if t.tal.braked || 0 < t.tal.cutC + t.loweredOn b then 0 else (t.bay b).boost) (t.bay b)) s

/-- Take a new frequency; the rail of a raise has settled, and that of a lowering follows 1 µs later (R361). -/
def State.switchTo (s : State) (b : Nat) (k : BitVec 5) : State :=
  let x := s.bay b
  let t := s.setBay b { x with step := k, want := none, held := none }
  if x.step.toNat < k.toNat then t else t.setDie (b / 16) { t.die (b / 16) with railLowerAt := some (s.now + 1000) }

/-- A raise waits for the rail to report settled (R361). -/
def State.railWaits (s : State) (b : Nat) (k : BitVec 5) : Bool :=
  decide ((s.bay b).step.toNat < k.toNat) && !s.reached (s.die (b / 16)).railSettled

/-- A trip of the bay's detectors is latched on the same edge, and comes first (R31, R380). -/
def State.tripsNow (s : State) (b : Nat) : Bool := s.bayRuns b && s.latched (fun i => match i with | .droopTrip c => c.val = b | _ => false)

/-- A change that falls due while the island is stretched is held, and counts once in DEFER (R380). -/
def execFrequencySwitch (b : Idx64) (s : State) : Host.Outcome State Fault Refusal :=
  let x := s.bay b.val
  .next (match x.want with
    | some k =>
      if s.railWaits b.val k then s
      else if x.stretched || s.tripsNow b.val then
        let t := s.setBay b.val { x with want := none, held := some k }
        t.setDie (b.val / 16) { t.die (b.val / 16) with defer := satAdd (t.die (b.val / 16)).defer 1 }
      else s.switchTo b.val k
    | none => s)

/-- The rail is lowered to its setpoint, never under a raise that has begun (R361). -/
def execRailLower (d : Fin 4) (s : State) : Host.Outcome State Fault Refusal :=
  let x := s.die d.val
  .next (match x.railLowerAt with
    | some t =>
      if !s.reached t then s
      else if s.setpoint d.val < x.vcore.toNat then s.setRail d.val
      else s.setDie d.val { x with railLowerAt := none }
    | none => s)

/-! ## Droop (R378 to R381) -/

/-- A detector trips: the island's clock is stretched from its next edge (R378). -/
def execDroopTrip (b : Idx64) (s : State) : Host.Outcome State Fault Refusal :=
  let x := s.bay b.val
  let d := b.val / 16
  .next (if !s.bayRuns b.val then s
    else if x.stretched then s.setBay b.val { x with cleanFrom := s.clk.ticks }
    else
      let t := s.setBay b.val { x with stretched := true, stretchAt := s.clk.ticks, stretchFrac := 0, cleanFrom := s.clk.ticks }
      t.setDie d { t.die d with stretches := satAdd (t.die d).stretches 1 })

/-- Stretched time of an island not yet counted, in 1/2000 of a cycle at half its frequency (R378, R379). -/
def State.stretchParts (s : State) (b : Nat) : Nat :=
  let x := s.bay b
  (s.clk.ticks - x.stretchAt) * stepMHz x.step.toNat + x.stretchFrac
/-- The whole stretched cycles in it. -/
def State.stretchCycles (s : State) (b : Nat) : Nat := s.stretchParts b / 2000

/-- Cycles the island has run since the last trip, or since its stretch ended, at its present period (R379, R380). -/
def State.cleanCycles (s : State) (b : Nat) : Nat :=
  let x := s.bay b
  (s.clk.ticks - x.cleanFrom) * stepMHz x.step.toNat / (if x.stretched then 2000 else 1000)

/-- Count the stretched cycles of an island up to now (R379). -/
def State.countStretch (s : State) (b : Nat) : State :=
  if !(s.bay b).stretched then s
  else
    let n := s.stretchCycles b
    let x := s.die (b / 16)
    (s.setBay b { s.bay b with stretchAt := s.clk.ticks, stretchFrac := s.stretchParts b % 2000 }).setDie (b / 16) { x with strcyc := satAdd x.strcyc n, strcycInt := x.strcycInt + n }

/-- The stretch of an island is over, its cycles counted: no detector asks for it any more, or its clock has stopped (R379, R398). -/
def State.endStretch (s : State) (b : Nat) : State :=
  if !(s.bay b).stretched then s
  else
    let t := s.countStretch b
    t.setBay b { t.bay b with stretched := false, cleanFrom := s.clk.ticks }

/-- 32 consecutive clean stretched cycles end a stretch (R379), unless a trip is latched on the edge; `clean` is what the detectors show, at most the
cycles run. -/
def execStretchEnd (b : Idx64) (clean : Nat) (s : State) : Host.Outcome State Fault Refusal :=
  .next (if (s.bay b.val).stretched && 32 ≤ min clean (s.cleanCycles b.val) && !s.tripsNow b.val then s.endStretch b.val else s)

/-- A held change applies after 256 consecutive unstretched cycles, a raise once the rail has settled (R361, R380); a trip latched on the edge starts the
count again (R31). -/
def execHeldChangeApply (b : Idx64) (clean : Nat) (s : State) : Host.Outcome State Fault Refusal :=
  let x := s.bay b.val
  .next (match x.held with
    | some k => if !x.stretched && 256 ≤ min clean (s.cleanCycles b.val) && !s.railWaits b.val k && !s.tripsNow b.val then s.switchTo b.val k else s
    | none => s)

/-! ## Reservations (R374) -/

/-- Island or stack `i` of Config.staticCoef has power: bays, Millers and link islands by their state; after a thermal trip what the compute dies and the
Millers hold has none (R383), stacks and management apart. -/
def State.powered (s : State) (i : Nat) : Bool :=
  let off := fun (u : Nat) => (s.power u).state = .bo || (s.power u).state = .do_ || (s.power u).state = .ms
  if 72 ≤ i && i < 120 || i = 123 then true
  else if s.brd.trip then false
  else if i < 72 then !off i
  else if 124 ≤ i then !off (i - 52)
  else true

/-- Voltage, in mV, of the rail on which the static power of island or stack `i` counts: a bay's core rail; for fixed rails the ratio is 1 (R368). -/
def State.railOf (s : State) (i : Nat) : Nat := if i < 64 then (s.die (i / 16)).railNow s.now else 700

/-- TLEVEL of a TREAD bay as power in mW: filler of 49,152 cells at the bay's step, priced by R368 at its rail (R374). -/
def State.fillerPower (s : State) (b : Nat) : Nat :=
  let v := s.railOf b
  s.tal.set.tlevel.toNat * Config.coef 4 * 49152 * stepMHz (s.bay b).target * v * v / (256 * 1000000 * 490000)

/-- Standing reservation in mW: fixed consumers, idle links, static power of powered islands and stacks, and TLEVEL of
every TREAD bay (R374). -/
def State.standing (s : State) : Nat :=
  let stat := (List.range 188).foldl (fun n u => if s.powered u then n + Config.staticCoef u / 1000 else n) 0
  let fill := (maskBits s.tal.set.tread.toNat 64).foldl (fun n b => n + s.fillerPower b) 0
  Config.fixedPower + Config.linkIdle + stat + fill

/-- Added power of the boost step to `k` on a bay of die `d`; a step that FMIN already gives adds none (R363, R365). -/
def State.boostPower (s : State) (d k : Nat) : Nat := if k ≤ s.fminStep then 0 else Config.boostPower d k

/-- Power reserved by boost in mW (R365, R374). -/
def State.boostReserve (s : State) : Nat :=
  (List.range 64).foldl (fun n b => (List.range (s.bay b).boost).foldl (fun n k => n + s.boostPower (b / 16) (27 + k)) n) 0

/-- Power reserved by commands in mW: from dispatch to completion. -/
def State.cmdReserve (s : State) : Nat := s.ck.cmds.foldl (fun n x => if x.disp then n + x.reserved else n) 0

def State.reserved (s : State) : Nat := s.standing + s.boostReserve + s.cmdReserve

/-! ## PINNED (R391, R392) -/

/-- The units stopped at a bound, each with whether the present window stopped it (R392). -/
abbrev Stops := List (Nat × Bool)
def Stops.stop (l : Stops) (u : Nat) : Stops := (u, true) :: l.filter (fun y => y.1 != u)
/-- A window ends: a unit that it did not stop, and that no longer stands at the bound, has stayed away from it. -/
def Stops.close (l : Stops) (stays : Nat → Bool) : Stops := (l.filter (fun y => y.2 || stays y.1)).map (fun y => (y.1, false))

/-- The FMIN or FMAX bound stops an adaptation of unit `u`: counted once until the adaptation stays away (R392); a bound at the
hardware limit raises nothing (R391). Units are bays for boost, pacing and a grant (its lowest bay), and 64 for the compute
class. DEDUCED (log 52). -/
def State.pinFmin (s : State) (u : Nat) : State :=
  let t := { s with tal := { s.tal with atFmin := Stops.stop s.tal.atFmin u } }
  if s.tal.set.fmin = 800 then s
  else if s.tal.atFmin.any (fun y => y.1 = u) then t
  else ({ t with tal := { t.tal with tot := { t.tal.tot with pinfreq := satAdd t.tal.tot.pinfreq 1 } } } : State).pinnedEvent
def State.pinFmax (s : State) (u : Nat) : State :=
  let t := { s with tal := { s.tal with atFmax := Stops.stop s.tal.atFmax u } }
  if s.tal.set.fmax = 2350 then s
  else if s.tal.atFmax.any (fun y => y.1 = u) then t
  else ({ t with tal := { t.tal with tot := { t.tal.tot with pinfreq := satAdd t.tal.tot.pinfreq 1 } } } : State).pinnedEvent
/-- The cap order stops the cuts: its one unit is the module. -/
def State.pinOrder (s : State) : State :=
  let t := { s with tal := { s.tal with atOrder := Stops.stop s.tal.atOrder 0 } }
  if s.tal.atOrder != [] then t
  else ({ t with tal := { t.tal with tot := { t.tal.tot with pincut := satAdd t.tal.tot.pincut 1 } } } : State).pinnedEvent
/-- A stall is left with no ACTIVE bay, or a REBAY finds none (R392). -/
def State.pinPlace (s : State) : State :=
  ({ s with tal := { s.tal with tot := { s.tal.tot with pinplace := satAdd s.tal.tot.pinplace 1 } } } : State).pinnedEvent

/-! ## Boost (R365) -/

/-- The hottest junction of a die as a signed number. -/
def Die.hottest (x : Die) : Int := sgn 8 x.tmax.toNat

/-- A sample of a bay's hottest junction (R382). It is the die's hottest where it is not below TMAX; where the bay was the hottest and has cooled, the hottest of
the die's last samples is (Table 13-8). -/
def State.sampleTj (s : State) (b : Nat) (tj : Int) : State :=
  let d := b / 16
  let was := (s.bay b).tj = some (s.die d).hottest
  let t := s.setBay b { s.bay b with tj := some tj }
  let top := (dieBays d).foldl (fun m j => match (t.bay j).tj with | some v => max m v | none => m) tj
  if (s.die d).hottest ≤ tj then t.setDie d { t.die d with tmax := BitVec.ofInt 8 tj }
  else if was then t.setDie d { t.die d with tmax := BitVec.ofInt 8 top }
  else t

/-- A sample of a die's core current over 2 µs: the largest since clear is kept (Table 13-8). -/
def State.sampleAmps (s : State) (d amps : Nat) : State :=
  s.setDie d { s.die d with ipeak := BitVec.ofNat 16 (max (s.die d).ipeak.toNat (min amps 65535)) }

/-- What a bay's boost looks at: its hottest junction and its die's core current (R365). -/
def State.sampleBay (s : State) (b : Nat) (tj : Int) (amps : Nat) : State := (s.sampleTj b tj).sampleAmps (b / 16) amps

/-- One step more, to 2.1 GHz plus boost and clamped by R363, while nothing cuts, lowers, paces or limits the island (R365). -/
def execBoostStep (b : Idx64) (tj : Int) (current : Nat) (s : State) : Host.Outcome State Fault Refusal :=
  let s := s.sampleBay b.val tj current
  let x := s.bay b.val
  let k := 27 + x.boost
  let room := s.reserved + s.boostPower (b.val / 16) k ≤ s.tal.set.capw.toNat * 1000
  let ok := !x.fixed && s.bayRuns b.val && !s.tal.braked && s.tal.cutC = 0 && s.loweredOn b.val = 0 && x.target = s.planOf 0 x.boost && x.step.toNat = s.planOf 0 x.boost &&
    tj ≤ 90 && current ≤ 1250 && room && x.held.isNone && x.want.isNone && (x.boost = 0 || s.reached (x.boostAt + 1000000))
  .next (if !ok then s
    else if s.fmaxStep < k || 31 < k then s.pinFmax b.val
    else s.boostTo b.val (x.boost + 1) { x with boostAt := s.now })

def execBoostWithdraw (b : Idx64) (tj : Int) (current : Nat) (s : State) : Host.Outcome State Fault Refusal :=
  let s := s.sampleBay b.val tj current
  let x := s.bay b.val
  let fails := 90 < tj || 1250 < current || s.tal.set.capw.toNat * 1000 < s.reserved || s.fmaxStep < 26 + x.boost || s.tal.braked || x.held.isSome
  .next (if 0 < x.boost && fails then s.boostTo b.val 0 x else s)

/-! ## Safety limits (R382 to R384, R388, R389) -/

/-- An episode of a limit of Table 13-5 (row, unit) is in progress. -/
def Episode.is (e : Episode) (row unit : Nat) : Bool := e.row = row && e.unit = unit
def State.episode (s : State) (row unit : Nat) : Option Episode := s.tal.limits.find? (·.is row unit)
def State.inEpisode (s : State) (row unit : Nat) : Bool := s.tal.limits.any (·.is row unit)
def State.onEpisode (s : State) (row unit : Nat) (f : Episode → Episode) : State :=
  { s with tal := { s.tal with limits := s.tal.limits.map (fun e => if e.is row unit then f e else e) } }

/-- The die whose bays a Tier N or Tier M stack is attached to (R203, R382). -/
def stackDie (k : Nat) : Option Nat := if k < 16 then some (k / 4) else if k < 24 then some ((k - 16) / 2) else none

/-- A limit of Table 13-5 acts on a die: on one of its bays (rows 1, 2), the die (5, 7), every compute island (6), or a stack
attached to it (8). -/
def onDie (row unit d : Nat) : Bool :=
  if row = 1 || row = 2 then unit / 16 = d else if row = 5 || row = 7 then unit = d else row = 6 || (row = 8 && stackDie unit = some d)
def State.limitOnDie (s : State) (d : Nat) : Bool := s.tal.limits.any (fun e => onDie e.row e.unit d)

/-- The release of a limit; the filler of a waiting bay that it held at 0 may move again, from now on (R388). -/
def State.endEpisode (s : State) (row unit : Nat) : State :=
  let t : State := { s with tal := { s.tal with limits := s.tal.limits.filter (fun e => !e.is row unit) } }
  ((List.range 64).filter (fun b => onDie row unit (b / 16) && (s.bay b).waitStart.isSome)).foldl (fun t b => t.setBay b { t.bay b with fillAt := s.now }) t

/-- A bay idles from now: its 10 µs start again (R396). -/
def State.idles (s : State) (b : Nat) : State := s.setPower b { s.power b with idleFrom := s.now }

/-- R388: the filler of a bay goes to 0 at once; work that ramps keeps what the arrays are permitted. -/
def Bay.stopFill (x : Bay) : Bay := { x with fill := 0, combined := match x.work with | some w => min x.combined w | none => 0 }

/-- Begin an episode: a power record and SAFETY count once (R384), and the filler of the bays of the limit's dies stops (R388);
an episode in progress takes the new time. -/
def State.beginEpisode (s : State) (row unit : Nat) (code : U16) (value : Nat) : State :=
  let bs := (List.range 64).filter (fun b => onDie row unit (b / 16))
  let filler := bs.any (fun b => (s.bay b).fill != 0)
  let s := if filler then bs.foldl (fun t b => let u := t.setBay b (t.bay b).stopFill; if (t.bay b).fill = 0 then u else u.idles b) s else s
  if s.inEpisode row unit then s.onEpisode row unit (fun e => { e with acted := s.now, quiet := s.now, rising := false, filler := e.filler || filler })
  else
    let t := s.note { cls := 4, code := 2, unit := code, syndrome := BitVec.ofNat 128 (pack [(120, 8, row), (88, 32, value)]) }
    { t with tal := { t.tal with limits := t.tal.limits ++ [⟨row, unit, s.now, s.now, false, filler⟩], tot := { t.tal.tot with safety := satAdd t.tal.tot.safety 1 } } }

/-- The action of a limit comes again `ns` after its last one (Table 13-5). -/
def State.actsAgain (s : State) (row unit ns : Nat) : Bool := match s.episode row unit with | some e => s.reached (e.acted + ns) | none => true

/-- The step that a row of Table 13-5 sets for a bay, and the bay with another or with none. -/
def Bay.limit (x : Bay) (row : Nat) : Option (BitVec 5) := (x.safe.find? (fun y => y.1 = row)).map (·.2)
def Bay.setLimit (x : Bay) (row : Nat) (k : Option (BitVec 5)) : Bay :=
  let rest := x.safe.filter (fun y => y.1 != row)
  { x with safe := match k with | some v => rest ++ [(row, v)] | none => rest }

/-- One step down under the limit of a row, from the frequency the island runs at or is limited to, never below 800 MHz (R382). -/
def State.stepDown (row : Nat) (s : State) (b : Nat) : State :=
  let x := s.bay b
  let cur := min x.step.toNat (match x.fsafe with | some k => k.toNat | none => 31)
  s.retune b (x.setLimit row (some (BitVec.ofNat 5 (cur - 1))))

/-- f of R363 without the limit of a row. -/
def Bay.without (x : Bay) (row : Nat) : Nat := (x.setLimit row none).target

/-- One step up of a row's limit after its condition is gone (Table 13-5); the limit is gone once the island would run no faster without it. -/
def State.stepUp (row : Nat) (s : State) (b : Nat) : State :=
  let x := s.bay b
  match x.limit row with
  | none => s
  | some k => s.retune b (x.setLimit row (if x.without row ≤ k.toNat + 1 then none else some (k + 1)))

def execThermalThrottle (b : Idx64) (tj : Int) (s : State) : Host.Outcome State Fault Refusal :=
  let d := b.val / 16
  let s := s.sampleTj b.val tj
  .next (if tj < 100 || !s.actsAgain 1 b.val 20000 then s
    else
      let new := !s.inEpisode 1 b.val
      let t := s.beginEpisode 1 b.val (bayCode b.val) (100 * tj.toNat)
      let t := if new then t.setDie d { t.die d with therm := satAdd (t.die d).therm 1 } else t
      t.stepDown 1 b.val)

def execThermalFloor (b : Idx64) (tj : Int) (s : State) : Host.Outcome State Fault Refusal :=
  let s := s.sampleTj b.val tj
  .next (if 105 ≤ tj && (s.bay b.val).step = 0 then
      let t := s.beginEpisode 2 b.val (bayCode b.val) (100 * tj.toNat)
      t.setBay b.val { t.bay b.val with halfIssue := true }
    else s)

def execMillerThermal (g : Fin 8) (tj : Int) (s : State) : Host.Outcome State Fault Refusal :=
  .next (if 100 ≤ tj then
      let t := s.beginEpisode 4 g.val (millerCode g.val) (100 * tj.toNat)
      { t with millerHalf := tset false t.millerHalf g.val true }
    else s)

def execCoreCurrentLimit (d : Fin 4) (amps : Nat) (s : State) : Host.Outcome State Fault Refusal :=
  let s := s.sampleAmps d.val amps
  .next (if amps ≤ 1350 || !s.actsAgain 5 d.val 5000 then s
    else
      let new := !s.inEpisode 5 d.val
      let t := s.beginEpisode 5 d.val (engineCode d.val) (1000 * amps)
      let t := if new then t.setDie d.val { t.die d.val with ilimit := satAdd (t.die d.val).ilimit 1 } else t
      (dieBays d.val).foldl (State.stepDown 5) t)

def execInputPowerLimit (watts : Nat) (s : State) : Host.Outcome State Fault Refusal :=
  .next (if watts ≤ 4500 || !s.actsAgain 6 0 10000 then s
    else (List.range 64).foldl (State.stepDown 6) (s.beginEpisode 6 0 clerkCode (1000 * watts)))

/-- The bays of a stack's die report THROTTLED while a stack of the die is in its episode (Table 13-5). -/
def State.setStackHot (s : State) (k : Nat) : State :=
  match stackDie k with
  | none => s
  | some d =>
    let v := s.tal.limits.any (fun e => e.row = 8 && stackDie e.unit = some d)
    (dieBays d).foldl (fun t b => let was := (t.bay b).clockState; (t.setBay b { t.bay b with stackHot := v }).reportClock b was) s

def execStackTemperatureLimit (k : Fin 48) (temp : Int) (s : State) : Host.Outcome State Fault Refusal :=
  .next (if 95 ≤ temp then
      let t := s.beginEpisode 8 k.val (stackCode k.val) (100 * temp.toNat)
      (t.setStack k.val { t.stack k.val with halfRate := true, temp := BitVec.ofInt 8 temp }).setStackHot k.val
    else s)

/-- One release step of the islands of a limit: each limit of the row rises by one step; the episode ends once no island is held by it
(Table 13-5). -/
def State.releaseStep (s : State) (row unit : Nat) (bs : List Nat) : State :=
  let t := bs.foldl (State.stepUp row) s
  if bs.all (fun b => ((t.bay b).limit row).isNone) then t.endEpisode row unit
  else t.onEpisode row unit (fun e => { e with quiet := s.now, rising := true })

/-- The release condition of a row of Table 13-5 holds at the value measured now; row 7 releases while no interval acts on it. -/
def releases (row : Nat) (value : Int) : Bool :=
  match row with
  | 1 => value < 97 | 2 => value < 100 | 4 => value < 97 | 5 => value < 1300 | 6 => value < 4400 | 7 => true | 8 => value < 92 | _ => false

/-- How long the release condition holds before a step up (Table 13-5): 10 ms before the first of a persistent droop. -/
def Episode.wait (e : Episode) : Nat := if e.row = 2 || e.row = 8 then 0 else if e.row = 7 && !e.rising then 10000000 else 1000000

/-- The value measured for a row of Table 13-5 is kept where a report shows it: a junction in TMAX, a core current in IPEAK, a stack's TEMP
(Tables 13-8, 07-7). -/
def State.sampled (s : State) (row unit : Nat) (value : Int) : State :=
  match row with
  | 1 | 2 => s.sampleTj unit value
  | 5 => s.sampleAmps unit value.toNat
  | 8 => s.setStack unit { s.stack unit with temp := BitVec.ofInt 8 value }
  | _ => s

/-- Release of the limit in row `row` + 1 of Table 13-5 on `unit`, with the value measured now, which is kept: one that has not fallen far
enough starts the wait again. -/
def execSafetyRelease (row : Fin 8) (unit : Nat) (value : Int) (s : State) : Host.Outcome State Fault Refusal :=
  let r := row.val + 1
  .next (match s.episode r unit with
    | none => s
    | some e =>
      let s := s.sampled r unit value
      if !releases r value then s.onEpisode r unit (fun e => { e with quiet := s.now, rising := false })
      else if !s.reached (e.quiet + e.wait) then s
      else match r with
        | 1 => s.releaseStep 1 unit [unit]
        | 2 => (s.setBay unit { s.bay unit with halfIssue := false }).endEpisode 2 unit
        | 4 => { s with millerHalf := tset false s.millerHalf unit false }.endEpisode 4 unit
        | 6 => s.releaseStep 6 unit (List.range 64)
        | 8 => ((s.setStack unit { s.stack unit with halfRate := false }).endEpisode 8 unit).setStackHot unit
        | _ => s.releaseStep r unit (dieBays unit))

/-! ## Trim (R362, R381) -/

/-- VOFFLO and VOFFHI as signed mV (Table 13-3). -/
def State.trimLo (s : State) : Int := sgn 8 s.tal.set.vofflo.toNat
def State.trimHi (s : State) : Int := sgn 8 s.tal.set.voffhi.toNat

/-- The trim wanted after an interval (R362). -/
def Die.wantTrim (x : Die) (tj : Int) (cycles : Nat) (anyStretch : Bool) : Int :=
  if !anyStretch && x.strcycInt = 0 && tj ≤ 95 then x.vtrim - 5
  else if cycles < x.strcycInt * 1000 then x.vtrim + 5 else x.vtrim

def execTrimInterval (d : Fin 4) (tj : Int) (cycles : Nat) (s : State) : Host.Outcome State Fault Refusal :=
  let now := s.clk.time.toNat / 1000000
  .next (if now = (s.die d.val).lastTrim then s
    else
      let live := (dieBays d.val).any (fun b => (s.bay b).stretched)
      let s := (dieBays d.val).foldl State.countStretch s
      let x := s.die d.val
      let w := x.wantTrim tj cycles live
      let v := max s.trimLo (min s.trimHi w)
      let stopped := w != v
      let hard := (w < v && v = -50) || (v < w && v = 50)
      let t := s.setDie d.val { x with vtrim := v, tmax := BitVec.ofInt 8 tj, lastTrim := now, strcycInt := 0, atWindow := stopped || (x.atWindow && (v = s.trimLo || v = s.trimHi))
                                       pinvolt := if stopped && !hard && !x.atWindow then satAdd x.pinvolt 1 else x.pinvolt }
      let t := if stopped && !hard && !x.atWindow then t.pinnedEvent else t
      let t := (dieBays d.val).foldl (fun t b => match (t.bay b).tj with | some v => t.setBay b { t.bay b with tj := some (min v tj) } | none => t) t
      let t := t.railFollows d.val
      if cycles < x.strcycInt * 100 && x.vtrim = s.trimHi then
        let t := t.beginEpisode 7 d.val (engineCode d.val) x.strcycInt
        let t := t.setDie d.val { t.die d.val with droopfb := satAdd (t.die d.val).droopfb 1 }
        (dieBays d.val).foldl (State.stepDown 7) t
      else t)

/-! ## Energy accounting (R368 to R372) -/

/-- Cap class of an activity class of Table 13-2: 0 links, 1 memory, 2 compute. -/
def capClass (c : Nat) : Nat := if c ≤ 10 then 2 else if c ≤ 14 then 1 else 0

/-- Classes counted on a die's core rail: 0 to 8 (Table 13-2); the others lie on fixed rails. -/
def onCoreRail (c : Nat) : Bool := c ≤ 8

/-- Energy of the counts of class `c` in fJ, the class counted die by die (R368). -/
def State.classEnergy (s : State) (counts : List Nat) (c : Nat) : Nat :=
  (List.range 4).foldl (fun n d =>
    let v := if onCoreRail c then s.railOf (16 * d) else 700
    n + counts.getD (18 * d + c) 0 * Config.coef c * v * v / 490000) 0

/-- `2^((t - 85) / 20)` in units of 1/65536, the leakage factor of R368: the whole number below it or the one above (Config.leakUp, log 13). -/
def leakFactor (t : Int) : Nat :=
  let x : Rat := (65536 : Rat) ^ 20 * (if 85 ≤ t then ((2 ^ (t - 85).toNat : Nat) : Rat) else 1 / ((2 ^ (85 - t).toNat : Nat) : Rat))
  let k := (List.range (20 + (t - 85).toNat / 20)).reverse.foldl (fun k i => if ((k + 2 ^ i : Nat) : Rat) ^ 20 ≤ x then k + 2 ^ i else k) 0
  if (k : Rat) ^ 20 = x then k else if Config.leakUp t then k + 1 else k

/-- Static energy of 50 µs in fJ: islands and stacks at their voltage and temperature, one powered off at none (R368). -/
def State.staticEnergy (s : State) (temps : List Int) : Nat :=
  (List.range 188).foldl (fun n i =>
    let v := if s.powered i then s.railOf i else 0
    n + Config.staticCoef i * v * v * v * leakFactor (temps.getD i 85) * 50000 / (343000000 * 65536)) 0

/-- The charged energy of a count of fJ in µJ: the model times K (R369). -/
def State.charge (s : State) (fj : Nat) : Nat := fj * s.tal.tot.kcorr.toNat / 1024 / 1000000000

/-- Account a window's energies (Table 13-7): classes by cap class, filler apart, static and fixed consumers. -/
def State.account (s : State) (w : WindowCounts) : Nat × State :=
  let e := fun c => s.charge (s.classEnergy w.counts c)
  let fixed := s.staticEnergy w.temps + Config.fixedPower * 50000000
  let sum := fun (k : Nat) => (List.range 18).foldl (fun n c => if capClass c = k && c != 4 then n + e c else n) 0
  let stat := s.charge fixed
  let total := sum 0 + sum 1 + sum 2 + e 4 + stat
  let o := s.tal.tot
  (total, { s with tal := { s.tal with modelled := s.tal.modelled + (List.range 18).foldl (fun n c => n + s.classEnergy w.counts c) fixed, tot := { o with
    emodel := satAdd o.emodel total, ecomp := satAdd o.ecomp (sum 2), emem := satAdd o.emem (sum 1), elink := satAdd o.elink (sum 0)
    efill := satAdd o.efill (e 4), estatic := satAdd o.estatic stat
    peakwin := BitVec.ofNat 32 (max o.peakwin.toNat (min total 0xFFFFFFFF)) } } })

/-- The cut order: rank 0 highest to 2 lowest (R376, Table 12-22). -/
def cutRank (order : Byte) (i : Nat) : Nat := bits order.toNat (5 - 2 * i) (4 - 2 * i)

/-- A class is at its floor (Table 13-4). -/
def State.atFloor (s : State) (k : Nat) : Bool :=
  if k = 2 then (s.topPlan - s.tal.cutC ≤ s.fminStep) && 4 ≤ s.tal.cutMiller else if k = 1 then 6 ≤ s.tal.cutM else 7 ≤ s.tal.cutL

/-- Cut a class by one unit toward its floor (Table 13-4). -/
def State.cutClass (s : State) (k : Nat) : State :=
  if k = 2 then
    let t := if s.topPlan - s.tal.cutC ≤ s.fminStep then s.pinFmin 64 else { s with tal := { s.tal with cutC := s.tal.cutC + 1 } }
    { t with tal := { t.tal with cutMiller := min 4 (t.tal.cutMiller + 1) } }.replan
  else if k = 1 then { s with tal := { s.tal with cutM := min 6 (s.tal.cutM + 1) } }
  else { s with tal := { s.tal with cutL := min 7 (s.tal.cutL + 1) } }

/-- Cut the class ranked last that is not at its floor (R376). A cut that reaches the first-ranked class, or finds every
class at its floor, is a PINNED event of the cap order; one that passes over the compute class is stopped by FMIN (Table 13-6). -/
def State.cutLowest (s : State) : State :=
  let passed := [2, 1, 0].takeWhile (fun i => s.atFloor (cutRank s.tal.set.order i))
  let s := if passed.any (fun i => cutRank s.tal.set.order i = 2) then s.pinFmin 64 else s
  match [2, 1, 0].find? (fun i => !s.atFloor (cutRank s.tal.set.order i)) with
  | some i => let t := s.cutClass (cutRank s.tal.set.order i); if i = 0 then t.pinOrder else t
  | none => s.pinOrder

/-- A class has a cut to undo. -/
def State.isCut (s : State) (k : Nat) : Bool :=
  if k = 2 then 0 < s.tal.cutC || 0 < s.tal.cutMiller else if k = 1 then 0 < s.tal.cutM else 0 < s.tal.cutL

/-- Undo one unit of a class's cut (R375). -/
def State.undoClass (s : State) (k : Nat) : State :=
  if k = 2 then { s with tal := { s.tal with cutC := s.tal.cutC - 1, cutMiller := s.tal.cutMiller - 1 } }.replan
  else if k = 1 then { s with tal := { s.tal with cutM := s.tal.cutM - 1 } }
  else { s with tal := { s.tal with cutL := s.tal.cutL - 1 } }

/-- Filler acts only on bays named in TREAD: those that TREAD no longer names stop theirs (R385). -/
def State.dropTread (s : State) : State :=
  ((List.range 64).filter (fun b => !s.tal.set.tread.getLsbD b && ((s.bay b).waitStart.isSome || (s.bay b).work.isSome || (s.bay b).fill != 0))).foldl (fun t b =>
    let u := t.setBay b { t.bay b with waitStart := none, work := none, combined := 0, fill := 0 }
    if (t.bay b).fill = 0 then u else u.idles b) s

/-- Settings that waited take effect, and their commands complete (R373, R377). -/
def State.applySettings (s : State) : State :=
  let t := s.tal.next.foldl (fun t (c, b) => { t with tal := { t.tal with set := { b with order := t.tal.set.order } } }.doneCmd c) s
  let t := t.tal.nextOrder.foldl (fun t (c, o) => { t with tal := { t.tal with set := { t.tal.set with order := o } } }.doneCmd c) t
  { t with tal := { t.tal with next := [], nextOrder := [] } }.replan.dropTread

/-- R372: the projected energy reaches the window limit: the brake acts until the window ends. -/
def execBrake (projected : Nat) (s : State) : Host.Outcome State Fault Refusal :=
  .next (if s.tal.set.capw.toNat * 50 + min s.tal.reserve.toNat 20000 ≤ projected && !s.tal.braked then
      { s with tal := { s.tal with braked := true } }.replan
    else s)

/-- R369: K is the ratio of the measured energy (µJ) of 10 ms to the modelled energy of the windows accounted in them; outside 0.95 to 1.05 a power record. The
event's second operand, the sender's own modelled sum, decides nothing. With nothing modelled K stays (log 13). -/
def execKCorrection (measured _modelled : Nat) (s : State) : Host.Outcome State Fault Refusal :=
  let now := s.clk.time.toNat / 10000000
  .next (if now = s.tal.lastK then s
    else
      let m := s.tal.modelled
      let k := if m = 0 then s.tal.tot.kcorr.toNat else min 65535 ((2048 * measured * 1000000000 / m + 1) / 2)
      let dev := if k ≤ 1024 then 1024 - k else k - 1024
      let o := s.tal.tot
      let t := { s with tal := { s.tal with lastK := now, modelled := 0, tot := { o with kcorr := BitVec.ofNat 16 k, emeas := satAdd o.emeas measured, maxdev := BitVec.ofNat 16 (max o.maxdev.toNat dev) } } }
      if k * 100 < 95 * 1024 || 105 * 1024 < k * 100 then t.note { cls := 4, code := 1, unit := clerkCode, syndrome := BitVec.ofNat 128 (pack [(88, 32, k)]) } else t)

/-! ## The Treadmill (R385 to R388) -/

/-- From one level toward another by at most `room` (R385). -/
def toward (cur target room : Nat) : Nat := if cur < target then min target (cur + room) else max target (cur - room)

/-- What the slope limit of 16/256 per µs has allowed since the last move (R385). -/
def Bay.room (x : Bay) (now : Nat) : Nat := 16 * (now - x.fillAt) / 1000

/-- The filler level of a bay whose wait began at `t`, as it stands at `now` (R386): unchanged until 5 µs, then toward TLEVEL, and from 10 ms on toward 0, each at no
more than 16/256 per µs. -/
def Bay.waitFill (x : Bay) (t tlevel now : Nat) : Nat :=
  let room := fun (from_ to_ : Nat) => 16 * (to_ - max x.fillAt from_) / 1000
  let f := if t + 5000 ≤ now then toward x.fill tlevel (room (t + 5000) (min now (t + 10000000))) else x.fill
  if t + 10000000 ≤ now then toward f 0 (room (t + 10000000) now) else f

/-- The filler of a waiting bay is brought up to date; one that reaches 0 leaves the bay idle from then on (R386, R396). -/
def State.moveFill (s : State) (b t : Nat) : State :=
  let x := s.bay b
  let f := x.waitFill t s.tal.set.tlevel.toNat s.now
  let u := s.setBay b { x with fill := f, fillAt := s.now }
  if f = 0 && x.fill != 0 then u.idles b else u

/-- R387: work of level `w` is dispatched to a waiting bay: the combined activity starts from the filler level. -/
def Bay.beginWork (x : Bay) (now w : Nat) : Bay :=
  { x with waitStart := none, work := some w, combined := x.fill, fill := x.fill - w, fillAt := now }

/-- R387: combined activity of a bay whose work has begun: it moves to the work's level at no more than the slope limit. -/
def Bay.combinedAt (x : Bay) (now : Nat) : Nat := match x.work with | some w => toward x.combined w (x.room now) | none => x.fill

/-- R387: the rate, in 1/256, at which the arrays issue the work; filler is the remainder of the combined activity. -/
def Bay.permitted (x : Bay) (now : Nat) : Nat := match x.work with | some w => if x.combinedAt now = w then 256 else min w (x.combinedAt now) | none => 256
def Bay.fillNow (x : Bay) (now : Nat) : Nat := match x.work with | some w => x.combinedAt now - w | none => x.fill

/-- The ramp of R387 as it stands now; at the work's level it is over. -/
def Bay.rampWork (x : Bay) (now : Nat) : Bay :=
  match x.work with
  | none => x
  | some w =>
    let c := x.combinedAt now
    { x with work := if c = w then none else some w, combined := if c = w then 0 else c, fill := c - w, fillAt := now }

/-- Rate at which a bay's arrays may issue, in 1/256 (R372, R387, Table 13-5). -/
def State.arrayIssue (s : State) (b : Nat) : Nat :=
  let x := s.bay b
  min (x.permitted s.now) (if s.tal.braked || x.halfIssue then 128 else 256)

/-- Rate at which a Miller's matrix unit may issue, in eighths (R372, Tables 13-4 and 13-5). -/
def State.millerIssue (s : State) (g : Nat) : Nat :=
  min (8 - s.tal.cutMiller) (if s.tal.braked || tget false s.millerHalf g then 4 else 8)

/-- Filler of a bay from 5 µs of its wait, toward TLEVEL; none while a safety limit acts on its die (R386, R388). Of a bay whose
work has begun, the ramp (R387). Filler acts only on bays named in TREAD (R385). -/
def execTreadmillRamp (b : Idx64) (s : State) : Host.Outcome State Fault Refusal :=
  let x := s.bay b.val
  .next (if !s.tal.set.tread.getLsbD b.val then s
    else match x.waitStart with
    | some t => if s.reached (t + 5000) && !s.reached (t + 10000000) && !s.limitOnDie (b.val / 16) then s.moveFill b.val t else s
    | none => s.setBay b.val (x.rampWork s.now))

def execTreadmillDecay (b : Idx64) (s : State) : Host.Outcome State Fault Refusal :=
  let x := s.bay b.val
  .next (if !s.tal.set.tread.getLsbD b.val then s
    else match x.waitStart with
    | some t => if s.reached (t + 10000000) && !s.limitOnDie (b.val / 16) then s.moveFill b.val t else s
    | none => s.setBay b.val (x.rampWork s.now))

/-! ## Pacing (R390) -/

/-- The lowest step at or above f × w / (w + d), not below FMIN. -/
def State.paceStep (s : State) (f w d : Nat) : Nat :=
  let need := f * w
  max s.fminStep (((List.range 32).find? (fun k => need ≤ stepMHz k * (w + d))).getD 31)

/-- The release of a step-close barrier of group `grp` sets the pacing of the adaptive islands of a stall's bays, or ends the
pacing that this group set (R390). -/
def State.pace (s : State) (bays : U64) (grp : U32) (clk : Nat) (own arrival last : U64) : State :=
  let w := own.toNat - last.toNat
  let d := arrival.toNat - own.toNat
  (maskBits bays.toNat 64).foldl (fun t b =>
    let x := t.bay b
    if clk = 2 && w < 32 * d && !x.fixed then
      let f := stepMHz { x with pace := none }.target
      let k := t.paceStep f w d
      let t := t.retune b { x with pace := some (BitVec.ofNat 5 k), paceGrp := grp }
      if f * w < stepMHz t.fminStep * (w + d) && k = t.fminStep then t.pinFmin b else t
    else if x.pace.isSome && x.paceGrp = grp then t.retune b { x with pace := none }
    else t) s

/-! ## Commands (R366, R373, R377, R394) -/

/-- A query's result: written at DEST for a host queue, returned to a peer otherwise (R335). -/
def State.queryResult (s : State) (x : Cmd) (dest : Nat) (bs : List Byte) : State :=
  let peer : Bool := match x.origin with | .queue q => (s.queue q).loc == 3 | .attach _ => true | .round _ _ => false
  if peer then s.onCmd x.no (fun y => { y with result := bs }) else s.put x.no dest bs

/-- The settings an ENERGY_BUDGET_SET carries (Table 12-22). -/
def budgetOf (x : Cmd) (order : Byte) : Budget :=
  { capw := BitVec.ofNat 16 (x.p 0 2), fmin := BitVec.ofNat 16 (x.p 2 2), fmax := BitVec.ofNat 16 (x.p 4 2), vofflo := BitVec.ofNat 8 (x.p 6 1)
    voffhi := BitVec.ofNat 8 (x.p 7 1), tread := BitVec.ofNat 64 (x.p 8 8), tlevel := BitVec.ofNat 8 (x.p 16 1), order := order }

/-- A command starts work that later events end. -/
def State.workOn (s : State) (c : CmdNo) : State := s.onCmd c (fun x => { x with phase := .working })

def execEnergyBudgetSet (c : CmdNo) (s : State) : Host.Outcome State Fault Refusal :=
  .next (match s.running c 0x0701 with
    | some x => { s with tal := { s.tal with next := s.tal.next ++ [(c, budgetOf x s.tal.set.order)] } }.workOn c
    | none => s)

def execCapOrderSet (c : CmdNo) (s : State) : Host.Outcome State Fault Refusal :=
  .next (match s.running c 0x0702 with
    | some x => { s with tal := { s.tal with nextOrder := s.tal.nextOrder ++ [(c, BitVec.ofNat 8 (x.p 0 1))] } }.workOn c
    | none => s)

def execFreqMode (c : CmdNo) (s : State) : Host.Outcome State Fault Refusal :=
  .next (match s.running c 0x0703 with
    | some x =>
      let bs := if x.p 8 8 = 0 then List.range 64 else maskBits (x.p 8 8) 64
      let fixed := x.p 0 1 = 1
      (bs.foldl (fun t b =>
        let y := t.bay b
        t.boostTo b (if fixed then 0 else y.boost) { y with fixed := fixed, pace := if fixed then none else y.pace }) s).doneCmd c
    | none => s)

/-- The record of Table 13-7. -/
def State.energyRecord (s : State) : List Byte :=
  let o := s.tal.tot
  let b := s.tal.set
  bytesLE 128 (pack [(960, 64, s.clk.time.toNat), (896, 64, o.emodel.toNat), (832, 64, o.emeas.toNat), (768, 64, o.ecomp.toNat),
    (704, 64, o.emem.toNat), (640, 64, o.elink.toNat), (576, 64, o.efill.toNat), (512, 64, o.estatic.toNat), (480, 32, s.tal.reserve.toNat),
    (448, 32, o.peakwin.toNat), (416, 32, o.refusals.toNat), (384, 32, o.waits.toNat), (368, 16, o.kcorr.toNat), (352, 16, o.maxdev.toNat),
    (336, 16, o.pinfreq.toNat), (320, 16, o.pincut.toNat), (304, 16, o.pinplace.toNat), (288, 16, o.safety.toNat), (272, 16, b.capw.toNat),
    (256, 16, b.fmin.toNat), (240, 16, b.fmax.toNat), (232, 8, b.vofflo.toNat), (224, 8, b.voffhi.toNat), (216, 8, b.tlevel.toNat),
    (208, 8, b.order.toNat), (202, 1, b1 (s.isCut 2)), (201, 1, b1 (s.isCut 1)), (200, 1, b1 (s.isCut 0)), (128, 64, b.tread.toNat),
    (96, 32, o.brakes.toNat)])

/-- The die record of Table 13-8. -/
def State.dieRecord (s : State) (d : Nat) : List Byte :=
  let x := s.die d
  let clkb := (dieBays d).map (fun b => let y := s.bay b; (320 + 8 * (b % 16), 8, pack [(6, 2, y.clockState), (5, 1, b1 y.fixed), (0, 5, y.step.toNat)]))
  bytesLE 64 (pack ([(496, 16, x.vcore.toNat), (488, 8, (x.vtrim % 256).toNat), (480, 8, x.tmax.toNat), (464, 16, x.ipeak.toNat), (448, 16, x.pinvolt.toNat),
    (288, 32, x.stretches.toNat), (224, 64, x.strcyc.toNat), (192, 32, x.defer.toNat), (160, 32, x.therm.toNat), (128, 32, x.ilimit.toNat),
    (112, 16, x.droopfb.toNat)] ++ clkb))

/-- The 640 bytes of ENERGY_REPORT (R394). -/
def State.energyReport (s : State) : List Byte :=
  s.energyRecord ++ ((List.range 4).map s.dieRecord).flatten ++
    ((List.range 4).map (fun d => ((List.range 32).map (fun k => bytesLE 2 (Config.voltage d k))).flatten)).flatten

/-- CLEAR of ENERGY_REPORT: totals and event counters less what was written; PEAKWIN, MAXDEV and IPEAK to 0 (R394). -/
def State.clearEnergy (s : State) : State :=
  let o := s.tal.tot
  let t := { s with tal := { s.tal with tot := { kcorr := o.kcorr } } }
  (List.range 4).foldl (fun t d => let x := t.die d
    t.setDie d { x with ipeak := 0, pinvolt := 0, stretches := 0, strcyc := 0, defer := 0, therm := 0, ilimit := 0, droopfb := 0 }) t

def execEnergyReport (c : CmdNo) (s : State) : Host.Outcome State Fault Refusal :=
  .next (match s.begins c 0x0704 with
    | some x =>
      let s := (List.range 64).foldl State.countStretch s
      let t := s.queryResult x (x.addr 0) s.energyReport
      (if x.p 8 1 % 2 = 1 then t.clearEnergy else t).doneCmd c
    | none => s.stopped c 0x0704)

end Sys2Proof.Machine
end

