-- ==== Sys2Proof/WellFormed.lean ====
section
/-! DEFINITION. Well-formed commands: the bounds that the spec puts on an operand and its type does not. exec answers for
every command; these say which of them the board, the fabric, a sensor or the package can present. -/

namespace Sys2Proof

/-- A flit of a kind of Table 09-5, on the channel that the kind requires, with a payload of at most 232 bytes (R252, R253). -/
def Flit.wf (f : Flit) (kind : Nat) (vcs : List Nat) : Bool := f.kind.toNat = kind && vcs.contains f.vc.toNat && f.payload.length ≤ 232

/-- A flit of a listed kind on a virtual channel that the kind requires (R253, Table 09-5). -/
def Flit.kindOk (f : Flit) : Bool :=
  match f.kind.toNat with
  | 0 | 1 | 2 | 3 => f.vc = 0
  | 4 | 5 | 8 => f.vc = 1
  | 6 | 7 => f.vc = 2
  | 9 => f.vc = 3 || f.vc = 0
  | _ => false

/-- A unit code of Table 12-11. -/
def unitCodeOk (u : U16) : Bool :=
  let i := u.toNat % 4096
  match u.toNat / 4096 with
  | 1 => i < 64 | 2 => i < 8 | 3 => i < 64 | 4 => i < 4 | 5 => i < 48 | 6 | 7 | 8 => i = 0 | _ => false

/-- An address of one of the three tiers (Table 07-1). -/
def memoryAddr (a : BitVec 48) : Bool :=
  a.toNat < 0xC000000000 || (0x10000000000 ≤ a.toNat && a.toNat < 0x44000000000)

/-- A line of an activation store: 24 MiB of each bay's 32 MiB slot (R204). -/
def storeLine (a : BitVec 48) : Bool := 0xF0000000000 ≤ a.toNat && a.toNat < 0xF0080000000 && a.toNat % 2 ^ 25 < 3 * 2 ^ 23

/-- A TSV lane's stack and channel (Table 07-3). -/
def laneOk (x : Nat × Nat) : Bool := x.1 < 48 && x.2 < if x.1 < 16 then 32 else if x.1 < 24 then 16 else 4

/-- A memory message names at least a byte; a write and read data carry as many bytes as they name (Table 09-5). -/
def MemMsg.wf (m : MemMsg) (carries : Bool) : Bool := 1 ≤ m.len && m.data.length = if carries then m.len else 0

/-- A probe's return route has at most eight hops (R250, R263). -/
def Probe.wf (m : Probe) : Bool := m.ret.length ≤ 8

/-- Reduce-scatter data: a record for each block of 32, each marked block one of them (R269, R271). -/
def SegData.wf (d : SegData) : Bool :=
  1 ≤ d.codes.length && d.records.length = (d.codes.length + 31) / 32 && d.marked.all (fun b => b < d.records.length)

/-- What a training attempt can find: lanes pass at the higher rate only where it is offered; credits of four channels (Table 09-2). -/
def TrainResult.wf (r : TrainResult) : Bool := (r.offers128 || r.pass128 = 0) && r.credits.length ≤ 4 && r.reply.wf

/-- What a test can find: only tests that ran fail, and the temperature is one that a sensor shows (Table 15-9). -/
def TestResult.wf (r : TestResult) : Bool := (r.failed &&& ~~~r.ran) = 0 && r.replayFail.toNat ≤ r.replays.toNat && r.captured.length ≤ 8

/-- What a boot can find: dies, bays and stacks of the module (R440, R445, R221). -/
def BootResult.wf (r : BootResult) : Bool := r.pufReads.length = 4 && r.failedBays.all (· < 64) && r.tsvFail.all laneOk && r.testRows.all (fun x => x.1 < 48)

/-- The bounds on a command's operands. -/
def Instr.wf : Instr → Bool
  | .cmdFlit _ f => f.wf 8 [1]
  | .mgmtMailboxWord _ _ _ (.unitState u) _ => unitCodeOk u
  | .bar2Write _ bytes none => 1 ≤ bytes.length && bytes.length ≤ 64
  | .bar2Write _ bytes (some n) => bytes.length = 0 && 1 ≤ n && n ≤ 64
  | .hdmWrite hpa bytes => 1 ≤ bytes.length && hpa.toNat % 64 + bytes.length ≤ 64
  | .hdmCommit _ _ _ _ ways => 1 ≤ ways
  | .ostlerRequest _ _ _ beats lock _ _ => 1 ≤ beats && (match lock with | some l => beats ≤ l | none => true)
  | .crossingLoss _ u k => unitCodeOk u && k < 2 ^ 16
  | .training _ r => r.wf
  | .probe _ f m => f.wf 2 [0] && m.wf
  | .probeReply _ f m => f.wf 3 [0] && m.wf
  | .heartbeat _ f => f.wf 1 [0]
  | .null _ f => f.wf 0 [0] && f.seq = 0
  | .switchRoute _ f => 4 ≤ f.kind.toNat && f.kindOk && f.payload.length ≤ 232
  | .memWrite _ f m => f.wf 4 [1] && m.wf true
  | .memRead _ f m => f.wf 5 [1] && m.wf false
  | .memData _ f m => f.wf 6 [2] && m.wf true
  | .resp _ f _ => f.wf 7 [2]
  | .redscatterData _ f _ d => f.wf 9 [3] && d.wf
  | .allgatherData _ f _ data => f.wf 9 [3] && data.length ≤ 16384
  | .alltoallData _ f _ data => f.wf 9 [3] && data.length ≤ 16384
  | .segGrant _ f _ => f.wf 9 [3]
  | .arrive _ f _ => f.wf 9 [3]
  | .release _ f _ => f.wf 9 [3]
  | .abort _ f _ => f.wf 9 [3]
  | .poll _ f _ => f.wf 9 [0]
  | .pollAns _ f _ => f.wf 9 [0]
  | .reservedKindFlit _ f => !f.kindOk && f.payload.length ≤ 232
  | .dramReadCorrected a _ _ => memoryAddr a || storeLine a
  | .uncorrectableRead a _ => memoryAddr a
  | .scrubRead a _ _ _ => memoryAddr a
  | .sramSecondCorrection u _ b _ => unitCodeOk u && b < 72
  | .budgetWindowEnd w => w.counts.length ≤ 72
  | .idleBgEntry u => unitCodeOk u && u.toNat / 4096 ≤ 2
  | .powerStateReached u => u < 141
  | .wakeComplete u _ tsv => u < 141 && tsv.all laneOk
  | .residueDetection u code _ _ _ _ b => unitCodeOk u && code.toNat ≤ 7 && b < 72
  | .parityError u => unitCodeOk u
  | .capsuleCopy u => unitCodeOk u
  | .viewDisagreement u => unitCodeOk u
  | .farrierTest u => unitCodeOk u
  | .verdict u r => unitCodeOk u && r.wf
  | .shoeingDue u => unitCodeOk u
  | .shoeingSlice u _ => unitCodeOk u
  | .bootChain r => r.wf
  | .syncInPulse utc => utc.toNat % 1000000000 = 0
  | .cxlLinkUp _ width => width = 4 || width = 8 || width = 16
  | .caps _ | .stallLoad _ | .stallSwitch _ | .stallEvictDrop _ | .stallEvictPark _ | .windowSet _ | .move _ | .gather _ | .scatter _ | .matmulFwd _
  | .matmulBwd _ | .attnFwd _ | .attnBwd _ | .vectorOp _ | .matmulRef _ | .scaleScan _ | .convert _ | .stepClose _ | .stepCloseProcessing _ | .setMode _
  | .setBounds _ | .setStartlen _ | .setFlags _ | .lossScaleSet _ | .numericsStats _ | .updateLayer _ | .precondRefresh _ | .maskSet _ | .weightPublish _
  | .publicationResume _ | .publicationCommit _ | .publicationWaitTimeout _ | .collAllreduce _ | .collRedscatter _ | .collAllgather _ | .collBarrier _
  | .collAlltoall _ | .peerAttach _ | .peerDetach _ | .peerClaim _ | .peerRelease _ | .handoff _ _ | .grant _ | .energyBudgetSet _ | .capOrderSet _
  | .freqMode _ | .energyReport _ | .pstateReqA0 _ | .pstateReqBg _ | .pstateReqBo _ | .pstateReqDi _ | .pstateReqDo _ | .pstateReqMs _ | .pstateReport _
  | .farrierRun _ | .farrierRunMarkDue _ | .errlogRead _ | .errlogReadHealth _ | .unitFence _ | .unitReturn _ | .attestReport _ | .ideKeySetup _ | .certRead _
  | .fwStage _ | .fwActivate _ | .fwActivateNow _ | .roundLoad _ | .roundStart _ | .roundStepIssue _ | .roundIterationEnd _ | .checkpoint _ | .restore _
  | .restoreLayerWrite _ | .quiesce _ | .doorbell _ _ | .rciWrite _ _ | .queueAttach _ _ | .queueDetach _ | .drainEnd _ | .ringerrClear _ _
  | .coherentWakeSnoop _ | .packetRead _ | .commandDispatch _ | .commandComplete _ | .deadlineExpiry _ | .h2cWrite _ _ _ | .mailboxRequestTake _
  | .holdRegisterPost _ | .c2hRead _ | .millerMailboxWord _ _ _ _ _ | .mgmtMailboxWord _ _ _ .record _ | .mgmtMailboxWord _ _ _ (.pps _) _ | .mbBankRead _ | .notownerRead _ | .lostreplyRead _
  | .acceptsRead _ _ | .registerWrite _ _ _ _ _ | .hdmRead _ _ | .hostClaim _ _ | .hostRelease | .hdmApply _ _ | .ideIntegrityFailure _ | .conventionalReset _
  | .functionLevelReset | .cxlReset | .moduleReset _ | .arbitrationBoundary _ _ | .ostlerCommit _ | .ostlerClrcnt _ | .ostlerCounterRead _ | .aliveFall _ _ _
  | .aliveRise _ _ _ | .portEnableWrite _ | .retrain | .portClrcnt _ _ | .linkCounterRead _ | .engineCounterRead _ | .fidWrite _ | .rtDataWrite _ | .trainingTimeout _ _
  | .trainingRetry _ | .probeTimer _ | .probeRetry _ | .heartbeatSend _ | .flitDiscard _ _ | .neighbourLost _ | .lostRetrain _ | .park _ | .unpark _
  | .transitTimeout _ | .pollSend _ | .pollTimeout _ | .yardEdgeWithdraw _ | .refreshRateChange _ _ | .brake _ | .trimInterval _ _ _ | .kCorrection _ _
  | .boostStep _ _ _ | .boostWithdraw _ _ _ | .frequencySwitch _ | .railLower _ | .droopTrip _ | .stretchEnd _ _ | .heldChangeApply _ _
  | .thermalThrottle _ _ | .thermalFloor _ _ | .thermalTrip _ | .millerThermal _ _ | .coreCurrentLimit _ _ | .inputPowerLimit _
  | .stackTemperatureLimit _ _ | .safetyRelease _ _ _ | .treadmillRamp _ | .treadmillDecay _ | .capsuleRelease _ | .viewCompare | .moduleFailure _
  | .clerkWatchdog _ | .mgmtWatchdog _ | .errorRecordReport _ | .remap _ | .mgmtResend | .ack _ | .setCollector _ _ | .releaseOwner | .capsuleReq _
  | .setThresholds _ _ | .readyTimeout | .rngHealthFail | .inrushClose _ _ | .powerGoodRise | .powerGoodFall | .senseBreak | .abrefLoss _ | .abrefRestore _
  | .cxlRefclkLoss | .syncInTimeout | .ptpMessage _ | .ppsPulse | .stepmarkEnd | .modstatRead _ | .mctpSensorRead | .modPgAssert | .cxlRefclkReturn
  | .ppsPulseEnd | .heldModuleReset _ => true

end Sys2Proof
end

