-- ==== Sys2Proof/Machine/Link.lean ====
section
/-! DEFINITION. Abond ports: the link protocol (R243 to R260), neighbours and PROBE (R249 to R251), the switch
(R261 to R267) and the port registers (R280). -/

namespace Sys2Proof.Machine

/-! ## Neighbour entries (R250, R251, Table 09-10) -/

/-- The fields whose change counts (R251). -/
def Nbr.watched (n : Nbr) : NbrState × BitVec 4 × BitVec 2 × BitVec 2 × Fid × U64 := (n.state, n.width, n.rate, n.ver, n.fid, n.id)

/-- Cycles of a port's link island up to a tick: its clock runs at the symbol rate ÷ 64 (Table 01-5). -/
def Port.cycles (x : Port) (at_ : Nat) : Nat := x.cycBase + (at_ - x.cycFrom) / (if x.nbr.rate = 1 then 2 else 1)

/-- Write a port's neighbour entry; a change raises CHANGES, NBRCHG and a message to the management network (R251). -/
def State.setNbr (s : State) (p : Nat) (n : Nbr) : State :=
  let x := s.port p
  let x := if x.nbr.rate = n.rate then x else { x with cycBase := x.cycles s.clk.ticks, cycFrom := s.clk.ticks }
  if x.nbr.watched = n.watched then s.setPort p { x with nbr := n }
  else
    let t := s.setPort p { x with nbr := { n with changes := satAdd x.nbr.changes 1 } }
    (t.abondEvent false).changeMsg (portCode p)

def State.portUp (s : State) (p : Nat) : Bool := (s.port p).nbr.state == .up

/-- The unit's entry to DO or MS, which would power its ports down, is in progress (R260). -/
def Power.goesDeep (x : Power) : Bool := x.entering == some .do_ || x.entering == some .ms

/-- The port may train: ENABLE set, not fenced, powered, with its clock, in a module that has not failed (R246, R260, R406, R424, R433,
R478). -/
def State.portCanTrain (s : State) (p : Nat) : Bool :=
  let x := s.port p
  x.enable && !x.fenced && (s.power (72 + p)).state == .a0 && (s.power (72 + p)).entering.isNone && !(s.power (136 + p / 16)).goesDeep && !(s.power 140).goesDeep &&
    s.brd.abrefOk && s.brd.powered && !s.boot.failed

/-- The module's own PROBE fields (R250); the version mask is 0b11 (R247). -/
def State.ownProbe (s : State) (p : Nat) (ret : List (BitVec 6)) : Probe :=
  { fid := s.ab.fid, fidValid := s.ab.fidValid, port := BitVec.ofNat 6 p, modid := modid, vmask := 3, ret := ret }

/-! ## Sending (R255, R267) -/

/-- Link-control flits (Table 09-5): kinds 0 to 3, and COLL on VC 0. -/
def linkControl (f : Flit) : Bool := f.kind.toNat ≤ 3 || (f.kind = 9 && f.vc = 0)

/-- The link is trained: flits are received on it. -/
def Nbr.trained (n : Nbr) : Bool := n.state = .up || n.state = .conflict || n.state = .nofid

/-- What a neighbour entry lets through: everything when UP, PROBE flits alone in CONFLICT or NOFID (R250). -/
def Nbr.carries (n : Nbr) (f : Flit) : Bool := n.state = .up || (n.trained && (f.kind = 2 || f.kind = 3))

/-- What a port sends: what its entry carries, and while it trains the PROBE flits of step 6 (R246, R250). -/
def Nbr.sends (n : Nbr) (f : Flit) : Bool := n.carries f || (n.state = .training && (f.kind = 2 || f.kind = 3))

/-- A count of credits by VC, with one replaced. -/
def setCredit (l : List Nat) (vc n : Nat) : List Nat := (List.range 4).map (fun k => if k = vc then n else l.getD k 0)

/-- The VC whose credits the next flit returns: the first with credits owed. -/
def Port.owedVc (x : Port) : Nat := ((List.range 4).find? (fun v => 0 < x.owed.getD v 0)).getD 0

/-- The link fields of a flit about to leave, and the port that has given them (R255, R259, R267). -/
def Port.stamp (x : Port) (f : Flit) : Flit × Port :=
  let v := x.owedVc
  let n := min 1023 (x.owed.getD v 0)
  ({ f with ack := x.rxSeq, nak := x.nakDue, crvc := BitVec.ofNat 2 v, crcnt := BitVec.ofNat 10 n, park := x.nbr.parkTx, fec := 0 },
   { x with ackDue := false, nakDue := false, owed := setCredit x.owed v (x.owed.getD v 0 - n), rxCredits := setCredit x.rxCredits v (x.rxCredits.getD v 0 + n)
            ctrs := { x.ctrs with txflits := satAdd x.ctrs.txflits 1 } })

/-- Put a NULL flit on the line: acknowledgement, NAK, credits, PARK (R255). -/
def State.sendNull (s : State) (p : Nat) : State :=
  let (f, x) := (s.port p).stamp {}
  (s.setPort p { x with lastCtl := some s.now }).emit (.flit p f)

/-- Lanes on which the port sends: one while it is parked (R245, R259). -/
def Port.lanes (x : Port) : Nat := if x.nbr.parkTx then 1 else max 1 x.nbr.width.toNat

/-- 64 flit times of a port in ps (R245, R256). -/
def Port.flits64 (x : Port) : Nat := 135469 * (if x.nbr.rate = 1 then 2 else 1) * 8 / x.lanes

/-- Traffic flits wait at the port. -/
def Port.trafficWaits (x : Port) : Bool := x.egress.any (fun q => !linkControl q.flit) || x.resend.any (fun f => !linkControl f)

/-- A link-control flit may leave: at most one in 64 flit times while traffic waits (R256). -/
def State.mayCtl (s : State) (p : Nat) : Bool :=
  let x := s.port p
  !x.trafficWaits || (match x.lastCtl with | none => true | some t => s.reached (t + ceilDiv x.flits64 1000))

/-- Give what acknowledgement, NAK and credits are owed by NULL flits where nothing else is to send or R256 allows one; else the next flit
carries them (R255, R256, R267). -/
def State.flushAck (s : State) (p : Nat) : State :=
  let x := s.port p
  let vs := (List.range 4).filter (fun v => 0 < x.owed.getD v 0)
  if s.mayCtl p && (x.ackDue || x.nakDue || vs != []) then (List.range (if x.trafficWaits then 1 else max 1 vs.length)).foldl (fun t _ => t.sendNull p) s else s

/-- Flits have left the receive buffer of a port: their credits are owed to the partner (R267). -/
def State.owe (s : State) (p vc : Nat) (n : Nat := 1) : State :=
  let x := s.port p
  s.setPort p { x with owed := setCredit x.owed vc (x.owed.getD vc 0 + n) }

/-- A port can send a sequenced flit now: fewer than 2,047 unacknowledged and a credit of its VC (R255, R267). -/
def Port.canSend (x : Port) (f : Flit) : Bool := x.unacked.length < 2047 && 0 < x.credits.getD f.vc.toNat 0

/-- Send a sequenced flit: it takes the next SEQ, a credit, and a place in the retry buffer, and leaves the receive buffer of the port on which
it came (R255, R267). -/
def State.sendNow (s : State) (p : Nat) (q : Queued) : State :=
  let x := s.port p
  let (g, y) := x.stamp q.flit
  let g := { g with seq := x.txSeq }
  let vc := g.vc.toNat
  let y := { y with txSeq := x.txSeq + 1, unacked := x.unacked ++ [(g, s.now)]
                    credits := x.credits.set vc (x.credits.getD vc 0 - 1), lastSeqSent := s.now
                    lastTraffic := if linkControl g then x.lastTraffic else s.now, lastCtl := if linkControl g then some s.now else x.lastCtl }
  let t := (s.setPort p y).emit (.flit p g)
  match q.ingress with | some i => (t.owe i vc).flushAck i | none => t

/-- A flit may leave: the entry carries it, and R256 allows one of link control. -/
def State.mayLeave (s : State) (p : Nat) (f : Flit) : Bool := (s.port p).nbr.sends f && (!linkControl f || s.mayCtl p)

/-- Send an unacknowledged flit again after a NAK, as a flit that leaves now (R255, R257, R259). -/
def State.sendAgain (s : State) (p : Nat) (f : Flit) : State :=
  let (g, y) := (s.port p).stamp f
  (s.setPort p { y with resend := y.resend.drop 1, lastSeqSent := s.now, lastTraffic := if linkControl g then y.lastTraffic else s.now
                        lastCtl := if linkControl g then some s.now else y.lastCtl, ctrs := { y.ctrs with retries := satAdd y.ctrs.retries 1 } }).emit (.flit p g)

/-- The new flit that leaves a port next: of those the entry carries, link control where R256 allows one, else the oldest whose VC has a credit
and no older flit waiting (R233, R250, R255, R267). -/
def State.nextOut (s : State) (p : Nat) : Option Queued :=
  let x := s.port p
  let heads := (List.range 4).filterMap (fun v => x.egress.find? (fun q => q.flit.vc.toNat = v && x.nbr.sends q.flit))
  let can := fun (q : Queued) => x.canSend q.flit && s.mayLeave p q.flit
  match heads.find? (fun q => linkControl q.flit && can q) with
  | some q => some q
  | none => x.egress.find? (fun q => heads.contains q && can q)

/-- Send flits while they can go, one step for each: those to be sent again in their order, then new ones (R255). -/
def State.drainEgress (p : Nat) : Nat → State → State
  | 0, s => s
  | n + 1, s =>
    match (s.port p).resend, s.nextOut p with
    | f :: _, _ => if s.mayLeave p f then State.drainEgress p n (s.sendAgain p f) else s
    | [], none => s
    | [], some q => let x := s.port p; State.drainEgress p n ((s.setPort p { x with egress := x.egress.erase q }).sendNow p q)

/-- Send all that can go from a port. -/
def State.drain (s : State) (p : Nat) : State := State.drainEgress p ((s.port p).resend.length + (s.port p).egress.length) s

/-- Queue a flit for a port's egress, and send it if it can go (R255, R261). -/
def State.queueFlit (s : State) (p : Nat) (f : Flit) (ingress : Option Nat := none) : State :=
  let x := s.port p
  let y := { x with egress := x.egress ++ [⟨f, s.now, ingress⟩], lastTraffic := if linkControl f then x.lastTraffic else s.now }
  (s.setPort p y).drain p

/-! ## UNREACH (R264) -/

/-- Fail the commands that wait on an access with a tag (R258, R264). -/
def State.failTag (s : State) (tag : BitVec 24) (status : Byte) (detail : U16) : State :=
  let hit := s.ab.xfers.filter (fun x => x.tag = tag)
  let t := { s with ab := { s.ab with xfers := s.ab.xfers.filter (fun x => x.tag != tag) } }
  let t := hit.foldl (fun t x => t.endCmd x.cmd status detail) t
  let cs := t.ab.colls.filter (fun c => c.unackd.contains tag)
  cs.foldl (fun t c => { t with ab := { t.ab with colls := t.ab.colls.filter (fun d => d.cmd != c.cmd) } }.endCmd c.cmd status detail) t

/-- The egress of a flit for a destination: the routing table, then a neighbour of that name (R261 rules 3, 4). -/
def State.egressOf (s : State) (dst : Fid) : Option Nat :=
  let e := (tget (0 : U16) s.ab.rt dst.toNat).toNat
  let alt : Option Nat := if bit e 14 && s.portUp (bits e 13 8) then some (bits e 13 8) else none
  let byNbr := (List.range 64).find? (fun p => s.portUp p && (s.port p).nbr.fid = dst)
  if bit e 15 then (if s.portUp (bits e 5 0) then some (bits e 5 0) else match alt with | some a => some a | none => byNbr)
  else byNbr

/-- Cut a message into flit payloads of at most 232 bytes, with fuel (R253). -/
def chunk232 : Nat → List Byte → List (List Byte)
  | 0, bs => [bs]
  | n + 1, bs => if bs.length ≤ 232 then [bs] else bs.take 232 :: chunk232 n (bs.drop 232)

/-- Send a message towards a fabric identifier (R252, R253, R261 rules 3 to 5): none where no route exists. TTL starts at 63 (R264). -/
def State.sendRouted (s : State) (kind vc : Nat) (dst : Fid) (stall : Byte) (tag : BitVec 24) (body : List Byte) (o : Out) : Option (Nat × State) :=
  match s.egressOf dst with
  | none => none
  | some p =>
    let f : Flit := { kind := BitVec.ofNat 4 kind, vc := BitVec.ofNat 2 vc, dst := dst, src := s.ab.fid, stall := stall, tag := tag, ttl := 63 }
    some (p, ((chunk232 (body.length / 232 + 1) body).foldl (fun t b => t.queueFlit p { f with payload := b }) s).emit o)

/-- Send a message of the module itself: none while FIDVALID is 0, but for link control (R249). One to its own identifier is delivered to itself, by no port (R261
rule 2). -/
def State.sendMsg (s : State) (kind vc : Nat) (dst : Fid) (stall : Byte) (tag : BitVec 24) (body : List Byte) (o : Out) : Option (Nat × State) :=
  if !s.ab.fidValid && !(kind = 9 && vc = 0) then none
  else if s.ab.fidValid && dst = s.ab.fid then some (64, s.emit o)
  else s.sendRouted kind vc dst stall tag body o

/-- Send a RESP; one that finds no route is lost. -/
def State.sendResp (s : State) (dst : Fid) (tag : BitVec 24) (unreach : Bool) (status : Byte) (detail : U16) (body : List Byte) : State :=
  match s.sendMsg 7 2 dst 0 tag body (.resp dst tag unreach status detail body) with
  | some (_, t) => t
  | none => s

/-- A flit of a request of the module itself, whose command waits on it. -/
def State.ownRequest (s : State) (f : Flit) : Bool := f.src = s.ab.fid && s.ab.fidValid && (f.kind = 4 || f.kind = 5 || f.kind = 9)

/-- Tell a discarded flit's source: one UNREACH for each TAG, none for a RESP, and also while FIDVALID is 0 (R249); a request of the module
itself fails its command (R258, R264). `p`: the port on which the discard was seen. -/
def State.unreach (s : State) (p : Nat) (f : Flit) (status : Byte := 0x41) : State :=
  if f.src = s.ab.fid && s.ab.fidValid then (if s.ownRequest f then s.failTag f.tag status (if status = 0x10 then 0x0301 else BitVec.ofNat 16 p) else s)
  else if f.kind = 7 || s.ab.unreached.contains (f.src, f.tag) then s
  else
    let t := { s with ab := { s.ab with unreached := s.ab.unreached ++ [(f.src, f.tag)] } }
    match t.sendRouted 7 2 f.src 0 f.tag [] (.resp f.src f.tag true status 0 []) with | some (_, u) => u | none => t

/-- A link record (Table 15-3) for a flit at a port. -/
def State.linkRecord (s : State) (code : Nat) (p : Nat) (f : Flit) : State :=
  s.note { cls := 3, code := BitVec.ofNat 8 code, unit := portCode p, syndrome := BitVec.ofNat 128 (pack [(122, 6, p), (106, 16, (s.port p).nbr.fid.toNat), (94, 12, f.seq.toNat), (90, 4, f.kind.toNat)]) }

/-! ## Links going down (R246, R258, R478) -/

/-- Discard everything queued for a port's egress or held in its retry buffer, telling each source (R258). -/
def State.discardPort (s : State) (p : Nat) : State :=
  let x := s.port p
  let fs := x.egress.map (·.flit) ++ x.unacked.map (·.1)
  let back := x.egress.filterMap (fun q => q.ingress.map (fun i => (i, q.flit.vc.toNat)))
  let t := s.setPort p { x with egress := [], unacked := [], credits := [], rxCredits := [], owed := [], ackDue := false, nakDue := false, resend := [], collMsg := [], probeSent := none, discarding := false }
  let t := back.foldl (fun t b => (t.owe b.1 b.2).flushAck b.1) t
  fs.foldl (fun t f => t.unreach p f) t

/-- Take a port DOWN (R246, R424, R433, R478). -/
def State.portDown (s : State) (p : Nat) (retryAt : Option Nat) : State :=
  let t := s.discardPort p
  let x := t.port p
  let t := t.setNbr p { x.nbr with state := .down, width := 0, ver := 0, parkTx := false, parkRx := false }
  t.setPort p { t.port p with retryAt := retryAt }

/-- A neighbour is lost (R258). -/
def State.loseNeighbour (s : State) (p : Nat) : State :=
  let x := s.port p
  let f : Flit := match x.unacked with | (f, _) :: _ => f | [] => {}
  let t := s.linkRecord 1 p f
  let x := t.port p
  let t := t.setPort p { x with ctrs := { x.ctrs with peerlost := satAdd x.ctrs.peerlost 1 } }
  let t := t.setNbr p { (t.port p).nbr with state := .lost, width := 0, ver := 0, parkTx := false, parkRx := false }
  let t := t.discardPort p
  t.setPort p { t.port p with retryAt := some (s.now + 100000) }

/-- A port begins to train (R246). -/
def State.startTraining (s : State) (p : Nat) : State :=
  let t := s.setNbr p { (s.port p).nbr with state := .training }
  t.setPort p { t.port p with retryAt := none, trainingSince := s.now }

/-- Send a PROBE on a port and start its 10 µs (R250). -/
def State.sendProbe (s : State) (p : Nat) : State :=
  let t := s.queueFlit p { kind := 2, vc := 0, src := s.ab.fid, tag := 0 }
  let t := t.setPort p { t.port p with probeSent := some s.now, lastProbe := s.now }
  t.emit (.probe p false (s.ownProbe p []))

/-! ## Receiving (R254, R255) -/

/-- How far `b` is ahead of `a`, modulo 4,096. -/
def ahead (a b : BitVec 12) : Nat := (b - a).toNat

/-- Retry buffer after an acknowledgement: flits up to ACK leave it (R255). -/
def ackUnacked (us : List (Flit × Nat)) (ack : BitVec 12) : List (Flit × Nat) :=
  match us with
  | [] => []
  | (f, _) :: _ => if ahead f.seq ack < us.length then us.drop (ahead f.seq ack + 1) else us

/-- The fields every flit carries: acknowledgement, NAK, after which all that is unacknowledged is sent again, credits, PARK (R255, R259, R267). A
message of `n` flits comes as one command (log 21). -/
def State.linkFields (s : State) (p : Nat) (f : Flit) (n : Nat := 1) : State :=
  let x := s.port p
  let us := ackUnacked x.unacked f.ack
  let again := if f.nak then us.map (·.1) else x.resend.filter (fun g => us.any (fun u => u.1.seq = g.seq))
  let y := { x with unacked := us, resend := again, credits := x.credits.set f.crvc.toNat (x.credits.getD f.crvc.toNat 0 + f.crcnt.toNat)
                    nbr := { x.nbr with parkRx := f.park }
                    ctrs := { x.ctrs with rxflits := satAdd x.ctrs.rxflits n, feccorr := satAdd x.ctrs.feccorr f.fec } }
  (s.setPort p y).drain p

/-- The flit is the next in order on its port. -/
def Port.inOrder (x : Port) (f : Flit) : Bool := f.seq = x.rxSeq + 1

/-- A sequenced flit that passed its CRC: in order its link fields act, and an acknowledgement is due; out of order it is discarded
(R254, R255, R267). -/
def State.accept (s : State) (p : Nat) (f : Flit) (n : Nat := 1) : State :=
  let x := s.port p
  let vc := f.vc.toNat
  if x.inOrder f then
    let t := s.linkFields p f n
    let y := t.port p
    t.setPort p { y with rxSeq := x.rxSeq + BitVec.ofNat 12 n, discarding := false, ackDue := true, rxCredits := setCredit y.rxCredits vc (y.rxCredits.getD vc 0 - n) }
  else s.setPort p { x with ctrs := { x.ctrs with rxflits := satAdd x.ctrs.rxflits n, feccorr := satAdd x.ctrs.feccorr f.fec, crcerr := satAdd x.ctrs.crcerr n } }

/-- Count a flit discarded by R253 or R279. -/
def State.protErr (s : State) (p : Nat) : State :=
  let x := s.port p
  s.setPort p { x with ctrs := { x.ctrs with proterr := satAdd x.ctrs.proterr 1 } }

/-- Receive a flit on a trained link and, if it is in order, of a kind on its VC and one that the entry carries, act on it; what acts on it says
when it leaves the receive buffer (R247, R250, R253 to R255, R267). `ok`: the kind is on its VC; `n`: the flits of its message. -/
def State.receive (s : State) (p : Nat) (f : Flit) (k : State → State) (ok : Bool := f.kindOk) (n : Nat := 1) : State :=
  let x := s.port p
  if !x.nbr.trained then s
  else
    let t := s.accept p f n
    if !x.inOrder f then t
    else if !ok then ((t.protErr p).owe p f.vc.toNat n).flushAck p
    else if !x.nbr.carries f then (t.owe p f.vc.toNat n).flushAck p
    else (k t).flushAck p

/-- Receive a flit that ends at the module. -/
def State.consume (s : State) (p : Nat) (f : Flit) (k : State → State) : State := s.receive p f (fun t => k (t.owe p f.vc.toNat))

/-- The port and flit that a command brings. -/
def flitOf : Instr → Option (Nat × Flit)
  | .probe p f _ | .probeReply p f _ | .heartbeat p f | .null p f | .switchRoute p f | .memWrite p f _ | .memRead p f _ | .memData p f _ | .resp p f _
  | .redscatterData p f _ _ | .allgatherData p f _ _ | .alltoallData p f _ _ | .segGrant p f _ | .arrive p f _ | .release p f _ | .poll p f _ | .pollAns p f _
  | .abort p f _ | .cmdFlit p f | .reservedKindFlit p f => some (p.val, f)
  | _ => none

/-! ## The switch (R261 to R264, R248) -/

/-- A source route (R263): hop count minus 1, and hop `k`. -/
def routeCount (f : Flit) : Nat := bits (fieldAt f.payload 0 8) 50 48
def routeHop (f : Flit) (k : Nat) : Nat := bits (fieldAt f.payload 0 8) (6 * k + 5) (6 * k)

/-- Count a discard at a port's ingress, and tell the source (R261, R263, R264). -/
def State.dropUnreach (s : State) (p : Nat) (f : Flit) : State :=
  let x := s.port p
  ((s.setPort p { x with ctrs := { x.ctrs with unreach := satAdd x.ctrs.unreach 1 } }).owe p f.vc.toNat).unreach p f

/-- Where the collective header of a first flit begins: after any source route (R278). -/
def collOff (f : Flit) : Nat := if f.sr then 8 else 0
/-- The WIRE and OP of a collective flit's header (Table 09-8). -/
def collWire (f : Flit) : Nat := bits (fieldAt f.payload (collOff f) 32) 167 164
def collOp (f : Flit) : Nat := bits (fieldAt f.payload (collOff f) 32) 191 184

/-- CLK, ARRIVAL, NTHR and LATERANK zero, as a 1.2 link sends them (R248). -/
def hdrOn12 (h : CollHdr) : CollHdr := { h with clk := 0, arrival := 0, nthr := 0, laterank := 0 }
/-- The same in the first flit of a message that passes through. -/
def flitOn12 (f : Flit) : Flit :=
  let o := collOff f
  let h := fieldAt f.payload o 32
  let z := pack [(164, 92, bits h 255 164), (160, 2, bits h 161 160), (128, 32, bits h 159 128), (0, 32, bits h 31 0)]
  { f with payload := (f.payload.take o ++ bytesLE 32 z ++ f.payload.drop (o + 32)).take f.payload.length }

/-- A collective data flit on its way in: whether it is the first of its message, whose TAG its source has not just used, and whether the
message is E5M2 data (R248, R253, R278). -/
def Port.collFlit (x : Port) (f : Flit) : Bool × Bool :=
  match tget none x.collMsg f.src.toNat with
  | some (tag, e5m2) => if tag = f.tag then (false, e5m2) else (true, collWire f = 0 && 1 ≤ collOp f && collOp f ≤ 3)
  | none => (true, collWire f = 0 && 1 ≤ collOp f && collOp f ≤ 3)

/-- Send a flit out of port `e`, unless an Abond 1.2 link may not carry it (R248). -/
def State.forward (s : State) (p e : Nat) (f : Flit) : State :=
  let x := s.port p
  let (first, e5m2) := x.collFlit f
  let data := f.kind = 9 && f.vc = 3
  let s := if data then s.setPort p { x with collMsg := tset none x.collMsg f.src.toNat (some (f.tag, e5m2)) } else s
  if !(s.port e).nbr.carries f then s.dropUnreach p f
  else if (s.port e).nbr.ver = 1 && data && e5m2 then
    let x := s.port e
    ((s.setPort e { x with ctrs := { x.ctrs with verdrop := satAdd x.ctrs.verdrop 1 } }).owe p f.vc.toNat).unreach p f 0x10
  else s.queueFlit e (if (s.port e).nbr.ver = 1 && f.kind = 9 && (first || f.vc = 0) then flitOn12 f else f) (some p)

/-- A flit is for the module itself by rule 2 of R261, or by the end of its source route (R263). -/
def State.forUs (s : State) (f : Flit) : Bool :=
  if f.sr then
    routeCount f < f.hop.toNat && ((s.ab.fidValid && f.dst = s.ab.fid) || f.kind = 2 || f.kind = 3)
  else s.ab.fidValid && f.dst = s.ab.fid

/-- Switch a flit that is not for the module (R249, R261, R263, R264). -/
def State.switchFlit (s : State) (p : Nat) (f : Flit) : State :=
  if !s.ab.fidValid && !linkControl f then (s.owe p f.vc.toNat).unreach p f
  else if f.sr then
    if routeCount f < f.hop.toNat then s.dropUnreach p f else s.forward p (routeHop f f.hop.toNat) { f with hop := f.hop + 1 }
  else if f.ttl = 0 then
    let x := s.port p
    (((s.setPort p { x with ctrs := { x.ctrs with ttldrop := satAdd x.ctrs.ttldrop 1 } }).linkRecord 2 p f).owe p f.vc.toNat).unreach p f
  else match s.egressOf f.dst with
    | some e => s.forward p e { f with ttl := f.ttl - 1 }
    | none => s.dropUnreach p f

/-- The flits of a message: consecutive ones of at most 232 bytes each with the same TAG (R253). -/
def msgFlits (f : Flit) (body : List Byte) : List Flit :=
  if body.length ≤ 232 then [f] else (chunk232 (body.length / 232 + 1) body).map (fun b => { f with payload := b })

/-- A collective operation travels on the VC of Table 09-5: POLL and POLL_ANS on VC 0, the others on VC 3. -/
def collVcOk (f : Flit) (op : Nat) : Bool := (f.vc = 0) = decide (op = 6 ∨ op = 7)

/-- A flit is of a kind on its VC, a collective's by the OP of its first flit (R253, Table 09-5). -/
def Port.kindOk (x : Port) (f : Flit) : Bool := f.kindOk && (f.kind != 9 || !((x.collFlit f).1 || f.vc = 0) || collVcOk f (collOp f))

/-- Receive a message of traffic: act on it if it is for the module and the link carries it, else switch its flits. `body`: its bytes, which
are reassembled from its flits (R253). -/
def State.deliver (s : State) (p : Nat) (f : Flit) (k : State → State) (body : List Byte := []) (ok : Bool := f.kindOk) : State :=
  let fs := msgFlits f body
  s.receive p f (fun t => if t.forUs f then k (t.owe p f.vc.toNat fs.length) else fs.foldl (fun t g => t.switchFlit p g) t) ok fs.length

/-! ## Register writes of the Abond window (R280, R299) -/

/-- A host write that ownership guards: discarded and counted in NOTOWNER unless the host is the owner (R299); refused while the link stream is
insecure (R295). -/
def State.guarded (s : State) (k : State → State) : State :=
  if !s.ioOpen then s
  else if s.ck.owner = .host then k s else { s with hp := { s.hp with notOwner := satAdd s.hp.notOwner 1 } }

/-- The counters of a cleared block: those with an event latched on the clearing edge read 1, by the order of Tables 09-14 and 09-15
(R10, R280). -/
def LinkCtrs.cleared (ev : List Nat) : LinkCtrs :=
  let one := fun (k : Nat) => if ev.contains k then 1 else 0
  { txflits := BitVec.ofNat 64 (one 0), rxflits := BitVec.ofNat 64 (one 1), feccorr := BitVec.ofNat 64 (one 2), crcerr := BitVec.ofNat 32 (one 3), retries := BitVec.ofNat 32 (one 4)
    peerlost := BitVec.ofNat 16 (one 5), parks := BitVec.ofNat 16 (one 6), transitdrop := BitVec.ofNat 32 (one 7), ttldrop := BitVec.ofNat 32 (one 8), unreach := BitVec.ofNat 32 (one 9)
    verdrop := BitVec.ofNat 16 (one 10), proterr := BitVec.ofNat 16 (one 11) }
def EngineCtrs.cleared (ev : List Nat) : EngineCtrs :=
  let one := fun (k : Nat) => if ev.contains k then 1 else 0
  { elems := BitVec.ofNat 64 (one 0), contribs := BitVec.ofNat 64 (one 1), nonfinite := BitVec.ofNat 64 (one 2), saturated := BitVec.ofNat 64 (one 3), flushedIn := BitVec.ofNat 64 (one 4)
    flushedOut := BitVec.ofNat 64 (one 5), zeroed := BitVec.ofNat 32 (one 6), slotwait := BitVec.ofNat 32 (one 7) }

/-- Clear a port's link counters and its die's engine counters (R280). -/
def State.clearPortCounters (s : State) (p : Nat) (ev engineEv : List Nat) : State :=
  let t := s.setPort p { s.port p with ctrs := .cleared ev }
  t.setEngine (p / 16) { t.engine (p / 16) with ctrs := .cleared engineEv }

/-- RETRAIN: DOWN at once, then training again (R246, R247, Table 09-9). -/
def State.retrainPort (s : State) (p : Nat) : State :=
  let t := s.portDown p none
  if t.portCanTrain p then t.startTraining p else t

/-- A write of port control (Table 09-9). A port that waits after a failed step goes on waiting (R246). -/
def State.writePortControl (s : State) (p : Nat) (v : Nat) : State :=
  let x := s.port p
  let t := s.setPort p { x with parkIdle := BitVec.ofNat 16 (bits v 31 16), parkEn := bit v 2, maxRate := bit v 1, enable := bit v 0 }
  let t := if bit v 4 then t.clearPortCounters p [] [] else t
  if bit v 3 then t.retrainPort p
  else if !bit v 0 then (if x.nbr.state = .down then t else t.portDown p none)
  else if ((x.nbr.state = .down && x.retryAt.isNone) || x.nbr.state = .incompatible) && t.portCanTrain p then t.startTraining p
  else t

def execPortEnableWrite (v : U32) (s : State) : Host.Outcome State Fault Refusal :=
  .next (s.guarded (fun t => t.writePortControl t.ab.portSel.toNat v.toNat))

def execRetrain (s : State) : Host.Outcome State Fault Refusal :=
  .next (s.guarded (fun t => t.retrainPort t.ab.portSel.toNat))

def execPortClrcnt (s : State) (ev : List Nat := []) (engineEv : List Nat := []) : Host.Outcome State Fault Refusal :=
  .next (s.guarded (fun t => t.clearPortCounters t.ab.portSel.toNat ev engineEv))

/-- The counter blocks as last copied (Tables 09-14, 09-15). -/
def Port.block (x : Port) : Nat :=
  let c := x.copy
  pack [(448, 64, c.txflits.toNat), (384, 64, c.rxflits.toNat), (320, 64, c.feccorr.toNat), (288, 32, c.crcerr.toNat), (256, 32, c.retries.toNat), (240, 16, c.peerlost.toNat),
    (224, 16, c.parks.toNat), (192, 32, c.transitdrop.toNat), (160, 32, c.ttldrop.toNat), (128, 32, c.unreach.toNat), (112, 16, c.verdrop.toNat), (96, 16, c.proterr.toNat), (0, 64, x.snap.toNat)]
def Engine.block (x : Engine) : Nat :=
  let c := x.copy
  pack [(448, 64, c.elems.toNat), (384, 64, c.contribs.toNat), (320, 64, c.nonfinite.toNat), (256, 64, c.saturated.toNat), (192, 64, c.flushedIn.toNat), (128, 64, c.flushedOut.toNat),
    (96, 32, c.zeroed.toNat), (64, 32, c.slotwait.toNat), (0, 64, x.snap.toNat)]

/-- A word of a counter block: a read of the first one copies the whole block (R280). -/
def State.readLinkCtrs (s : State) (word : Nat) : Nat × State :=
  let p := s.ab.portSel.toNat
  let t := if word = 0 then s.setPort p { s.port p with copy := (s.port p).ctrs, snap := s.clk.time } else s
  (bits (t.port p).block (32 * word + 31) (32 * word), t)
def State.readEngineCtrs (s : State) (word : Nat) : Nat × State :=
  let d := s.ab.engSel.toNat
  let t := if word = 0 then s.setEngine d { s.engine d with copy := (s.engine d).ctrs, snap := s.clk.time } else s
  (bits (t.engine d).block (32 * word + 31) (32 * word), t)

def execLinkCounterRead (s : State) (word : Fin 16 := 0) : Host.Outcome State Fault Refusal :=
  .next (s.viaIo (fun s => let (v, t) := s.readLinkCtrs word.val; t.answer 4 v))

def execEngineCounterRead (s : State) (word : Fin 16 := 0) : Host.Outcome State Fault Refusal :=
  .next (s.viaIo (fun s => let (v, t) := s.readEngineCtrs word.val; t.answer 4 v))

/-- STATE of a neighbour entry (Table 09-10). -/
def NbrState.code : NbrState → Nat
  | .down => 0 | .training => 1 | .up => 2 | .lost => 3 | .conflict => 4 | .incompatible => 5 | .nofid => 6
/-- A neighbour entry's 128 bits. -/
def Nbr.toNat (n : Nbr) : Nat :=
  pack [(64, 64, n.id.toNat), (48, 16, n.fid.toNat), (42, 6, n.port.toNat), (36, 4, n.state.code), (32, 4, n.width.toNat), (30, 2, n.rate.toNat), (28, 2, n.ver.toNat),
    (27, 1, b1 n.parkTx), (26, 1, b1 n.parkRx), (25, 1, b1 n.rev), (0, 24, n.changes.toNat)]

/-- A word of the Abond window (Tables 09-7, 09-9, 09-13). -/
def State.readAbond (s : State) (off : Nat) : Nat × State :=
  let x := s.port s.ab.portSel.toNat
  if 0x140 ≤ off && off < 0x180 then s.readLinkCtrs ((off - 0x140) / 4)
  else if 0x180 ≤ off && off < 0x1C0 then s.readEngineCtrs ((off - 0x180) / 4)
  else
    (if off = 0 then pack [(31, 1, b1 s.ab.fidValid), (16, 10, s.ab.pollInt.toNat), (0, 16, s.ab.fid.toNat)]
    else if off = 4 then pack [(2, 1, b1 s.ab.fidConf), (1, 1, b1 s.ab.nbrChg)]
    else if off = 8 then s.ab.portSel.toNat
    else if off = 0xC then s.ab.rtIndex.toNat
    else if off = 0x10 then (tget (0 : U16) s.ab.rt s.ab.rtIndex.toNat).toNat
    else if off = 0x14 then s.ab.engSel.toNat
    else if 0x100 ≤ off && off < 0x110 then bits x.nbr.toNat (8 * (off - 0x100) + 31) (8 * (off - 0x100))
    else if off = 0x110 then pack [(16, 16, x.parkIdle.toNat), (2, 1, b1 x.parkEn), (1, 1, b1 x.maxRate), (0, 1, b1 x.enable)]
    else 0, s)

/-- ABOND_CTRL: FID and FIDVALID take effect at once, and every UP port sends a PROBE (R249), as do those in CONFLICT and NOFID, which carry
PROBE flits (R250). -/
def execFidWrite (v : U32) (s : State) : Host.Outcome State Fault Refusal :=
  .next (s.guarded (fun t =>
    let t := { t with ab := { t.ab with fid := BitVec.ofNat 16 (bits v.toNat 15 0), fidValid := v.getLsbD 31, pollInt := BitVec.ofNat 10 (bits v.toNat 25 16) } }
    ((List.range 64).filter (fun p => (t.port p).nbr.trained)).foldl (fun t p => t.sendProbe p) t))

/-- RT_DATA: the entry that RT_INDEX names, in all four slices (R262, Table 09-11). -/
def execRtDataWrite (v : U32) (s : State) : Host.Outcome State Fault Refusal :=
  .next (s.guarded (fun t => { t with ab := { t.ab with rt := tset 0 t.ab.rt t.ab.rtIndex.toNat (BitVec.ofNat 16 (v.toNat % 65536 &&& 0xFF3F)) } }))

/-! ## Training (R243 to R247, R477) -/

/-- The widest of 8, 4, 2, 1 lanes for which lanes 0 to w − 1 pass (R244); 0: none. -/
def widest (pass : Byte) : Nat :=
  let p := pass.toNat
  if p % 256 = 255 then 8 else if p % 16 = 15 then 4 else if p % 4 = 3 then 2 else if p % 2 = 1 then 1 else 0

/-- The entry a PROBE_REPLY gives (R250). -/
def State.nbrOfReply (s : State) (n : Nbr) (m : Probe) : Nbr :=
  let n := { n with id := m.modid, fid := m.fid, port := m.port }
  if s.ab.fidValid && m.fidValid && m.fid = s.ab.fid then { n with state := .conflict }
  else if !m.fidValid then { n with state := .nofid }
  else { n with state := .up }

/-- Enter what a reply says; a conflict sets FIDCONF (R250). -/
def State.applyReply (s : State) (p : Nat) (m : Probe) : State :=
  let n := s.nbrOfReply (s.port p).nbr m
  let t := (s.setNbr p n).drain p
  if n.state = .conflict then t.abondEvent true else t

/-- A failed step returns the port to DOWN, to train again after 100 ms (R246). -/
def State.trainFail (s : State) (p : Nat) : State := s.portDown p (some (s.now + 100000000))

/-- One attempt of the sequence of Table 09-2. The module's own credits are advertised in step 5 (R267), its PROBE sent in step 6. -/
def State.train (s : State) (p : Nat) (r : TrainResult) : State :=
  let x := s.port p
  let w128 := if r.offers128 && !x.maxRate then widest r.pass128 else 0
  let w := if w128 = 0 then widest r.pass64 else w128
  let ver : Nat := if r.vmask.getLsbD 1 then 2 else if r.vmask.getLsbD 0 then 1 else 0
  if !r.present || w = 0 || !r.locked || 200 < r.ppm then s.trainFail p
  else
    let n := { x.nbr with width := BitVec.ofNat 4 w, rate := if w128 = 0 then 1 else 0, ver := BitVec.ofNat 2 ver, rev := r.reversed, parkTx := false, parkRx := false }
    if ver = 0 then s.setNbr p { n with state := .incompatible }
    else
      let t := s.setPort p { x with nbr := { x.nbr with state := .training }, txSeq := 0, rxSeq := 0xFFF, unacked := [], egress := [], credits := r.credits, rxCredits := [512, 4096, 8192, 13824], owed := [], ackDue := false, nakDue := false, resend := []
                                    lastCtl := none, collMsg := [], discarding := false, lastSeqSent := s.now, lastTraffic := s.now, retryAt := none }
      let t := t.sendProbe p
      let t := t.setPort p { t.port p with probeSent := none }
      let t := t.setNbr p (t.nbrOfReply { n with id := 0 } r.reply)
      if (t.port p).nbr.state = .conflict then t.abondEvent true else t

/-- Latest times of the steps of Table 09-2, in ns. -/
def stepLatest (k : Nat) : Nat := [1000000, 21000000, 21100000, 21200000, 21300000, 21400000].getD k 21400000

def execTraining (p : Idx64) (r : TrainResult) (s : State) : Host.Outcome State Fault Refusal :=
  let x := s.port p.val
  .next (if !s.portCanTrain p.val then s
    else if x.nbr.state = .down && x.retryAt.isNone then s.train p.val r
    else if x.nbr.state = .training then (if s.reached (x.trainingSince + stepLatest 5 + 1) then s.trainFail p.val else s.train p.val r)
    else s)

/-- A training port one of whose steps has passed its latest time returns to DOWN, unless its end is latched on that edge (R31, R246). -/
def execTrainingTimeout (p : Idx64) (s : State) (step : Fin 6 := 0) : Host.Outcome State Fault Refusal :=
  let x := s.port p.val
  .next (if x.nbr.state = .training && s.reached (x.trainingSince + stepLatest step.val) && !s.latched (fun i => match i with | .training q _ => q = p | _ => false)
    then s.trainFail p.val else s)

def execTrainingRetry (p : Idx64) (s : State) : Host.Outcome State Fault Refusal :=
  let x := s.port p.val
  .next (if x.nbr.state = .down && s.portCanTrain p.val && (match x.retryAt with | some t => s.reached t | none => false) then s.startTraining p.val else s)

def execLostRetrain (p : Idx64) (s : State) : Host.Outcome State Fault Refusal :=
  let x := s.port p.val
  .next (if x.nbr.state = .lost && s.portCanTrain p.val && (match x.retryAt with | some t => s.reached t | none => true) then s.startTraining p.val else s)

/-! ## PROBE (R250, R251) -/

def execProbeTimer (p : Idx64) (s : State) : Host.Outcome State Fault Refusal :=
  .next (if s.portUp p.val && s.reached ((s.port p.val).lastProbe + 1000000) then s.sendProbe p.val else s)

def execProbeRetry (p : Idx64) (s : State) : Host.Outcome State Fault Refusal :=
  .next (match (s.port p.val).probeSent with
    | some t => if s.reached (t + 10000) && !s.latched (fun i => match i with | .probeReply q _ _ => q = p | _ => false) then s.sendProbe p.val else s
    | none => s)

/-- The first 8 bytes of a source-routed payload (R263). -/
def routeBytes (hops : List (BitVec 6)) : List Byte := bytesLE 8 (pack ((48, 3, hops.length - 1) :: hops.mapIdx (fun k h => (6 * k, 6, h.toNat))))

/-- Answer a PROBE on the port it came by. One that came by source route is answered along its return list reversed: out of the port it came by,
then by the ports on which the modules it passed received it (R250, R251, R261 rule 1, R263). -/
def State.answerProbe (s : State) (p : Nat) (f : Flit) (m : Probe) : State :=
  let g : Flit := { kind := 3, vc := 0, src := s.ab.fid, dst := f.src, tag := f.tag }
  let g := if f.sr then { g with sr := true, hop := 1, payload := routeBytes (BitVec.ofNat 6 p :: m.ret.reverse) } else g
  (s.queueFlit p g).emit (.probe p true (s.ownProbe p (if f.sr then m.ret.reverse else [])))

/-- Pass a PROBE or PROBE_REPLY on along its source route; the port on which a PROBE came is appended to its return list (R251, R263). -/
def State.passProbe (s : State) (p : Nat) (f : Flit) (m : Probe) (reply : Bool) : State :=
  let e := routeHop f f.hop.toNat
  let t := s.forward p e { f with hop := f.hop + 1 }
  if (s.port e).nbr.carries f then t.emit (.probe e reply (if reply then m else { m with ret := m.ret ++ [BitVec.ofNat 6 p] })) else t

def execProbe (p : Idx64) (f : Flit) (m : Probe) (s : State) : Host.Outcome State Fault Refusal :=
  .next (s.receive p.val f (fun t =>
    if f.sr && f.hop.toNat ≤ routeCount f then t.passProbe p.val f m false else (t.owe p.val 0).answerProbe p.val f m))

def execProbeReply (p : Idx64) (f : Flit) (m : Probe) (s : State) : Host.Outcome State Fault Refusal :=
  .next (s.receive p.val f (fun t =>
    if f.sr && f.hop.toNat ≤ routeCount f then t.passProbe p.val f m true
    else
      let t := t.owe p.val 0
      let x := t.port p.val
      if f.sr then t
      else
        let t := t.setPort p.val { x with probeSent := none }
        if x.nbr.state = .up && x.nbr.id != m.modid then t.loseNeighbour p.val else t.applyReply p.val m))

/-! ## Liveness, discards and parking (R254 to R259) -/

/-- A HEARTBEAT, 1 µs after the last sequenced flit; before that, what acknowledgement is still due (R255, R257). -/
def execHeartbeatSend (p : Idx64) (s : State) : Host.Outcome State Fault Refusal :=
  .next (if !s.portUp p.val then s
    else if s.reached ((s.port p.val).lastSeqSent + 1000) then s.queueFlit p.val { kind := 1, vc := 0, src := s.ab.fid }
    else (s.drain p.val).flushAck p.val)

def execHeartbeat (p : Idx64) (f : Flit) (s : State) : Host.Outcome State Fault Refusal :=
  .next (s.consume p.val f id)

def execNull (p : Idx64) (f : Flit) (s : State) : Host.Outcome State Fault Refusal :=
  .next (if !(s.port p.val).nbr.trained then s
    else let t := s.linkFields p.val f; if f.kindOk then t else t.protErr p.val)

/-- A flit that fails its codeword or CRC: counted, later flits discarded until the resent one, and a NAK is due, by a NULL where R256 allows one,
else in the next flit (R254 to R256). -/
def execFlitDiscard (p : Idx64) (s : State) (fec : Nat := 0) : Host.Outcome State Fault Refusal :=
  let x := s.port p.val
  .next (if !x.nbr.trained then s
    else (s.setPort p.val { x with discarding := true, nakDue := true, ctrs := { x.ctrs with feccorr := satAdd x.ctrs.feccorr fec, crcerr := satAdd x.ctrs.crcerr 1 } }).flushAck p.val)

/-- R253: a reserved KIND or a wrong VC: discarded, counted in PROTERR, acknowledged. -/
def execReservedKindFlit (p : Idx64) (f : Flit) (s : State) : Host.Outcome State Fault Refusal :=
  .next (s.consume p.val f id)

/-- The oldest unacknowledged flit has reached 4 µs (R257). -/
def State.ackOverdue (s : State) (p : Nat) : Bool := match (s.port p).unacked with | (_, t) :: _ => s.reached (t + 4000) | [] => false

/-- An acknowledgement of it is latched on the same edge (R31, Example 01-1). -/
def State.ackLatched (s : State) (p : Nat) : Bool :=
  let us := (s.port p).unacked
  s.latched (fun i => match flitOf i with | some (q, f) => q = p && (ackUnacked us f.ack).length < us.length | none => false)

def execNeighbourLost (p : Idx64) (s : State) : Host.Outcome State Fault Refusal :=
  .next (if (s.port p.val).nbr.trained && s.ackOverdue p.val && !s.ackLatched p.val then s.loseNeighbour p.val else s)

/-- PARKIDLE with its limits, in ns (Table 09-9). -/
def Port.parkNs (x : Port) : Nat := 1000 * min 1000 (max 5 x.parkIdle.toNat)

/-- A traffic flit has been queued since the port parked: full width again, with a NULL that says so where R256 allows one; else the next flit does
(R259). -/
def execUnpark (p : Idx64) (s : State) : Host.Outcome State Fault Refusal :=
  let x := s.port p.val
  .next (if x.nbr.parkTx && (x.trafficWaits || x.parkedAt < x.lastTraffic) then
      let t := s.setPort p.val { x with nbr := { x.nbr with parkTx := false } }
      if s.mayCtl p.val then t.sendNull p.val else t
    else s)

def execSwitchRoute (p : Idx64) (f : Flit) (s : State) : Host.Outcome State Fault Refusal :=
  .next (s.deliver p.val f id (ok := (s.port p.val).kindOk f))

/-- Flits held over 1 ms in the module's receive buffers for egress credits are discarded, unless a credit is latched on the edge (R31, R264). -/
def execTransitTimeout (p : Idx64) (s : State) : Host.Outcome State Fault Refusal :=
  let x := s.port p.val
  let late := fun (q : Queued) => q.ingress.isSome && s.reached (q.since + 1000001)
  let old := x.egress.filter late
  .next (if s.latched (fun i => match flitOf i with | some (q, f) => q = p.val && 0 < f.crcnt.toNat | none => false) then s
    else
      let t := s.setPort p.val { x with egress := x.egress.filter (fun q => !late q), ctrs := { x.ctrs with transitdrop := satAdd x.ctrs.transitdrop old.length } }
      old.foldl (fun t q =>
        let t := match q.ingress with | some i => (t.owe i q.flit.vc.toNat).flushAck i | none => t
        (t.linkRecord 2 p.val q.flit).unreach p.val q.flit) t)

end Sys2Proof.Machine
end

