-- ==== Sys2Proof/Machine/DataMove.lean ====
section
/-! DEFINITION. Data movement (WINDOW_SET, MOVE, GATHER, SCATTER: R207 to R210, R226) and memory accesses over the fabric
(R206, R253, R264). -/

namespace Sys2Proof.Machine

/-! ## Global addresses (R206) -/

/-- A global address names local memory: its identifier equals FID, whatever FIDVALID holds. -/
def State.localGa (s : State) (ga : Nat) : Bool := ga / 2 ^ 48 = s.ab.fid.toNat
/-- Its module physical address. -/
def gaAddr (ga : Nat) : Nat := ga % 2 ^ 48

/-- The bytes of a memory request (log 21). -/
def memBody (addr len : Nat) (data : List Byte) : List Byte := bytesLE 6 addr ++ bytesLE 4 len ++ data

/-- Send a request of a command to a peer's memory; the command fails at once where no flit can carry it (R206, R249). -/
def State.memRequest (s : State) (x : Cmd) (ga len : Nat) (data : Option (List Byte)) (dst : Nat) : State :=
  let tag := s.ab.nextTag
  let t := { s with ab := { s.ab with nextTag := tag + 1 } }
  let f := BitVec.ofNat 16 (ga / 2 ^ 48)
  let body := memBody (gaAddr ga) len (data.getD [])
  match t.sendMsg (if data.isSome then 4 else 5) 1 f x.hdr.stall tag body (.memReq f tag data.isSome (gaAddr ga) len (data.getD [])) with
  | some (p, u) => { u with ab := { u.ab with xfers := u.ab.xfers ++ [⟨tag, f, some p, x.no, data.isNone, dst, len⟩] } }
  | none => t.endCmd x.no 0x41 0xFFFF

/-- A command whose accesses over the fabric have all been answered is done. -/
def State.xferCheck (s : State) (c : CmdNo) : State :=
  match s.cmd c with
  | some x => if x.phase = .working && ((0x0201 ≤ x.op && x.op ≤ 0x0203) || x.op = 0x0B03) && !s.ab.xfers.any (fun y => y.cmd = c) then s.doneCmd c else s
  | none => s

/-! ## Copies (R226) -/

/-- Bytes copied: a byte that lies among those which another piece of the command writes at the same time is free (log 29). -/
def State.copied (s : State) : (bs : List Byte) → (a : Nat) → (own : Nat → Bool) → List Byte
  | [], _, _ => []
  | b :: bs, a, own => (if own a then BitVec.ofNat 8 (Config.free s.freeCtr 8 a) else b) :: s.copied bs (a + 1) own

/-- Spans of a copy of `n` bytes in pieces aligned to 4 KiB in the source: (offset, length). -/
def pieces (src : Nat) : (fuel off n : Nat) → List (Nat × Nat)
  | 0, _, _ => []
  | k + 1, off, n =>
    if n = 0 then []
    else let l := min n (4096 - (src + off) % 4096); (off, l) :: pieces src k (off + l) (n - l)

/-- Two pieces run one after the other: on one bay, pieces being given to the bays in turn (R226). -/
def Cmd.sameBay (x : Cmd) (j k : Nat) : Bool := let n := (maskBits x.bays.toNat 64).length; j % max n 1 = k % max n 1

/-- One piece of a MOVE within the module: it begins with its reads and ends with its writes. -/
def State.movePiece (s : State) (x : Cmd) (ps : List (Nat × Nat)) (k a d : Nat) : State :=
  let p := ps.getD k (0, 0)
  let own := fun (i : Nat) => (List.range ps.length).any (fun j => let q := ps.getD j (0, 0); !x.sameBay j k && d + q.1 ≤ i && i < d + q.1 + q.2)
  s.put x.no (d + p.1) (s.copied (s.readBytes (a + p.1) p.2) (a + p.1) own)

def execMove (c : CmdNo) (s : State) : Host.Outcome State Fault Refusal :=
  .next (match s.begins c 0x0201 with
    | none => s.stopped c 0x0201
    | some x => if s.noBay x then s else
      let src := x.p 0 8
      let dst := x.p 8 8
      let len := x.p 16 8
      let ps := pieces src len 0 len
      let s := s.workOn c
      if !s.localGa src then (ps.foldl (fun t p => t.memRequest x (src + p.1) p.2 none (if x.p 24 1 = 1 then dst + p.1 else gaAddr dst + p.1)) s).xferCheck c
      else
        let a := gaAddr src
        let bs := s.readBytes a len
        if x.p 24 1 = 1 then (s.storeHost dst bs).doneCmd c
        else if s.localGa dst then
          let t := (List.range ps.length).foldl (fun t k => t.movePiece x ps k a (gaAddr dst)) s
          ({ t with freeCtr := t.freeCtr + 1 } : State).doneCmd c
        else (ps.foldl (fun t p => t.memRequest x (dst + p.1) p.2 (some ((bs.drop p.1).take p.2)) 0) s).xferCheck c)

/-- Index `k` of a list of 32-bit indices. -/
def State.indexAt (s : State) (a k : Nat) : Nat := s.readNat (a + 4 * k) 4

/-- A GATHER of local memory: DST + k × ESIZE receives SRC + idx[k] × ESIZE, each bay running its elements in order (R226). The first
element that fails stops it; the line of the output that it shares with an element written before is left unchanged (R213). -/
def State.gatherLocal (s : State) (x : Cmd) (addrs : List Nat) : State :=
  let e := x.p 28 4
  let d := x.addr 8
  let n := addrs.length
  let bad := (List.range n).find? (fun k => (s.badElem x true false (addrs.getD k 0) e).isSome)
  let own := fun (k i : Nat) => d ≤ i && i < d + n * e && !x.sameBay ((i - d) / max e 1) k
  let made := (List.range (bad.getD n)).foldl (fun t k => t.store (d + k * e) (t.copied (t.readBytes (addrs.getD k 0) e) (addrs.getD k 0) (own k))) s
  let bs := made.readBytes d (bad.getD n * e)
  let t := { s with freeCtr := s.freeCtr + 1 }
  match bad.bind (fun k => s.badElem x true false (addrs.getD k 0) e) with
  | none => t.put x.no d bs
  | some b => (t.put x.no d (bs.take ((d + bs.length) / 64 * 64 - d))).failAccess x.wins x b

def execGather (c : CmdNo) (s : State) : Host.Outcome State Fault Refusal :=
  .next (match s.running c 0x0202 with
    | none => s
    | some x =>
      if s.noBay x then s
      else
        let n := x.p 24 4
        let e := x.p 28 4
        let src := fun (k : Nat) => x.p 0 8 + s.indexAt (x.addr 16) k * e
        let t := s.workOn c
        t.checked x true false (x.addr 16) (4 * n) (fun t => t.checked x false true (x.addr 8) (n * e) (fun t =>
        let t := if s.localGa (x.p 0 8) then t.gatherLocal x ((List.range n).map (fun k => gaAddr (x.p 0 8) + s.indexAt (x.addr 16) k * e))
          else (List.range n).foldl (fun t k => t.checked x false true (x.addr 8 + k * e) e (fun t => t.memRequest x (src k) e none (x.addr 8 + k * e))) t
        t.xferCheck c)))

/-- One element of a SCATTER: DST + idx[k] × ESIZE receives SRC + k × ESIZE. `ds`: where the elements go, in local memory. A byte of the
source is free that an element writes which runs at the same time: neither on the same bay nor to an overlapping destination. -/
def State.scatterOne (s : State) (x : Cmd) (i k : Nat) (ds : List Nat) : State :=
  let e := x.p 28 4
  let ga := x.p 8 8 + i * e
  let src := x.addr 0 + k * e
  let at_ := gaAddr (x.p 8 8) + i * e
  let own := fun (b : Nat) => (List.range ds.length).any (fun j => let d := ds.getD j 0; d ≤ b && b < d + e && !x.sameBay j k && !overlaps d e at_ e)
  let bs := s.copied (s.readBytes src e) src own
  if s.localGa (x.p 8 8) then s.checked x true false src e (fun t => t.checked x false true at_ e (fun t => t.put x.no at_ bs))
  else s.checked x true false src e (fun t => t.memRequest x ga e (some bs) 0)

def execScatter (c : CmdNo) (s : State) : Host.Outcome State Fault Refusal :=
  .next (match s.running c 0x0203 with
    | none => s
    | some x => if s.noBay x then s else
      let n := x.p 24 4
      let e := x.p 28 4
      let ds := if s.localGa (x.p 8 8) then (List.range n).map (fun k => gaAddr (x.p 8 8) + s.indexAt (x.addr 16) k * e) else []
      (s.workOn c).checked x true false (x.addr 16) (4 * n) (fun t =>
        let t := (List.range n).foldl (fun t k => t.scatterOne x (s.indexAt (x.addr 16) k) k ds) t
        { t with freeCtr := t.freeCtr + 1 }.xferCheck c))

/-! ## WINDOW_SET (R207, R208, R210) -/

/-- Some earlier-dispatched command of the stall that has not completed relies on the window slot (R210). -/
def State.slotUsed (s : State) (c : CmdNo) (k slot : Nat) : Bool :=
  s.ck.cmds.any (fun x => x.no != c && x.stallNo = k && x.disp && x.slots.contains slot)

/-- An entry with VALID clear empties its slot. The command completes once nothing relies on the slot. -/
def execWindowSet (c : CmdNo) (s : State) : Host.Outcome State Fault Refusal :=
  .next (match s.running c 0x0104 with
    | none => s
    | some x =>
      let k := x.p 0 1
      if s.slotUsed c x.stallNo k then s
      else
        let w := Window.ofNat (x.p 16 16)
        let w : Window := if w.valid then w else {}
        let t := if x.stallNo = 0xFF then { s with ck := { s.ck with svc := tset {} s.ck.svc k w } }
          else match s.stall x.stallNo with
            | some st => s.setStall x.stallNo (some { st with windows := tset {} st.windows k w })
            | none => s
        t.doneCmd c)

/-! ## Accesses from peers (R206) -/

/-- The PEER windows of the stall a transfer names. -/
def State.peerWindows (s : State) (stall : Byte) : TMap Window := (s.windowsOf stall.toNat).filter (fun w => w.2.peer)

/-- A peer's write within a window is applied and answered; another is refused. A write that covers a poisoned line in part
fails (R219). -/
def execMemWrite (p : Idx64) (f : Flit) (m : MemMsg) (s : State) : Host.Outcome State Fault Refusal :=
  .next (s.deliver p.val f (fun t =>
    let a := m.addr.toNat
    let n := m.data.length
    if !allowed (t.peerWindows f.stall) false true a n then t.sendResp f.src f.tag false 0x20 0 []
    else if t.partPoisoned a n then t.sendResp f.src f.tag false 0x21 (match stackOf a with | some k => stackCode k | none => 0) []
    else (t.store a m.data).sendResp f.src f.tag false 0 0 []) (memBody m.addr.toNat m.len m.data))

/-- A peer's read within a window is answered with the data; another is refused. -/
def execMemRead (p : Idx64) (f : Flit) (m : MemMsg) (s : State) : Host.Outcome State Fault Refusal :=
  .next (s.deliver p.val f (fun t =>
    let a := m.addr.toNat
    if !allowed (t.peerWindows f.stall) true false a m.len then t.sendResp f.src f.tag false 0x20 0 []
    else if t.poisoned a m.len then t.sendResp f.src f.tag false 0x21 (match stackOf a with | some k => stackCode k | none => 0) []
    else
      let bs := t.readBytes a m.len
      match t.sendMsg 6 2 f.src 0 f.tag bs (.memReq f.src f.tag true a m.len bs) with
      | some (_, u) => u
      | none => t))

/-- Read data reaches the command that asked for it: at its place in memory, or in the command's own buffer for RESTORE. -/
def execMemData (p : Idx64) (f : Flit) (m : MemMsg) (s : State) : Host.Outcome State Fault Refusal :=
  .next (s.deliver p.val f (fun t =>
    match t.ab.xfers.find? (fun y => y.tag = f.tag && y.read && y.peer = f.src) with
    | none => t
    | some y =>
      let u := { t with ab := { t.ab with xfers := t.ab.xfers.erase y } }
      match u.cmd y.cmd with
      | some x =>
        if !x.runs then u
        else if x.op = 0x0B04 then u.onCmd x.no (fun z => { z with result := slice z.result 0 y.dst ++ slice m.data 0 y.len ++ z.result.drop (y.dst + y.len) })
        else if x.op = 0x0201 && x.p 24 1 = 1 then (u.storeHost y.dst (slice m.data 0 y.len)).xferCheck x.no
        else if u.partPoisoned y.dst y.len then u.poisonPart x y.dst y.len
        else (u.put x.no y.dst (slice m.data 0 y.len)).xferCheck x.no
      | none => u) m.data)

/-- A status ends the access of its tag; UNREACH or a refusal fails the command (R206, R248, R264). -/
def execResp (p : Idx64) (f : Flit) (m : RespMsg) (s : State) : Host.Outcome State Fault Refusal :=
  .next (s.deliver p.val f (fun t =>
    if m.unreach then t.failTag f.tag (if m.status = 0x10 then 0x10 else 0x41) (if m.status = 0x10 then 0x0301 else 0xFFFF)
    else
      match t.ab.xfers.find? (fun y => y.tag = f.tag && y.peer = f.src) with
      | none => t
      | some y =>
        if m.status != 0 then t.failTag f.tag m.status m.detail
        else
          let xs := if y.read then t.ab.xfers else t.ab.xfers.erase y
          let u := { t with ab := { t.ab with xfers := xs, colls := t.ab.colls.map (fun (c : Coll) => { c with unackd := c.unackd.erase f.tag }) } }
          match u.ab.colls.find? (fun c => c.cmd = y.cmd) with
          | some cl => if cl.need = [] && cl.toSend = [] && cl.unackd = [] && cl.toWrite = [] then u.doneCmd y.cmd else u
          | none => u.xferCheck y.cmd) m.result)

end Sys2Proof.Machine
end

