-- ==== Sys2Proof/Machine/Formats.lean ====
section
/-! DEFINITION. Number formats (chapter 02): layouts, values of codes, the one rounding rule, encodings written, and the
numerics events of Table 05-4. Values are exact rationals. -/

namespace Sys2Proof

/-- The value a rational stands for, a zero taken as +0. -/
def XVal.ofRat (v : Rat) : XVal := if v = 0 then .zero false else .fin v
/-- Sign of a value, of zeros too. -/
def XVal.neg : XVal → Bool
  | .zero n => n | .fin v => decide (v < 0) | .inf n => n | .nan n => n
/-- The exact value; 0 where there is none. -/
def XVal.rat : XVal → Rat
  | .fin v => v | _ => 0
def XVal.finite : XVal → Bool
  | .zero _ => true | .fin _ => true | _ => false
def XVal.isZero : XVal → Bool
  | .zero _ => true | _ => false
/-- Times a positive factor. -/
def XVal.times (x : XVal) (s : Rat) : XVal :=
  match x with | .fin v => .fin (v * s) | y => y

end Sys2Proof

namespace Sys2Proof.Machine

/-! ## Exact arithmetic -/

/-- 2^k as a rational. -/
def pow2 (k : Int) : Rat := if 0 ≤ k then mkRat (2 ^ k.toNat) 1 else mkRat 1 (2 ^ (-k).toNat)
/-- |v|. -/
def ratAbs (v : Rat) : Rat := if v < 0 then -v else v
/-- The binade of a positive rational: 2^k ≤ a < 2^(k+1). -/
def floorLog2 (a : Rat) : Int :=
  let k : Int := (Nat.log2 a.num.natAbs : Int) - (Nat.log2 a.den : Int)
  if a < pow2 k then k - 1 else k
/-- The whole number nearest to |v|, ties up (R49). -/
def roundNat (v : Rat) : Nat := (2 * v.num.natAbs + v.den) / (2 * v.den)
/-- round_int of R57: ties away from zero. -/
def roundInt (v : Rat) : Int := if v < 0 then -(roundNat v : Int) else roundNat v
/-- v truncated toward zero to a multiple of 2^k (R77). -/
def truncTo (k : Int) (v : Rat) : Rat :=
  let q := ratAbs v / pow2 k
  let m := mkRat (q.num.natAbs / q.den : Nat) 1 * pow2 k
  if v < 0 then -m else m
/-- Largest and smallest of a list. -/
def ratMax (d : Rat) (l : List Rat) : Rat := l.foldl (fun a b => if a < b then b else a) d
def ratMin (d : Rat) (l : List Rat) : Rat := l.foldl (fun a b => if b < a then b else a) d
def ratSum (l : List Rat) : Rat := l.foldl (· + ·) 0
def intMax? (l : List Int) : Option Int := l.foldl (fun a b => match a with | none => some b | some c => some (max c b)) none

/-! ## Numerics events (R64, R147, Table 05-4) -/

/-- Events of a piece of work by counter, and whether its non-finite flag is set. -/
structure Cnt where
  flushedIn : Nat := 0
  flushedOut : Nat := 0
  clipped : Nat := 0
  saturated : Nat := 0
  nonfinite : Nat := 0
  underwin : Nat := 0
  outliers : Nat := 0
  promoted : Nat := 0
  wraps : Nat := 0
  promoCand : Nat := 0
  nf : Bool := false
deriving DecidableEq, Repr

def Cnt.add (a b : Cnt) : Cnt :=
  ⟨a.flushedIn + b.flushedIn, a.flushedOut + b.flushedOut, a.clipped + b.clipped, a.saturated + b.saturated, a.nonfinite + b.nonfinite,
    a.underwin + b.underwin, a.outliers + b.outliers, a.promoted + b.promoted, a.wraps + b.wraps, a.promoCand + b.promoCand, a.nf || b.nf⟩
def Cnt.sum (l : List Cnt) : Cnt := l.foldl Cnt.add {}

def BayCtrs.plus (b : BayCtrs) (c : Cnt) : BayCtrs :=
  { b with flushedIn := satAdd b.flushedIn c.flushedIn, flushedOut := satAdd b.flushedOut c.flushedOut, clipped := satAdd b.clipped c.clipped
           saturated := satAdd b.saturated c.saturated, nonfinite := satAdd b.nonfinite c.nonfinite, underwin := satAdd b.underwin c.underwin
           outliers := satAdd b.outliers c.outliers, promoted := satAdd b.promoted c.promoted, int32wrap := satAdd b.int32wrap c.wraps
           promoCand := satAdd b.promoCand c.promoCand }

/-- A part of the events, each count reduced to a share that `f` picks. -/
def Cnt.part (c : Cnt) (f : Nat → Nat → Nat) : Cnt :=
  ⟨f 0 c.flushedIn, f 1 c.flushedOut, f 2 c.clipped, f 3 c.saturated, f 4 c.nonfinite, f 5 c.underwin, f 6 c.outliers, f 7 c.promoted,
    f 8 c.wraps, f 9 c.promoCand, false⟩
def Cnt.less (a b : Cnt) : Cnt :=
  ⟨a.flushedIn - b.flushedIn, a.flushedOut - b.flushedOut, a.clipped - b.clipped, a.saturated - b.saturated, a.nonfinite - b.nonfinite,
    a.underwin - b.underwin, a.outliers - b.outliers, a.promoted - b.promoted, a.wraps - b.wraps, a.promoCand - b.promoCand, a.nf⟩

/-- Count events over the bays of a command. Which bay does which element's work is not given: each bay but the last
takes a free share of what is left, the last takes the rest (R147, log 22). -/
def State.countOver (s : State) (c : Cnt) : List Nat → State
  | [] => s
  | [b] => s.setBay b { s.bay b with ctrs := (s.bay b).ctrs.plus c }
  | b :: bs =>
    let p := c.part (fun i n => Config.free s.freeCtr (100 + i) b % (n + 1))
    let t := s.setBay b { s.bay b with ctrs := (s.bay b).ctrs.plus p }
    State.countOver { t with freeCtr := t.freeCtr + 1 } (c.less p) bs

/-! ## Floating-point layouts (R36, R40, Tables 02-1, 02-3) -/

/-- A layout: exponent and fraction bits, bias, code of the largest finite value and the NaN written, without sign. -/
structure Flt where
  eb : Nat
  fb : Nat
  bias : Nat
  top : Nat
  nan : Nat
deriving DecidableEq, Repr

def fp4 : Flt := ⟨2, 1, 1, 0x7, 0x7⟩
def e4m3 : Flt := ⟨4, 3, 7, 0x7E, 0x7F⟩
def e5m2 : Flt := ⟨5, 2, 15, 0x7B, 0x7F⟩
def bf16 : Flt := ⟨8, 7, 127, 0x7F7F, 0x7FFF⟩
def fp32 : Flt := ⟨8, 23, 127, 0x7F7FFFFF, 0x7FFFFFFF⟩
def mw40 : Flt := ⟨8, 31, 127, 0x7F7FFFFFFF, 0x7FFFFFFFFF⟩

/-- The layout of a format tag (Table 02-1); integer tags have none. -/
def fltOf (tag : Nat) : Option Flt :=
  match tag with
  | 0 => some fp4 | 2 => some e4m3 | 3 => some e5m2 | 6 => some bf16 | 7 => some fp32 | 8 => some mw40 | _ => none

/-- Magnitude of a finite code without sign (R36). -/
def Flt.mag (f : Flt) (code : Nat) : Rat :=
  let e : Int := (code / 2 ^ f.fb : Nat)
  mkRat (2 ^ f.fb + code % 2 ^ f.fb : Nat) 1 * pow2 (e - f.bias - f.fb)

/-- Exponent field of a code. -/
def Flt.field (f : Flt) (code : Nat) : Nat := code / 2 ^ f.fb % 2 ^ f.eb

/-- The largest finite magnitude. -/
def Flt.max (f : Flt) : Rat := f.mag f.top

/-- Value of a code, and whether a subnormal was flushed (R37, R41, R47). -/
def Flt.read (f : Flt) (code : Nat) : XVal × Bool :=
  let n := code.testBit (f.eb + f.fb)
  let m := code % 2 ^ (f.eb + f.fb)
  if m / 2 ^ f.fb = 0 then (.zero n, m != 0)
  else if m ≤ f.top then (.fin (if n then -f.mag m else f.mag m), false)
  else if f.eb = 4 then (.nan n, false)
  else if m % 2 ^ f.fb = 0 then (.inf n, false) else (.nan n, false)

/-- R49, R50 for a magnitude: the code of the nearest of zero and the normal values, ties to the greater. -/
def Flt.roundMag (f : Flt) (a : Rat) : Nat :=
  if a = 0 then 0
  else if f.max < a then f.top
  else
    let k := floorLog2 a
    if k < 1 - (f.bias : Int) then (if 2 * a < pow2 (1 - f.bias) then 0 else 2 ^ f.fb)
    else ((k + f.bias).toNat * 2 ^ f.fb + roundNat (a / pow2 (k - f.fb))) - 2 ^ f.fb

/-- A code with its sign. -/
def Flt.signed (f : Flt) (n : Bool) (m : Nat) : Nat := m + b1 n * 2 ^ (f.eb + f.fb)

/-- A value written in a format by one rounding: the code and its event (R47, R49, R50, R62, R64). `range` is the event of
a value beyond range: CLIPPED in a quantisation, else SATURATED. -/
def Flt.write (f : Flt) (x : XVal) (flushed quant : Bool) : Nat × Cnt :=
  match x with
  | .nan n => (f.signed n f.nan, { nonfinite := 1, nf := true })
  | .inf n => (f.signed n f.nan, { nonfinite := 1, nf := true })
  | .zero n => (f.signed n 0, if flushed then { flushedIn := 1 } else {})
  | .fin v =>
    let a := ratAbs v
    let m := f.roundMag a
    (f.signed (v < 0) m,
      if f.max < a then (if quant then { clipped := 1 } else { saturated := 1 })
      else if m = 0 then { flushedOut := 1 } else {})

/-- rnd32 of R355: an exact value rounded once to FP32. -/
def rnd (f : Flt) (v : Rat) : Rat :=
  let m := f.roundMag (ratAbs v)
  if m / 2 ^ f.fb = 0 then 0 else if v < 0 then -f.mag m else f.mag m

/-- Search, from bit `k` down, for the largest offset above the smallest normal code whose value v has v^p ≤ q. -/
def Flt.rootSearch (f : Flt) (p : Nat) (q : Rat) : (k d : Nat) → Nat
  | 0, d => d
  | k + 1, d =>
    let c := 2 ^ f.fb + d + 2 ^ k
    f.rootSearch p q k (if c ≤ f.top && f.mag c ^ p ≤ q then d + 2 ^ k else d)

/-- The magnitude code of q^(1/p) correctly rounded (R49, R50), for q > 0: no root is formed, powers are compared. -/
def Flt.roundRoot (f : Flt) (p : Nat) (q : Rat) : Nat :=
  let least := 2 ^ f.fb
  if q < f.mag least ^ p then (if (f.mag least / 2) ^ p ≤ q then least else 0)
  else
    let c := least + f.rootSearch p q (f.eb + f.fb) 0
    if c < f.top && ((f.mag c + f.mag (c + 1)) / 2) ^ p ≤ q then c + 1 else c

/-! ## Scales (R53, R137) -/

/-- The scale of SEXP and SMANT (R53). -/
def scaleOf (e m : Nat) : Rat := mkRat (16 + m : Nat) 16 * pow2 ((e : Int) - 127)

/-- The smallest scale at or above a positive value, as (SEXP, SMANT); the largest where none is (R137). -/
def smallestScale (need : Rat) : Nat × Nat :=
  if need ≤ pow2 (-126) then (1, 0)
  else
    let k := floorLog2 need
    let q := need / pow2 (k - 4)
    let m := (q.num.natAbs + q.den - 1) / q.den
    let (k, m) := if m = 32 then (k + 1, 16) else (k, m)
    if 127 < k then (0xFE, 15) else ((k + 127).toNat, m - 16)

/-- Bits of an element (R44). -/
def tagBits (tag : Nat) : Nat :=
  match tag with
  | 0 => 4 | 1 => 4 | 2 => 8 | 3 => 8 | 4 => 8 | 5 => 8 | 6 => 16 | 7 => 32 | 8 => 40 | _ => 32
/-- Narrow formats (R45). -/
def narrow (tag : Nat) : Bool := tag ≤ 5
/-- The value of an element of a narrow code before its scale (R37 to R39), and whether it was flushed. -/
def narrowVal (tag z code : Nat) : XVal × Bool :=
  match tag with
  | 1 => (.ofRat (((code : Int) - z : Int) : Rat), false)
  | 4 => (.ofRat (((code : Int) - z : Int) : Rat), false)
  | 5 => (.ofRat ((sgn 8 code : Int) : Rat), false)
  | t => match fltOf t with | some f => f.read code | none => (.nan false, false)

/-- The format term F of Table 03-1. -/
def boundTerm (tag z : Nat) : Int :=
  match tag with
  | 0 => 3 | 1 => if z ≤ 15 then 4 else 8 | 2 => 9 | 3 => 16 | _ => 8

/-- Bound of a wide element: e − 126 (R71, R104); zeros and non-finite elements have none. -/
def wideBound (x : XVal) : Option Int :=
  match x with
  | .fin v => some (floorLog2 (ratAbs v) + 1)
  | _ => none

/-- Unsigned integer targets' largest code (R57). -/
def qmaxOf (tag : Nat) : Nat := if tag = 1 then 15 else 255

end Sys2Proof.Machine
end

