-- ==== Sys2Proof/Machine/Quant.lean ====
section
/-! DEFINITION. Reading stored tensors (R45, R46, R54, R55, R79 to R81, R104, R105) and the Assayer: first pass and
conversion pass (R136 to R140, R57, R82, R123, R490), and what a tensor's production writes (R85, R139, R142). -/

namespace Sys2Proof.Machine

/-! ## Layout (R44 to R46, R91, R113, Table 12-8) -/

/-- Stored inner length: K' of R91 for a rotated tensor. -/
def Desc.inner (d : Desc) : Nat := if d.rot then 128 * ceilDiv d.len 128 else d.len
/-- Blocks of a line. -/
def Desc.nb (d : Desc) : Nat := ceilDiv d.inner 32
/-- Bytes of a block slot (R46). -/
def Desc.slot (d : Desc) : Nat := if d.wide || tagBits d.ftag = 8 then 32 else 16
def align64 (a : Nat) : Nat := 64 * ceilDiv a 64
/-- Bytes of the data part. -/
def Desc.dataBytes (d : Desc) : Nat :=
  if narrow d.ftag then d.lines * d.nb * d.slot
  else if d.ftag = 8 then 40 * ceilDiv (d.lines * d.inner) 8
  else d.lines * d.inner * (tagBits d.ftag / 8)
/-- Bytes of the range tensor of a source: two values a block, MW40 in whole groups (R44, R45, R142). -/
def Desc.rangeLen (d : Desc) : Nat :=
  let n := 2 * d.lines * d.nb
  if d.ftag = 8 then 40 * ceilDiv n 8 else n * (if narrow d.ftag then 4 else tagBits d.ftag / 8)
/-- Address of the cross bound vector (Table 12-8). -/
def Desc.crossAt (d : Desc) : Nat := align64 (d.baddr + 2 * d.lines)

/-- The parts of a tensor that exist, as (address, bytes): data, records, bound vectors, outlier list. -/
def Desc.parts (d : Desc) : List (Nat × Nat) :=
  [(d.daddr, d.dataBytes)] ++ (if narrow d.ftag then [(d.saddr, 4 * d.lines * d.nb)] else []) ++
    (if d.baddr = 0 then [] else [(d.baddr, 2 * d.lines)] ++ (if d.cross then [(d.crossAt, 2 * d.inner)] else [])) ++
    (if narrow d.ftag && d.oaddr != 0 then [(d.oaddr, 8 * d.lines * d.nb)] else [])

/-! ## Reading -/

/-- A block as a consumer reads it: element values before scaling with their flush marks, the valid outlier entries,
the bounds of the block and of its entries. -/
structure Blk where
  rec_ : Nat
  tag : Nat
  z : Nat
  null : Bool
  bad : Bool
  scale : Rat
  vals : List (XVal × Bool)
  ol : List (Nat × XVal)
  olF : List Nat
  h : Option Int
deriving DecidableEq, Repr

/-- An FTAG that a tensor of a declared format may hold (R55). -/
def tagFits (declared tag : Nat) (wide promoted : Bool) : Bool :=
  tag = declared || ((declared = 4 || declared = 5) && (tag = 4 || tag = 5)) || (wide && declared ≤ 1 && tag = 2 && promoted)

/-- A block of `n` elements from its record, codes (by bits) and outlier words (R54, R55, R79 to R81). -/
def blkOf (declared : Nat) (wide hasList : Bool) (n rec_ : Nat) (code : Nat → Nat) (entries : List Nat) : Blk :=
  let e := bits rec_ 31 24
  let tag := bits rec_ 11 8
  let z := if tag = 1 || tag = 4 then bits rec_ 19 12 else 0
  let no := bits rec_ 1 0
  let four := tag ≤ 1
  let ents := if four && e != 0 then (entries.take no).map (fun w => (w % 32, bf16.read (bits w 31 16))) else []
  let dup := ents.length != (ents.map (·.1)).eraseDups.length
  let bad := e != 0 && (e = 255 || 5 < tag || no = 3 || (four && no != 0 && !hasList) || !tagFits declared tag wide (bit rec_ 3) ||
    (four && (dup || ents.any (fun x => n ≤ x.1 || !x.2.1.finite))))
  let raw := (List.range 32).map (fun j => if j < n then narrowVal tag z (code j) else (.zero false, false))
  { rec_ := rec_, tag := tag, z := z, null := e = 0, bad := bad, scale := if e = 0 then 0 else scaleOf e (bits rec_ 23 20)
    vals := if e = 0 then List.replicate 32 (.zero false, false) else if bad then List.replicate 32 (.nan false, false) else raw
    ol := if bad then [] else ents.map (fun x => (x.1, x.2.1)), olF := if bad then [] else (ents.filter (fun x => x.2.2)).map (·.1)
    h := if e = 0 || e = 255 then none else some ((e : Int) - 127 + 1 + boundTerm tag z) }

/-- Bounds of the entries of a block (R71). -/
def Blk.oh (b : Blk) : List Int := b.ol.filterMap (fun x => wideBound x.2)
/-- Value of an element with its scale, or its listed value (R80). -/
def Blk.elem (b : Blk) (j : Nat) : XVal × Bool :=
  match b.ol.find? (fun x => x.1 = j) with
  | some x => (x.2, b.olF.contains j)
  | none => match b.vals[j]? with | some (v, f) => (v.times b.scale, f) | none => (.zero false, false)
/-- Bound of an element (R104, R105). -/
def Blk.elemBound (b : Blk) (j : Nat) : Option Int :=
  match b.ol.find? (fun x => x.1 = j) with
  | some x => wideBound x.2
  | none => b.h
/-- Input events of reading a block: flushed inputs, or the block as non-finite (R47, R55). -/
def Blk.cnt (b : Blk) : Cnt :=
  if b.bad then { nonfinite := 1, nf := true }
  else { flushedIn := ((List.range 32).filter (fun j => (b.elem j).2)).length }
/-- A block made to read as non-finite (R74, R107). -/
def Blk.spoil (b : Blk) : Blk := { b with bad := true, vals := List.replicate 32 (.nan false, false), ol := [], olF := [] }

/-- A tensor as a command reads it: blocks of a narrow one, element values with flush marks of another, and the bound
vectors it names. -/
structure Tensor where
  d : Desc
  blks : List (List Blk)
  wide : List (List (XVal × Bool))
  lineB : Option (List (Option Int))
  crossB : Option (List (Option Int))
deriving DecidableEq, Repr

/-- Bound-vector entry: 0x8000 is none (R72). -/
def entryOf (v : Nat) : Option Int := if v = 0x8000 then none else some (sgn 16 v)
def entryCode (h : Option Int) : Nat := match h with | none => 0x8000 | some k => (BitVec.ofInt 16 k).toNat

/-- Code `j` of a block slot held in `raw` bytes (R44). -/
def codeIn (tag : Nat) (raw j : Nat) : Nat := if tagBits tag = 4 then bits raw (4 * j + 3) (4 * j) else bits raw (8 * j + 7) (8 * j)

/-- Block `k` of line `l`. -/
def State.blkAt (s : State) (d : Desc) (l k : Nat) : Blk :=
  let i := l * d.nb + k
  let rec_ := s.readNat (d.saddr + 4 * i) 4
  let raw := s.readNat (d.daddr + i * d.slot) d.slot
  let ents := if d.oaddr = 0 then [] else [s.readNat (d.oaddr + 8 * i) 4, s.readNat (d.oaddr + 8 * i + 4) 4]
  blkOf d.ftag d.wide (d.oaddr != 0) (min 32 (d.inner - 32 * k)) rec_ (codeIn (bits rec_ 11 8) raw) ents

/-- The value of a stored wide element (R36, R43). -/
def wideVal (tag code : Nat) : XVal × Bool :=
  match fltOf tag with | some f => f.read code | none => (.ofRat ((sgn 32 code : Int) : Rat), false)

def State.boundVec (s : State) (a n : Nat) : List (Option Int) := (List.range n).map (fun i => entryOf (s.readNat (a + 2 * i) 2))

/-- The tensor a descriptor names. -/
def State.tensor (s : State) (d : Desc) : Tensor :=
  let w := tagBits d.ftag / 8
  { d := d
    blks := if narrow d.ftag then (List.range d.lines).map (fun l => (List.range d.nb).map (fun k => s.blkAt d l k)) else []
    wide := if narrow d.ftag then [] else (List.range d.lines).map (fun l => (List.range d.inner).map (fun i => wideVal d.ftag (s.readNat (d.daddr + w * (l * d.inner + i)) w)))
    lineB := if d.baddr = 0 then none else some (s.boundVec d.baddr d.lines)
    crossB := if d.baddr = 0 || !d.cross then none else some (s.boundVec d.crossAt d.inner) }

/-- Every element's value, with its flush mark; elements of a block read as non-finite are positive NaN. -/
def Tensor.elems (t : Tensor) : List (List (XVal × Bool)) :=
  if narrow t.d.ftag then
    t.blks.map (fun bs => (List.range t.d.inner).map (fun i => match bs[i / 32]? with | some b => b.elem (i % 32) | none => (.zero false, false)))
  else t.wide

/-- Input events of the whole tensor (R47, R55). -/
def Tensor.cnt (t : Tensor) : Cnt :=
  if narrow t.d.ftag then Cnt.sum (t.blks.flatten.map Blk.cnt)
  else { flushedIn := (t.wide.flatten.filter (·.2)).length }

/-- The bound entry of a line of blocks (R72). -/
def lineBound (bs : List Blk) : Option Int := intMax? (bs.flatMap (fun b => b.h.toList ++ b.oh))

/-! ## The Assayer (R136 to R140) -/

/-- How a tensor is quantised: target tag, clip ratio, outliers enabled, wide slots, an outlier list present, the target
share in 1/65536, and whether the layer's fallback promotes every block, whatever the target (R123). A tensor that names no
calibration entry has the default target share of R56 for its CLIPSAT. DEDUCED (log 48). -/
structure QOpt where
  tag : Nat
  clip : Rat := 1
  outl : Bool := false
  wide : Bool := false
  list : Bool := false
  target : Nat := 0x40
  fallback : Bool := false
deriving DecidableEq, Repr

/-- The scale and zero point of the first pass: (SEXP, SMANT, ZPOINT) (R137). -/
def firstPass (tag : Nat) (c : Rat) (xs : List XVal) : Nat × Nat × Nat :=
  let vs := xs.filterMap (fun x => match x with | .fin v => some v | .zero _ => some 0 | _ => none)
  if xs.all XVal.isZero then (0, 0, 0)
  else if vs.all (· = 0) then (0x7F, 0, 0)
  else
    let big := ratMax 0 (vs.map ratAbs)
    match fltOf tag with
    | some f => let (e, m) := smallestScale (c * big / f.max); (e, m, 0)
    | none =>
      if tag = 5 then let (e, m) := smallestScale (c * big / 127); (e, m, 0)
      else
        let lo := ratMin 0 (vs.map (c * ·))
        let hi := ratMax 0 (vs.map (c * ·))
        let (e, m) := smallestScale ((hi - lo) / mkRat (qmaxOf tag) 1)
        (e, m, min (qmaxOf tag) (roundInt (-lo / scaleOf e m)).toNat)

/-- One element quantised: code, event, and whether its exact quotient lies beyond the range (R57, R58, R62, R64, R140). -/
def quantElem (tag : Nat) (sc : Rat) (z : Nat) (x : XVal) (flushed : Bool) : Nat × Cnt × Bool :=
  match fltOf tag with
  | some f =>
    let y := x.times (1 / sc)
    let w := f.write y flushed true
    (w.1, w.2, match y with | .fin v => decide (f.max < ratAbs v) | _ => false)
  | none =>
    let signed := tag = 5
    let qmax : Int := if signed then 127 else qmaxOf tag
    let qmin : Int := if signed then -127 else 0
    let zp : Int := if signed then 0 else z
    let enc := fun (r : Int) => (r % 256).toNat
    match x with
    | .nan n => (enc (if n then qmin else qmax), { nonfinite := 1, nf := true }, false)
    | .inf n => (enc (if n then qmin else qmax), { nonfinite := 1, nf := true }, false)
    | y =>
      let r := roundInt (y.rat / sc) + zp
      let beyond := decide (r < qmin) || decide (qmax < r)
      (enc (max qmin (min qmax r)),
        if y.isZero && flushed then { flushedIn := 1 } else if beyond then { clipped := 1 } else if !y.isZero && r = zp then { flushedOut := 1 } else {}, beyond)

/-- A block written: its record without the INEXACT bit, 32 codes, outlier words, events, candidates and converted
elements. -/
structure BlkOut where
  rec_ : Nat
  tag : Nat
  codes : List Nat
  ol : List Nat := []
  cnt : Cnt
  cands : Nat := 0
deriving DecidableEq, Repr

def recOf (e m z tag : Nat) (promoted clipsat : Bool) (no : Nat) : Nat :=
  pack [(24, 8, e), (20, 4, m), (12, 8, z), (8, 4, tag), (3, 1, b1 promoted), (2, 1, b1 clipsat), (0, 2, no)]

/-- CLIPSAT: more than 32 × t elements clipped or saturated (Table 02-4, R56). -/
def clipsat (c : Cnt) (target : Nat) : Bool := 32 * target < (c.clipped + c.saturated) * 65536

/-- The zero code of a format (R45, R81). A supplied INT4 record may hold a zero point above 15, which no code holds: the model
writes the largest code then. DESIGN CHOICE (log 64). -/
def zeroCode (tag z : Nat) : Nat := if tag = 1 then min z 15 else if tag = 4 then z else 0

/-- A block of values quantised to one tag under a given scale, without outliers. -/
def plainBlock (tag e m z target : Nat) (promoted : Bool) (xs : List (XVal × Bool)) : BlkOut :=
  let pad := List.replicate (32 - xs.length) (zeroCode tag z)
  if e = 0 then
    { rec_ := recOf 0 0 0 tag promoted false 0, tag := tag, codes := List.replicate 32 0
      cnt := { flushedIn := (xs.filter (·.2)).length, promoted := b1 promoted } }
  else
    let qs := xs.map (fun x => quantElem tag (scaleOf e m) z x.1 x.2)
    let c := Cnt.sum (qs.map (·.2.1))
    { rec_ := recOf e m z tag promoted (clipsat c target) 0, tag := tag, codes := qs.map (·.1) ++ pad
      cnt := c.add { promoted := b1 promoted }, cands := (qs.filter (·.2.2)).length }

/-- Positions of the candidates listed as outliers: all of up to two, else the two of greatest magnitude, the lower index
first where equal (R82). R82 does not say which of two unequal candidates takes entry 0: the model gives it the lower index.
DESIGN CHOICE (log 64). -/
def listed (cs : List (Nat × Rat)) : List Nat :=
  if cs.length ≤ 2 then cs.map (·.1)
  else
    let best := fun (l : List (Nat × Rat)) => l.foldl (fun (a : Option (Nat × Rat)) x => match a with
      | none => some x | some y => if ratAbs y.2 < ratAbs x.2 then some x else a) none
    match best cs with
    | none => []
    | some a => match best (cs.filter (fun x => x.1 != a.1)) with
      | none => [a.1]
      | some b => if a.1 < b.1 then [a.1, b.1] else [b.1, a.1]

/-- The conversion pass of a block under the first-pass record (R82, R123, R139). -/
def quantBlock (o : QOpt) (xs : List (XVal × Bool)) : BlkOut :=
  let vs := xs.map (·.1)
  let (e, m, z) := firstPass o.tag o.clip vs
  let base := plainBlock o.tag e m z o.target false xs
  let pc := b1 (2 < base.cands)
  let e4m3Block := fun (c : Rat) => let (e', m', _) := firstPass 2 c vs; plainBlock 2 e' m' 0 o.target true xs
  let out : BlkOut :=
    if o.fallback then { e4m3Block o.clip with cands := base.cands }
    else if !o.outl || 1 < o.tag || base.cands = 0 then base
    else if 2 < base.cands && o.wide then { e4m3Block 1 with cands := base.cands }
    else if !o.list then base
    else
      let qs := (List.range xs.length).map (fun j => match xs[j]? with | some x => (j, x.1.rat, quantElem o.tag (scaleOf e m) z x.1 x.2) | none => (j, 0, 0, {}, false))
      let ls := listed ((qs.filter (fun q => q.2.2.2.2)).map (fun q => (q.1, q.2.1)))
      let zcode := zeroCode o.tag z
      let codes := qs.map (fun q => if ls.contains q.1 then zcode else q.2.2.1)
      let c := (Cnt.sum ((qs.filter (fun q => !ls.contains q.1)).map (fun q => q.2.2.2.1))).add { outliers := ls.length }
      let words := ls.map (fun j => match xs[j]? with | some x => (bf16.write x.1 false false).1 * 65536 + j | none => j)
      { rec_ := recOf e m z o.tag false (clipsat c o.target) ls.length, tag := o.tag, codes := codes ++ List.replicate (32 - codes.length) zcode
        ol := words, cnt := c, cands := base.cands }
  { out with cnt := out.cnt.add { promoCand := pc } }

/-- A block converted under a supplied record (R490). -/
def suppliedBlock (tag target rec_ : Nat) (xs : List (XVal × Bool)) : BlkOut :=
  let e := bits rec_ 31 24
  let m := bits rec_ 23 20
  let z := bits rec_ 19 12
  let zcode := zeroCode tag z
  let pad := List.replicate (32 - xs.length) zcode
  if e = 255 then
    let as := xs.map (fun x => (quantElem tag 1 z (.nan x.1.neg) false).1)
    { rec_ := recOf e m z tag false false 0, tag := tag, codes := as ++ pad, cnt := { nonfinite := xs.length, nf := xs != [] } }
  else if e = 0 then
    let bad := (xs.filter (fun x => !x.1.finite)).length
    { rec_ := recOf 0 m z tag false false 0, tag := tag, codes := List.replicate 32 zcode
      cnt := { flushedIn := (xs.filter (·.2)).length, flushedOut := (xs.filter (fun x => x.1.finite && !x.1.isZero)).length, nonfinite := bad, nf := bad != 0 } }
  else plainBlock tag e m z target false xs

/-! ## What production writes (R85, R139) -/

/-- The bytes of a block's slot (R44, R46). -/
def slotBytes (slot : Nat) (b : BlkOut) : List Byte :=
  let n := if tagBits b.tag = 4 then 16 else 32
  let w := if tagBits b.tag = 4 then 4 else 8
  slice (bytesLE n (pack ((List.range 32).map (fun j => (w * j, w, b.codes.getD j 0))))) 0 slot

/-- A tensor produced: bytes by part, events, and what the calibration and layer entries count. -/
structure Made where
  writes : List (Nat × List Byte) := []
  cnt : Cnt := {}
  elems : Nat := 0
  cands : Nat := 0
  blocks : Nat := 0
  offending : List Nat := []
deriving DecidableEq, Repr

/-- A bound vector's bytes. -/
def vecBytes (hs : List (Option Int)) : List Byte := hs.flatMap (fun h => bytesLE 2 (entryCode h))

/-- Bound vectors of a tensor written: from final records and entries for a narrow tensor (R72, R105, R139), from the
elements for another (R136). -/
def boundWrites (d : Desc) (hs : List (List (Option Int))) (line : List (Option Int)) : List (Nat × List Byte) :=
  if d.baddr = 0 then []
  else (d.baddr, vecBytes line) ::
    (if d.cross then [(d.crossAt, vecBytes ((List.range d.inner).map (fun i => intMax? (hs.filterMap (fun l => (l[i]?).join)))))] else [])

/-- Elements of a block of a line: 32, or fewer at the end. -/
def lineBlock (xs : List α) (k : Nat) : List α := (xs.drop (32 * k)).take 32

/-- The blocks of a narrow destination with their marks, written (R139): `inex` marks inexact elements (R78). -/
def makeNarrow (d : Desc) (tag : Nat) (outs : List (List BlkOut)) (inex : List (List Bool)) (elems : Nat) (data : Bool) : Made :=
  let mark := fun (l k : Nat) => (lineBlock (inex.getD l []) k).any id
  let flat := (List.range outs.length).flatMap (fun l => (List.range d.nb).filterMap (fun k => ((outs.getD l [])[k]?).map (fun b => (l, k, b))))
  let views := outs.map (fun bs => (List.range d.nb).filterMap (fun k => (bs[k]?).map (fun b =>
    blkOf tag true true (min 32 (d.inner - 32 * k)) b.rec_ (fun j => b.codes.getD j 0) b.ol)))
  let hs := views.map (fun bs => (List.range d.inner).map (fun i => match bs[i / 32]? with | some b => b.elemBound (i % 32) | none => none))
  let recs := flat.flatMap (fun (l, k, b) => bytesLE 4 (b.rec_ ||| (b1 (data && mark l k) <<< 4)))
  { writes := (if data then [(d.daddr, flat.flatMap (fun (_, _, b) => slotBytes d.slot b))] else []) ++ [(d.saddr, recs)] ++ boundWrites d hs (views.map lineBound) ++
      (if data && d.oaddr != 0 then [(d.oaddr, flat.flatMap (fun (_, _, b) => bytesLE 8 (pack [(0, 32, b.ol.getD 0 0), (32, 32, b.ol.getD 1 0)])))] else [])
    cnt := Cnt.sum (flat.map (fun x => x.2.2.cnt)), elems := elems, cands := (flat.map (fun x => x.2.2.cands)).sum, blocks := flat.length
    offending := (flat.filter (fun x => 0 < x.2.2.cnt.nonfinite + x.2.2.cnt.saturated)).map (fun (l, k, _) => l * d.nb + k) }

/-- A wide destination written: one rounding per element, headroom d of a block as a factor 2^-d (R160). A wide output runs no
Assayer pass, so it converts no element of a calibration entry (R144). -/
def makeWide (d : Desc) (f : Flt) (head : Nat → Nat) (quant : Bool) (xs : List (List (XVal × Bool))) : Made :=
  let ws := (List.range xs.length).map (fun l => (List.range d.inner).map (fun i =>
    let x := ((xs.getD l [])[i]?).getD (.zero false, false)
    f.write (x.1.times (pow2 (-(head (l * d.nb + i / 32) : Int)))) x.2 quant))
  let w := tagBits d.ftag / 8
  let hs := ws.map (fun l => l.map (fun y => wideBound (f.read y.1).1))
  let bad := (List.range ws.length).flatMap (fun l => ((List.range d.nb).filter (fun k =>
    (lineBlock (ws.getD l []) k).any (fun y => 0 < y.2.nonfinite + y.2.saturated))).map (fun k => l * d.nb + k))
  { writes := (d.daddr, slice (ws.flatten.flatMap (fun y => bytesLE w y.1)) 0 d.dataBytes) :: boundWrites d hs (hs.map (fun l => intMax? (l.filterMap id)))
    cnt := Cnt.sum (ws.flatten.map (·.2)), offending := bad }

/-- A produced tensor of any format: narrow blocks through the Assayer, wide elements rounded once (R85). `carry` gives the
blocks that take c = 1 (R138). -/
def make (d : Desc) (o : QOpt) (carry : Nat → Bool) (head : Nat → Nat) (xs : List (List (XVal × Bool))) (inex : List (List Bool)) : Made :=
  match fltOf d.ftag, narrow d.ftag with
  | some f, false => makeWide d f head false xs
  | _, _ =>
    let outs := (List.range xs.length).map (fun l => (List.range d.nb).map (fun k =>
      quantBlock (if carry (l * d.nb + k) then { o with clip := 1 } else o) (lineBlock (xs.getD l []) k)))
    makeNarrow d d.ftag outs inex (xs.map List.length).sum true

/-- Blocks of a destination that CARRY makes quantise with c = 1 (R138). -/
def State.carried (s : State) (d : Desc) (i : Nat) : Bool :=
  let r := s.readNat (d.saddr + 4 * i) 4
  d.carry && bits r 31 24 != 0 && bits r 11 8 = d.ftag && bit r 2

/-- Store what a command's production wrote. -/
def State.putMade (s : State) (c : CmdNo) (m : Made) : State := m.writes.foldl (fun t w => t.put c w.1 w.2) s

end Sys2Proof.Machine
end

