-- ==== Sys2Proof/Machine/Products.lean ====
section
/-! DEFINITION. Exact products: the F-array ledger (R68 to R81, R84), the B-array ledger (R101 to R111), INT32 sums (R43,
R88), the Mangle (R90 to R94) and the fallback's reads (R123). -/

namespace Sys2Proof.Machine

/-! ## Ledgers (R75 to R77, R48, R70) -/

/-- One output element: its value (a poisoned one is the positive NaN), its under-window events, and the operand blocks
that gave one. -/
structure Cell where
  v : XVal
  under : Nat := 0
  ma : List Nat := []
  mb : List Nat := []
deriving DecidableEq, Repr

def poisonedCell : Cell := { v := .nan false }

/-- A product of two values, and whether it is −0 (R70). -/
def mulVal (a b : XVal) : Rat × Bool := (a.rat * b.rat, (a.isZero || b.isZero) && (a.neg != b.neg))

/-- A contribution to a ledger: exact value, −0 mark, and the blocks it came from. -/
structure Contrib where
  c : Rat
  nz : Bool
  ma : Option Nat := none
  mb : Option Nat := none
deriving DecidableEq, Repr

/-- The sum of contributions, each truncated alone at the anchor (R76, R77, R48); `extra` enters untruncated events of u
(R111) and the products are multiplied by `f` inside the rounding (R160). -/
def ledger (anchor : Option Int) (f : Rat) (u : Option Contrib) (cs : List Contrib) : Cell :=
  let tr := fun (x : Contrib) => match anchor with | some a => truncTo (a - 100) x.c | none => 0
  let ev := cs.filter (fun x => tr x != x.c)
  let ut := match u with | some x => tr x | none => 0
  let uev := match u with | some x => b1 (tr x != x.c) | none => 0
  let sum := ut + f * ratSum (cs.map tr)
  let allNeg := cs.all (·.nz) && (match u with | some x => x.nz | none => true) && !(cs.isEmpty && u.isNone)
  { v := if sum = 0 then .zero allNeg else .fin sum, under := ev.length + uev, ma := ev.filterMap (·.ma), mb := ev.filterMap (·.mb) }

/-! ## The F-array (R68 to R80, R84) -/

/-- Operand lines of an F-array product: blocks and the line's bound entry. -/
abbrev FLine := List Blk × Option Int

/-- Lines of an operand with their bound entries, named or computed (R72, R73), and blocks above an entry spoiled (R74). -/
def fOperand (t : Tensor) : List FLine × Cnt :=
  let above := fun (b : Blk) (e : Option Int) => (b.h.toList ++ b.oh).any (fun h => match e with | none => true | some k => decide (k < h))
  let lines := (List.range t.blks.length).map (fun l =>
    let bs := t.blks.getD l []
    let e := match t.lineB with | some v => (v[l]?).join | none => lineBound (bs.filter (fun b => !b.bad))
    (bs.map (fun b => if !b.bad && above b e then b.spoil else b), e))
  (lines, Cnt.sum (lines.flatMap (fun l => l.1.map Blk.cnt)))

/-- A block poisons an output: it reads as non-finite, or holds a NaN or infinity (R84). -/
def Blk.poison (b : Blk) : Bool := b.bad || b.vals.any (fun v => !v.1.finite)

/-- Contributions of a block pair: the main sum, and the outlier lane's products (R69, R70, R80). R78 marks "the blocks that hold
the index" of an outlier-lane contribution: the model takes the blocks of both operands, in which the index lies, whichever
lists it. DEDUCED (log 48). -/
def pairContribs (a b : Blk) (ka kb : Nat) : List Contrib :=
  let idx := (a.ol.map (·.1) ++ (b.ol.map (·.1)).filter (fun i => !(a.ol.any (fun x => x.1 = i))))
  let side := fun (x : Blk) (j : Nat) => ((x.vals[j]?).map (·.1)).getD (.zero false)
  let ps := (List.range 32).map (fun j => if idx.contains j then (0, false) else mulVal (side a j) (side b j))
  let main : Contrib := ⟨ratSum (ps.map (·.1)) * a.scale * b.scale, ps.all (·.2), some ka, some kb⟩
  main :: idx.map (fun j => let p := mulVal (a.elem j).1 (b.elem j).1; ⟨p.1, p.2, some ka, some kb⟩)

/-- Output element of two lines. -/
def fCell (la lb : Nat) (nb : Nat) (x w : FLine) : Cell :=
  if (x.1 ++ w.1).any Blk.poison then poisonedCell
  else
    let anchor : Option Int := match x.2, w.2 with | some r, some c => some (r + c) | _, _ => none
    ledger anchor 1 none ((List.range nb).flatMap (fun k => match x.1[k]?, w.1[k]? with
      | some a, some b => pairContribs a b (la * nb + k) (lb * nb + k)
      | _, _ => []))

/-- The product of two operands read along their lines, with the operands' input events. -/
def fProduct (x w : Tensor) : List (List Cell) × Cnt :=
  let (xs, cx) := fOperand x
  let (ws, cw) := fOperand w
  ((List.range xs.length).map (fun i => (List.range ws.length).map (fun j => fCell i j x.d.nb (xs.getD i ([], none)) (ws.getD j ([], none)))), cx.add cw)

/-! ## INT32-accumulate mode (R43, R88) -/

/-- Code of element `i` of line `l`, read with a tag. -/
def State.codeAt (s : State) (d : Desc) (tag l i : Nat) : Nat :=
  let a := d.daddr + (l * d.nb + i / 32) * d.slot
  if tagBits tag = 4 then bits (s.readNat (a + i % 32 / 2) 1) (if i % 2 = 0 then 3 else 7) (if i % 2 = 0 then 0 else 4) else s.readNat (a + i % 32) 1

/-- An operand's whole numbers under its per-tensor record (R88, R54). -/
def State.intLines (s : State) (d : Desc) (rec_ : Nat) : List (List Int) :=
  let tag := bits rec_ 11 8
  let z := bits rec_ 19 12
  (List.range d.lines).map (fun l => (List.range d.inner).map (fun i =>
    if bits rec_ 31 24 = 0 then 0
    else let c := s.codeAt d tag l i; if tag = 5 then sgn 8 c else (c : Int) - z))

/-- INT32 sum of a pair of lines and its net wraps (R43). -/
def intDot (a b : List Int) : Int × Nat :=
  let e := (List.zipWith (· * ·) a b).foldl (· + ·) 0
  let w := sgn 32 (e % 4294967296).toNat
  (w, (e - w).natAbs / 4294967296)

/-- The record's scale as a rational, 0 for SEXP 0 (R88, R89). -/
def recScale (r : Nat) : Rat := if bits r 31 24 = 0 then 0 else scaleOf (bits r 31 24) (bits r 23 20)

/-! ## The B-array (R101 to R111) -/

/-- An element of a B-array operand: value with its scale, bound, and block. -/
structure BElem where
  v : XVal
  h : Option Int
  blk : Option Nat
deriving DecidableEq, Repr

/-- Output lines of an operand with their bound entries. -/
abbrev BLine := List BElem × Option Int

def BElem.none_ : BElem := ⟨.zero false, none, none⟩

/-- Elements of a tensor by stored line. -/
def Tensor.bElems (t : Tensor) : List (List BElem) :=
  if narrow t.d.ftag then
    (List.range t.blks.length).map (fun l => (List.range t.d.inner).map (fun i => match (t.blks.getD l [])[i / 32]? with
      | some b => ⟨if b.bad then .nan false else (b.elem (i % 32)).1, b.h, some (l * t.d.nb + i / 32)⟩
      | none => BElem.none_))
  else t.wide.map (fun l => l.map (fun x => ⟨x.1, wideBound x.1, none⟩))

/-- Rows of a table by position. -/
def crosswise (n : Nat) (d : α) (rows : List (List α)) : List (List α) := (List.range n).map (fun i => rows.map (fun r => r.getD i d))

/-- An operand in its orientation, with entries named or computed (R105, R106), and R107 applied; its input events, each block
counted as the product reads it (R55, R64). -/
def bOperand (t : Tensor) (trans useVec : Bool) : List BLine × Cnt :=
  let es := t.bElems
  let rows := if trans then crosswise t.d.inner BElem.none_ es else es
  let vec := if useVec then (if trans then t.crossB else t.lineB) else none
  let entry := fun (i : Nat) (r : List BElem) => match vec with | some v => (v[i]?).join | none => intMax? (r.filterMap (·.h))
  let lines := (List.range rows.length).map (fun i => let r := rows.getD i []; (r, entry i r))
  let above := fun (e : Option Int) (x : BElem) => match x.h with | none => false | some h => (match e with | none => true | some k => decide (k < h))
  let badBlks := (lines.flatMap (fun l => (l.1.filter (above l.2)).filterMap (·.blk))).eraseDups
  let badWide := (lines.flatMap (fun l => l.1.filter (fun x => above l.2 x && x.blk.isNone))).length
  let fix := fun (e : Option Int) (x : BElem) => match x.blk with
    | some b => if badBlks.contains b then { x with v := XVal.nan false } else x
    | none => if above e x then { x with v := .nan false } else x
  let blkCnt := fun (l k : Nat) (b : Blk) => (if badBlks.contains (l * t.d.nb + k) then b.spoil else b).cnt
  let cnt : Cnt := if narrow t.d.ftag then
      Cnt.sum ((List.range t.blks.length).flatMap (fun l => (List.range t.d.nb).filterMap (fun k => ((t.blks.getD l [])[k]?).map (blkCnt l k))))
    else t.cnt.add { nonfinite := badWide, nf := badWide != 0 }
  (lines.map (fun l => (l.1.map (fix l.2), l.2)), cnt)

/-- Whether the contraction of two FP8 lines ends in a padded block of 32: its pairs beyond the length are +0 products (R45), on the
F-arrays and so, whatever the orientation, on the B-arrays, where the results have to agree (R120, R121). DEDUCED (log 48). -/
def padded (x w : List BElem) : Bool := x.length % 32 != 0 && x.all (·.blk.isSome) && w.all (·.blk.isSome)

/-- An output element of two output lines, with the present value u of ACCUM and the headroom factor (R103, R108 to R111). -/
def bCell (x w : BLine) (u : Option XVal) (f : Rat) : Cell :=
  if (x.1 ++ w.1).any (fun e => !e.v.finite) || (match u with | some y => !y.finite | none => false) then poisonedCell
  else
    let base : Option Int := match x.2, w.2 with | some r, some c => some (r + c) | _, _ => none
    let hu := match u with | some y => wideBound y | none => none
    let anchor : Option Int := match base, hu with | some a, some b => some (max a b) | some a, none => some a | none, b => b
    let cs := List.zipWith (fun (a b : BElem) => let p := mulVal a.v b.v; (⟨p.1, p.2, a.blk, b.blk⟩ : Contrib)) x.1 w.1 ++ (if padded x.1 w.1 then [⟨0, false, none, none⟩] else [])
    ledger anchor f (u.map (fun y => ⟨y.rat, y.isZero && y.neg, none, none⟩)) cs

/-- A B-array product of operands in their orientations. -/
def bProduct (xs ws : List BLine) (u : Nat → Nat → Option XVal) (f : Nat → Nat → Rat) : List (List Cell) :=
  (List.range xs.length).map (fun i => (List.range ws.length).map (fun j => bCell (xs.getD i ([], none)) (ws.getD j ([], none)) (u i j) (f i j)))

/-! ## The Mangle (R90 to R94) -/

def golden : U64 := 0x9E3779B97F4A7C15
/-- mix of R92. -/
def mix (z : U64) : U64 :=
  let z := (z ^^^ (z >>> 30)) * 0xBF58476D1CE4E5B9
  let z := (z ^^^ (z >>> 27)) * 0x94D049BB133111EB
  z ^^^ (z >>> 31)
/-- The seed of a layer of a stall (R92). -/
def layerSeed (stallSeed : U64) (layer : Nat) : U64 := mix (stallSeed ^^^ (BitVec.ofNat 64 layer * golden))
/-- The sign of position `i` of segment `g` is −1 (R92). -/
def signNeg (seed : U64) (g i : Nat) : Bool :=
  (mix (seed + BitVec.ofNat 64 (2 * g + i / 64 + 1) * golden)).getLsbD (i % 64)
/-- Parity of the set bits of a number below 128. -/
def parity7 (n : Nat) : Bool := ((List.range 7).filter (fun k => n.testBit k)).length % 2 = 1

/-- One segment of 128 values rotated: weight side 2^-3, activation side 2^-4 (R90, R94). -/
def rotateSeg (seed : U64) (g : Nat) (weight : Bool) (xs : List XVal) : List XVal :=
  let ts := (List.range 128).map (fun j => match xs[j]? with | some x => (x.rat, signNeg seed g j, x.neg, x.isZero) | none => (0, false, false, true))
  if xs.any (fun x => !x.finite) then List.replicate 128 (.nan false)
  else (List.range 128).map (fun i =>
    let terms := (List.range 128).map (fun j =>
      let t := ts.getD j (0, false, false, true)
      let n := parity7 (i &&& j) != t.2.1
      (if n then -t.1 else t.1, t.2.2.2 && decide (j < xs.length) && (n != t.2.2.1)))
    let sum := ratSum (terms.map (·.1)) * pow2 (if weight then -3 else -4)
    if sum = 0 then .zero (terms.all (·.2)) else .fin sum)

/-- A line rotated segment by segment; it becomes K' long (R91). -/
def rotateLine (seed : U64) (weight : Bool) (xs : List XVal) : List XVal :=
  (List.range (ceilDiv xs.length 128)).flatMap (fun g => rotateSeg seed g weight ((xs.drop (128 * g)).take 128))

/-- Inexact marks of a rotated line: a segment with one inexact value is inexact throughout (R85). -/
def rotateMarks (xs : List Bool) : List Bool :=
  (List.range (ceilDiv xs.length 128)).flatMap (fun g => List.replicate 128 (((xs.drop (128 * g)).take 128).any id))

/-! ## Fallback reads (R123) -/

/-- A block of an operand of a layer in fallback, as E4M3: FP4 without outliers under its own record, an E4M3 block as it
stands, any other dequantised and quantised once with c = 1. R123 names no E5M2 block; R122 has the operands E4M3, so one is
converted as an INT block is. DEDUCED (log 48). -/
def Blk.asE4m3 (b : Blk) (n : Nat) : Blk × Cnt :=
  if b.bad || b.null then (b, b.cnt)
  else if b.tag = 2 then (b, b.cnt)
  else if b.tag = 0 && b.ol = [] then ({ b with tag := 2, h := b.h.map (· + 6) }, b.cnt)
  else
    let xs := (List.range n).map (fun j => b.elem j)
    let (e, m, _) := firstPass 2 1 (xs.map (·.1))
    let o := plainBlock 2 e m 0 0x40 false xs
    (blkOf 2 false false n o.rec_ (fun j => o.codes.getD j 0) [], o.cnt)

/-- An operand whose blocks are all E4M3 as they stand: its read converts nothing (R123). -/
def Tensor.standsE4m3 (t : Tensor) : Bool := narrow t.d.ftag && t.blks.all (fun l => l.all (fun b => b.bad || b.null || b.tag = 2))

/-- An operand of a layer in fallback, with the events of its conversion; the bays compute its bounds, since a bound vector written
with the blocks' own formats does not bound them as E4M3. An FP32 operand, which R123 does not list, is quantised as a BF16 one is; an
MW40 one has no conversion to E4M3 (R60), and its command is refused. DEDUCED (log 48). -/
def Tensor.fallback (t : Tensor) : Tensor × Cnt :=
  if narrow t.d.ftag then
    let rows := t.blks.map (fun l => (List.range l.length).map (fun k => match l[k]? with
      | some b => b.asE4m3 (min 32 (t.d.inner - 32 * k)) | none => (blkOf 2 false false 32 0 (fun _ => 0) [], {})))
    ({ t with d := { t.d with ftag := 2 }, blks := rows.map (·.map (·.1)), lineB := none, crossB := none }, Cnt.sum (rows.flatten.map (·.2)))
  else
    let rows := t.wide.map (fun l => (List.range (ceilDiv l.length 32)).map (fun k =>
      let xs := lineBlock l k
      let (e, m, _) := firstPass 2 1 (xs.map (·.1))
      let o := plainBlock 2 e m 0 0x40 false xs
      (blkOf 2 false false xs.length o.rec_ (fun j => o.codes.getD j 0) [], o.cnt)))
    ({ t with d := { t.d with ftag := 2 }, blks := rows.map (·.map (·.1)), wide := [], lineB := none, crossB := none }, Cnt.sum (rows.flatten.map (·.2)))

/-- Under-window events of a finished product (R78, R108); its poisoned elements are counted as they are written (R84). -/
def cellCnt (cs : List (List Cell)) : Cnt := { underwin := (cs.flatten.map (·.under)).sum }

/-- Blocks to be marked INEXACT in the left and right operands (R78). -/
def cellMarks (cs : List (List Cell)) : List Nat × List Nat := ((cs.flatten.flatMap (·.ma)).eraseDups, (cs.flatten.flatMap (·.mb)).eraseDups)

end Sys2Proof.Machine
end

