-- ==== Sys2Proof/Machine/Tensors.lean ====
section
/-! DEFINITION. The tensors of a command: descriptors as read at dispatch, saved tensors (R126 to R130, R345), the copies
of a weight version (R193, R343), calibration and layer entries (R146, R163), and the production of an output (R85, R139,
R149, R159, R160). -/

namespace Sys2Proof.Machine

/-! ## Descriptors and saved tensors -/

/-- The descriptor at a parameter offset, as read at dispatch (R344). -/
def Cmd.desc (x : Cmd) (off : Nat) : Desc := Desc.ofNat ((x.descs.find? (fun y => y.1 = off)).map (·.2) |>.getD 0)

/-- Always GRAD, or GRAD by the flag (R149). -/
def Cmd.isGrad (x : Cmd) : Bool :=
  x.op = 0x0302 || x.op = 0x0304 || x.op = 0x0602 || (x.hdr.grad && (x.op = 0x0301 || x.op = 0x0303 || x.op = 0x0305 || x.op = 0x0601))

/-- The parts of a compact E4M3 tensor laid out part by part at 64-byte boundaries (R128, R343). -/
def partsAt (base ftag lines len : Nat) (wide cross list : Bool) : Desc :=
  let d : Desc := { ftag := ftag, lines := lines, len := len, wide := wide, cross := cross, daddr := base }
  let sa := align64 (base + d.dataBytes)
  let ba := align64 (sa + 4 * lines * d.nb)
  let d := { d with saddr := sa, baddr := ba }
  let oa := align64 (if cross then d.crossAt + 2 * len else ba + 2 * lines)
  { d with oaddr := if list then oa else 0 }

/-- Bytes of such a tensor. -/
def Desc.endAt (d : Desc) : Nat := d.parts.foldl (fun n p => max n (p.1 + p.2)) d.daddr

/-- The layer whose operand a SAVE command saves (R126). ATTN_FWD has no LAYER parameter: its saved operand is named by CALLAYER of
QDESC. DESIGN CHOICE (log 24). -/
def State.savesLayer (s : State) (x : Cmd) : Option Nat :=
  if x.op = 0x0301 && bit (x.p 26 2) 2 then some (x.p 24 2)
  else if x.op = 0x0303 && bit (x.p 46 2) 1 then some (if x.runs then x.desc 0 else s.desc (x.addr 0)).calLayer
  else none

/-- The descriptor of a saved tensor's form: BF16 kept, E4M3 spilled (R128, R130). -/
def Saved.desc (v : Saved) : Desc :=
  if v.kept then { ftag := 6, lines := v.lines, len := v.len } else partsAt v.addr 2 v.lines v.len false true false

/-- The saved tensor that a name names, in a live micro-batch of the stall (R345). -/
def State.savedNamed (s : State) (k : Nat) (d : Desc) : Option Saved :=
  let n := d.saveName
  (s.stall k).bind (fun st => (st.batch (BitVec.ofNat 8 n.2.1)).bind (fun m => m.saved.find? (fun v => v.layer.toNat = n.1 && v.idx.toNat = n.2.2)))

/-- The tensor a descriptor names, a saved one included. -/
def State.operand (s : State) (k : Nat) (d : Desc) : Tensor :=
  if d.saved then
    match s.savedNamed k d with
    | some v =>
      if v.kept then
        { d := v.desc, blks := [], lineB := none, crossB := none
          wide := (List.range v.lines).map (fun l => (List.range v.len).map (fun i => bf16.read (fieldAt v.data (2 * (l * v.len + i)) 2))) }
      else s.tensor v.desc
    | none => s.tensor d
  else s.tensor d

/-- The descriptor of a tensor as it is stored: that of a saved tensor's kept or spilled form (R130). -/
def State.stored (s : State) (k : Nat) (d : Desc) : Desc := if d.saved then ((s.savedNamed k d).map Saved.desc).getD d else d

/-- The kept tensors that a dispatched command names lie, among others, in bay `b` (R133). -/
def State.readsBay (s : State) (x : Cmd) (b : Nat) : Bool :=
  x.descs.any (fun y => let d := Desc.ofNat y.2; d.saved && (match s.savedNamed x.stallNo d with | some v => v.kept && v.bays.getLsbD b | none => false))

/-- The command of an opcode that begins its work, unless it reads the activation store of a bay that is not ACTIVE (R133), or its stall has
no ACTIVE bay left (R423, R424): it waits while the bays are SUSPECT, and a fence ends it. -/
def State.reading (s : State) (c : CmdNo) (opcode : Nat) : Option Cmd :=
  match s.begins c opcode with
  | some x => if s.noBay x || (List.range 64).any (fun b => s.readsBay x b && !s.bayActive b) then none else some x
  | none => none

/-- Spans of memory that reading or writing a tensor touches. -/
def State.tensorSpans (s : State) (k : Nat) (d : Desc) : List (Nat × Nat) :=
  if d.saved then match s.savedNamed k d with | some v => if v.kept then [] else v.desc.parts | none => []
  else d.parts

/-! ## Weight copies (R193, R199, R343) -/

/-- The copies of a side. -/
inductive Copy where
  | bf16 | forward | backward | fallback
deriving DecidableEq, Repr

/-- The descriptor of a copy of a layer in the side at `base`. -/
def LayerEnt.copy (e : LayerEnt) (seed : U64) (base : Nat) (c : Copy) : Desc :=
  match c with
  | .bf16 => { daddr := base, ftag := 6, lines := e.lines.toNat, len := e.length.toNat }
  | .forward =>
    let d := partsAt (base + 4096 * e.ofwd.toNat) e.ffmt.toNat e.lines.toNat (if e.rot then 128 * ceilDiv e.length.toNat 128 else e.length.toNat) true false true
    { d with rot := e.rot, weightSide := e.rot, seed := if e.rot then seed.toNat else 0 }
  | .backward => partsAt (base + 4096 * e.obwd.toNat) 2 e.lines.toNat e.length.toNat false true false
  | .fallback =>
    let d := partsAt (base + 4096 * e.ofb.toNat) 2 e.lines.toNat (128 * ceilDiv e.length.toNat 128) false false false
    { d with rot := true, weightSide := true, seed := seed.toNat }

/-- The copies that a layer's side holds beside the BF16 copy (R193). -/
def LayerEnt.derived (e : LayerEnt) : List Copy :=
  (if e.ledger then [.forward] else []) ++ [.backward] ++ (if e.ledger && e.rot then [.fallback] else [])

/-- The side of a layer that a micro-batch reads: the one it pinned, or the current one (R194). -/
def State.pinnedSide (s : State) (st : Stall) (mb : Byte) (vaddr : Nat) : Bool :=
  match (st.batch mb).bind (fun m => m.pins.find? (fun p => p.1 = vaddr)) with
  | some p => p.2
  | none => (s.vers vaddr).cur

/-- A copy of the side a command reads. -/
def State.weightDesc (s : State) (st : Stall) (mb : Byte) (layer : Nat) (c : Copy) : Desc :=
  match st.layer layer with
  | some e => e.copy (layerSeed st.seed layer) (s.sideBase e.vaddr.toNat (s.pinnedSide st mb e.vaddr.toNat)) c
  | none => {}

/-! ## Calibration and layer entries (R146, R163, R164) -/

def Numerics.entry (n : Numerics) (layer slot : Nat) : Option CalEnt := n.now.cal.find? (fun e => e.layer.toNat = layer && e.slot.toNat = slot)
/-- A new entry takes the stall's defaults (R145, R146, R494). -/
def Numerics.fresh (n : Numerics) (layer slot : Nat) : CalEnt :=
  { layer := BitVec.ofNat 16 layer, slot := BitVec.ofNat 3 slot, cmin := n.defCmin, cmax := n.defCmax, target := n.defTarget, outl := n.defOutl, frozen := n.defFrozen }
/-- Create an entry on first use, if the region of `room` entries is not full (R146). -/
def Numerics.create (n : Numerics) (room layer slot : Nat) : Numerics :=
  if (n.entry layer slot).isSome || room ≤ n.now.cal.length then n else { n with now := { n.now with cal := n.now.cal ++ [n.fresh layer slot] } }
def Numerics.setEntry (n : Numerics) (e : CalEnt) : Numerics :=
  { n with now := { n.now with cal := n.now.cal.map (fun y => if y.layer = e.layer && y.slot = e.slot then e else y) } }
def Numerics.layer (n : Numerics) (l : Nat) : LayerNum := (n.now.layers.find? (fun y => y.layer.toNat = l)).getD { layer := BitVec.ofNat 16 l }
def Numerics.setLayer (n : Numerics) (e : LayerNum) : Numerics :=
  if n.now.layers.any (fun y => y.layer = e.layer) then { n with now := { n.now with layers := n.now.layers.map (fun y => if y.layer = e.layer then e else y) } }
  else { n with now := { n.now with layers := n.now.layers ++ [e] } }
/-- A layer is in fallback (R163). -/
def Stall.inFallback (st : Stall) (l : Nat) : Bool := (st.num.layer l).fallback
/-- Headroom of a block of a calibration entry (R160). -/
def CalEnt.headOf (e : CalEnt) (b : Nat) : Nat := ((e.headroom.find? (fun h => h.1.toNat = b)).map (fun h => h.2.toNat)).getD 0
/-- STARTUP, TEST or RECOVERY (R159). -/
def Numerics.special (n : Numerics) : Bool := n.now.hdr.mode != 0

/-- The headroom of the gradient entry of a layer (R160). -/
def Numerics.headroom (n : Numerics) (layer b : Nat) : Nat := match n.entry layer 4 with | some e => e.headOf b | none => 0

/-! ## Production of an output (R85, R139, R149, R159, R160) -/

/-- How a stall quantises a destination (R143, R82, R123). -/
def Stall.qopt (st : Stall) (d : Desc) : QOpt :=
  let base : QOpt := { tag := d.ftag, wide := d.wide, list := d.oaddr != 0 }
  if !d.calV then base
  else
    let e := (st.num.entry d.calLayer d.calSlot).getD (st.num.fresh d.calLayer d.calSlot)
    { base with clip := mkRat e.clip.toNat 32768, outl := e.outl, target := e.target.toNat, fallback := d.calSlot = 0 && d.wide && st.inFallback d.calLayer }

/-- The numerics state after a production: counts of the entry, of the layer, and the offending blocks. -/
def Numerics.tally (n : Numerics) (d : Desc) (m : Made) (grad : Bool) : Numerics :=
  if !d.calV then n
  else
    let n := if grad && d.ftag = 7 && d.calSlot = 4 then
        { n with gradAt := n.gradAt.filter (fun g => g.1 != d.calLayer) ++ [(d.calLayer, d.daddr, d.lines, d.inner)] } else n
    let n := match n.entry d.calLayer d.calSlot with
      | some e => n.setEntry { e with elems := satAdd e.elems m.elems, cands := satAdd e.cands m.cands }
      | none => n
    let n := if narrow d.ftag && d.calSlot ≤ 1 then
        let y := n.layer d.calLayer
        n.setLayer { y with blocks := satAdd y.blocks m.blocks, pcand := satAdd y.pcand m.cnt.promoCand, nofb := y.nofb || !d.wide }
      else n
    if grad && n.special && d.ftag = 7 && d.calSlot = 4 then
      { n with offending := n.offending ++ (m.offending.map (fun b => (d.calLayer, b))).filter (fun b => !n.offending.contains b) }
    else n

/-- Marks of a finished command: its non-finite flag, in a GRAD command also by saturation (R149), INEXACT and PROMOTED. -/
def State.flag (s : State) (c : CmdNo) (cnt : Cnt) (promoted : Bool) : State :=
  s.onCmd c (fun x => { x with nf := x.nf || cnt.nf || (x.isGrad && 0 < cnt.saturated), inexact := x.inexact || 0 < cnt.underwin, promoted := x.promoted || promoted })

/-- Change a stall's numerics. -/
def State.onNum (s : State) (k : Nat) (f : Numerics → Numerics) : State :=
  match s.stall k with | some st => s.setStall k (some { st with num := f st.num }) | none => s

/-- A command names a pair of layer and slot: its entry is there from now on (R146). -/
def State.nameEntry (s : State) (k layer slot : Nat) : State :=
  match s.stall k with
  | some st => s.onNum k (fun n => n.create st.numcal.toNat layer slot)
  | none => s

/-- The entries that a command's descriptors name (R146). -/
def State.nameEntries (s : State) (x : Cmd) : State :=
  (x.descs.map (fun y => Desc.ofNat y.2)).foldl (fun t d => if d.calV then t.nameEntry x.stallNo d.calLayer d.calSlot else t) s

/-- BF16 bytes of rows of values (R126). -/
def bf16Bytes (rows : List (List XVal)) : List Byte := rows.flatten.flatMap (fun v => bytesLE 2 (bf16.write v false false).1)

/-- The unrotated values of an output stay staged in BF16 beside the bytes written from them, with the bays that produced them (R94,
R126). -/
def State.stage (s : State) (d : Desc) (bays : U64) (plain : List (List XVal)) : State :=
  let t := { s with staging := s.staging.filter (fun y => y.addr != d.daddr) }
  if (narrow d.ftag || d.ftag = 6) && plain != [] then { t with staging := t.staging ++ [⟨d.daddr, t.readBytes d.daddr d.dataBytes, bf16Bytes plain, bays⟩] }
  else t

/-- Write an output from its exact values: quantised or rounded once, counted, calibrated and staged (R85, R94, R126). -/
def State.produce (s : State) (x : Cmd) (d : Desc) (rows : List (List (XVal × Bool))) (inex : List (List Bool)) (plain : List (List XVal)) : State :=
  let n := (s.stall x.stallNo).map (·.num)
  let o : QOpt := match s.stall x.stallNo with | some st => st.qopt d | none => { tag := d.ftag, wide := d.wide, list := d.oaddr != 0 }
  let head : Nat → Nat := fun b => match n with
    | some n => if n.special && d.calV && d.calSlot = 4 && d.ftag = 7 then n.headroom d.calLayer b else 0
    | none => 0
  let m := make d o (s.carried d) (if x.op = 0x0302 && x.p 30 2 % 2 = 1 then fun _ => 0 else head) rows inex
  let t := s.putMade x.no m
  let t := t.countOver m.cnt (maskBits x.bays.toNat 64)
  let t := t.onNum x.stallNo (fun n => n.tally d m x.isGrad)
  (t.flag x.no m.cnt false).stage d x.bays plain

/-- Set the INEXACT bit of blocks of an operand as it is stored, where the window grants write rights (R78, R130). -/
def State.markInexact (s : State) (x : Cmd) (d : Desc) (bs : List Nat) : State :=
  let d := s.stored x.stallNo d
  if !narrow d.ftag then s
  else bs.foldl (fun t b =>
    let a := d.saddr + 4 * b
    if allowed x.wins false true a 4 && !t.partPoisoned a 4 then t.put x.no a (bytesLE 4 (t.readNat a 4 ||| 16)) else t) s

/-! ## CONVERT of a stored tensor (R60, R139, R490) -/

/-- Values of an INT32 source under its per-tensor record (R61). The record's FTAG and ZPOINT are 0x9 and 0 by R61, which says
nothing of a record that holds others: the model does not read them. DESIGN CHOICE (log 64). -/
def int32Vals (rec_ : Nat) (rows : List (List (XVal × Bool))) : List (List (XVal × Bool)) :=
  rows.map (fun l => l.map (fun v =>
    if bits rec_ 31 24 = 255 then (.nan false, false)
    else match v.1 with | .fin q => (.ofRat (q * recScale rec_), false) | _ => (.zero false, false)))

/-- The values of a source, an INT32 one scaled (R61). -/
def State.sourceVals (s : State) (t : Tensor) : List (List (XVal × Bool)) :=
  if t.d.ftag = 9 then int32Vals (if t.d.saddr = 0 then 0 else s.readNat t.d.saddr 4) t.elems else t.elems

/-- The values a conversion reads from its source, rotated for a rotated destination (R61, R94). -/
def State.convertVals (s : State) (t : Tensor) (dst : Desc) : List (List (XVal × Bool)) :=
  let vs := s.sourceVals t
  if dst.rot && !t.d.rot then vs.map (fun l => (rotateLine (BitVec.ofNat 64 dst.seed) dst.weightSide (l.map (·.1))).map (fun v => (v, false)))
  else vs

/-- Subnormal elements of a source that a rotation reads as zero: they are counted as it reads them (R47, R94). -/
def Tensor.rotCnt (t : Tensor) (dst : Desc) : Cnt :=
  if dst.rot && !t.d.rot then { flushedIn := (t.elems.flatten.filter (·.2)).length } else {}

/-- Quantise a source under records supplied at the destination (R490). -/
def State.madeSupplied (s : State) (d : Desc) (target : Nat) (rows : List (List (XVal × Bool))) : Made :=
  let outs := (List.range rows.length).map (fun l => (List.range d.nb).map (fun k =>
    suppliedBlock d.ftag target (s.readNat (d.saddr + 4 * (l * d.nb + k)) 4) (lineBlock (rows.getD l []) k)))
  makeNarrow d d.ftag outs [] (rows.map List.length).sum true

/-- Convert a BF16 side copy into another copy of a side, promoted throughout for a layer in fallback (R193, R197). -/
def State.convertCopy (s : State) (x : Cmd) (st : Stall) (layer : Nat) (e : LayerEnt) (base : Nat) (c : Copy) : State :=
  let src := s.tensor (e.copy 0 base .bf16)
  let d := e.copy (layerSeed st.seed layer) base c
  let d := if c = .forward then { d with calV := true, calLayer := layer, calSlot := 1 } else d
  let rows := s.convertVals src d
  let o := if c = .forward then { st.qopt d with fallback := st.inFallback layer } else { tag := 2, clip := 1 }
  let m := make d o (fun _ => false) (fun _ => 0) rows []
  let t := s.putMade x.no m
  let t := t.countOver (m.cnt.add (src.rotCnt d)) ((List.range 64).filter (fun b => st.bays.toNat.testBit b && s.bayActive b))
  if c = .forward then (t.nameEntry x.stallNo layer 1).onNum x.stallNo (fun n => n.tally d m false) else t

/-- The stall under whose entries and on whose bays a publication of a version record is converted: the lowest-numbered loaded stall
that names the record, with the layer there (R462). -/
def State.pubStall (s : State) (vaddr : Nat) : Option (Nat × Stall × Nat × LayerEnt) :=
  s.stallsLoaded.findSome? (fun y => match y.2.layers.findIdx? (fun e => e.vaddr.toNat = vaddr) with
    | some l => (y.2.layer l).map (fun e => (y.1, y.2, l, e))
    | none => none)

/-- Every derived copy of a side. -/
def State.convertSide (s : State) (x : Cmd) (st : Stall) (layer : Nat) (e : LayerEnt) (base : Nat) : State :=
  e.derived.foldl (fun t c => match t.stall x.stallNo with | some st' => t.convertCopy x st' layer e base c | none => t.convertCopy x st layer e base c) s

end Sys2Proof.Machine
end

