-- ==== Sys2Proof/Machine/Numerics.lean ====
section
/-! DEFINITION. Step-close processing and the numerics commands (chapter 05): SET_MODE, SET_BOUNDS, SET_STARTLEN, SET_FLAGS,
LOSS_SCALE_SET, NUMERICS_STATS. -/

namespace Sys2Proof.Machine

/-- A stall's clock state: the worst of the ACTIVE bays of its set (R364). -/
def State.stallClock (s : State) (bays : U64) : Nat :=
  ((maskBits bays.toNat 64).filter s.bayActive).foldl (fun n b => max n (s.bay b).clockState) 0

/-! ## Records in memory (Tables 05-3, 05-6, 05-7) -/

def NumHeader.bytes (h : NumHeader) : List Byte :=
  bytesLE 32 (pack [(224, 32, h.step.toNat), (208, 16, h.clean.toNat), (192, 16, h.cleanlim.toNat), (176, 16, h.startleft.toNat), (160, 16, h.startlen.toNat),
    (152, 8, h.lsexp.toNat), (144, 8, h.lsmin.toNat), (136, 8, h.lsmax.toNat), (132, 4, h.mode.toNat), (128, 4, h.stormrun.toNat), (112, 16, h.recovleft.toNat),
    (96, 16, h.lspins.toNat), (64, 32, h.skips.toNat), (32, 32, h.flagged.toNat), (0, 1, b1 h.decision)])
def NumHeader.ofNat (v : Nat) : NumHeader :=
  { step := BitVec.ofNat 32 (bits v 255 224), clean := BitVec.ofNat 16 (bits v 223 208), cleanlim := BitVec.ofNat 16 (bits v 207 192)
    startleft := BitVec.ofNat 16 (bits v 191 176), startlen := BitVec.ofNat 16 (bits v 175 160), lsexp := BitVec.ofNat 8 (bits v 159 152)
    lsmin := BitVec.ofNat 8 (bits v 151 144), lsmax := BitVec.ofNat 8 (bits v 143 136), mode := BitVec.ofNat 4 (bits v 135 132)
    stormrun := BitVec.ofNat 4 (bits v 131 128), recovleft := BitVec.ofNat 16 (bits v 127 112), lspins := BitVec.ofNat 16 (bits v 111 96)
    skips := BitVec.ofNat 32 (bits v 95 64), flagged := BitVec.ofNat 32 (bits v 63 32), decision := bit v 0 }

def CalEnt.bytes (e : CalEnt) : List Byte :=
  bytesLE 32 (pack [(208, 48, e.elems.toNat), (160, 48, e.cands.toNat), (144, 16, e.cmax.toNat), (128, 16, e.cmin.toNat), (112, 16, e.target.toNat), (96, 16, e.clip.toNat),
    (80, 16, e.share.toNat), (64, 16, e.layer.toNat), (56, 8, e.pins.toNat), (48, 8, e.headroom.length), (45, 3, e.slot.toNat), (44, 1, b1 e.frozen), (43, 1, b1 e.outl)]) ++
  (List.range 64).flatMap (fun i => match e.headroom[i]? with | some (b, d) => bytesLE 4 (pack [(28, 4, d.toNat), (0, 28, b.toNat)]) | none => bytesLE 4 0)
def CalEnt.ofBytes (bs : List Byte) : CalEnt :=
  let v := fieldAt bs 0 32
  { layer := BitVec.ofNat 16 (bits v 79 64), slot := BitVec.ofNat 3 (bits v 47 45), elems := BitVec.ofNat 48 (bits v 255 208), cands := BitVec.ofNat 48 (bits v 207 160)
    cmax := BitVec.ofNat 16 (bits v 159 144), cmin := BitVec.ofNat 16 (bits v 143 128), target := BitVec.ofNat 16 (bits v 127 112), clip := BitVec.ofNat 16 (bits v 111 96)
    share := BitVec.ofNat 16 (bits v 95 80), pins := BitVec.ofNat 8 (bits v 63 56), frozen := bit v 44, outl := bit v 43
    headroom := (List.range (min 64 (bits v 55 48))).map (fun i => let w := fieldAt bs (32 + 4 * i) 4; (BitVec.ofNat 28 (bits w 27 0), BitVec.ofNat 4 (bits w 31 28))) }

def LayerNum.bytes (e : LayerNum) : List Byte :=
  bytesLE 16 (pack [(88, 40, e.blocks.toNat), (48, 40, e.pcand.toNat), (32, 16, e.layer.toNat), (24, 8, e.fbsteps.toNat), (1, 1, b1 e.nofb), (0, 1, b1 e.fallback)])
def LayerNum.ofNat (v : Nat) : LayerNum :=
  { layer := BitVec.ofNat 16 (bits v 47 32), blocks := BitVec.ofNat 40 (bits v 127 88), pcand := BitVec.ofNat 40 (bits v 87 48), fbsteps := BitVec.ofNat 8 (bits v 31 24), nofb := bit v 1, fallback := bit v 0 }

/-- The numerics region of a stall: header, NUMCAL entries with their headroom tables, one layer entry per layer (Table 12-14). -/
def History.region (h : History) (numcal lcount : Nat) : List Byte :=
  h.hdr.bytes ++ ((List.range numcal).flatMap (fun i => match h.cal[i]? with | some e => e.bytes | none => bytesLE 288 0)) ++
    ((List.range lcount).flatMap (fun l => ((h.layers.find? (fun y => y.layer.toNat = l)).getD { layer := BitVec.ofNat 16 l }).bytes))
def regionBytes (numcal lcount : Nat) : Nat := 32 + 288 * numcal + 16 * lcount

/-! ## The laws (R144, R154, R160, R163, R165) -/

/-- A numerics state with the PINNED events it raised. -/
abbrev Pinned := Numerics × Nat

/-- Loss-scale law of NORMAL (R154). -/
def lossLaw (h : NumHeader) (skip : Bool) : NumHeader × Nat :=
  if h.mode != 0 then (h, 0)
  else if skip then
    if h.lsexp.toNat ≤ h.lsmin.toNat then ({ h with clean := 0, lspins := satAdd h.lspins 1 }, 1) else ({ h with clean := 0, lsexp := h.lsexp - 1 }, 0)
  else
    let c := h.clean.toNat + 1
    if c < h.cleanlim.toNat then ({ h with clean := BitVec.ofNat 16 c }, 0)
    else if h.lsmax.toNat ≤ h.lsexp.toNat then ({ h with clean := 0, lspins := satAdd h.lspins 1 }, 1)
    else ({ h with clean := 0, lsexp := h.lsexp + 1 }, 0)

/-- A LOSS_SCALE_SET's values in place of the law (R155): parameters WHICH, LSEXP, LSMIN, LSMAX, CLEANLIM. -/
def setLoss (h : NumHeader) (ps : List Byte) : NumHeader :=
  let w := fieldAt ps 0 1
  { h with lsexp := if bit w 0 then BitVec.ofNat 8 (fieldAt ps 1 1) else h.lsexp, lsmin := if bit w 1 then BitVec.ofNat 8 (fieldAt ps 2 1) else h.lsmin
           lsmax := if bit w 2 then BitVec.ofNat 8 (fieldAt ps 3 1) else h.lsmax, cleanlim := if bit w 3 then BitVec.ofNat 16 (fieldAt ps 4 2) else h.cleanlim, clean := 0 }

/-- Move c to the nearer bound; a move is one PINNED event (R144, R145). -/
def CalEnt.bound (e : CalEnt) (c : Nat) : CalEnt × Nat :=
  let k := if e.cmax.toNat < c then e.cmax.toNat else if c < e.cmin.toNat then e.cmin.toNat else c
  ({ e with clip := BitVec.ofNat 16 k, pins := if k = c then e.pins else satAdd e.pins 1 }, if k = c then 0 else 1)

/-- Clip-ratio law of an entry (R144): TEST and FROZEN hold it, SHARE with it; counts are cleared. -/
def CalEnt.close (e : CalEnt) (test : Bool) : CalEnt × Nat :=
  let c := e.clip.toNat
  let f := min 0xFFFF (roundNat (mkRat (e.cands.toNat * 65536 : Nat) (max 1 e.elems.toNat)))
  let t := e.target.toNat
  let acts := !test && e.elems != 0 && !e.frozen
  let c' := if !acts then c else if 2 * t < f then roundNat (mkRat (c * 17 : Nat) 16) else if 2 * f < t then roundNat (mkRat (c * 63 : Nat) 64) else c
  let (e', n) := e.bound c'
  ({ e' with share := if acts then BitVec.ofNat 16 f else e.share, elems := 0, cands := 0 }, n)

/-- Headroom law for one offending block of an entry: the entry, and whether the block got nothing (R160). -/
def CalEnt.raise (e : CalEnt) (b : Nat) : CalEnt × Bool :=
  match e.headroom.find? (fun h => h.1.toNat = b) with
  | some h => if h.2 = 15 then (e, true) else ({ e with headroom := e.headroom.map (fun y => if y.1 = h.1 then (y.1, y.2 + 1) else y) }, false)
  | none => if 64 ≤ e.headroom.length then (e, true) else ({ e with headroom := e.headroom ++ [(BitVec.ofNat 28 b, 1)] }, false)

/-- Headroom law of a stall: the state and the number of blocks counted in HEADROOM_FULL (R160). An offending block was recorded
under an entry that its command named, so the entry is there (R146). -/
def Numerics.raiseAll (n : Numerics) : Numerics × Nat :=
  n.offending.foldl (fun (acc : Numerics × Nat) (p : Nat × Nat) =>
    match acc.1.entry p.1 4 with
    | some e => let (e', full) := e.raise p.2; (acc.1.setEntry e', acc.2 + b1 full)
    | none => acc) (n, 0)

/-- Fallback law of a layer (R163, R164): ledger-mode layers; TEST freezes it. -/
def LayerNum.close (e : LayerNum) (ledger test : Bool) : LayerNum :=
  let fb := if test || !ledger || e.blocks = 0 then e.fallback
    else if !e.fallback then !e.nofb && decide (e.blocks.toNat < 16 * e.pcand.toNat)
    else !decide (64 * e.pcand.toNat < e.blocks.toNat)
  { e with fallback := fb, fbsteps := if fb then satAdd e.fbsteps 1 else 0, blocks := 0, pcand := 0 }

/-- A storm: of the ledger-mode layers given, one without NOFB exists, and each such layer has FALLBACK set (R165). A layer whose
entry stands at its reset values is none of these in fallback. -/
def stormAt (ledger : List Nat) (ls : List LayerNum) : Bool :=
  let q := (ledger.map (fun l => (ls.find? (fun e => e.layer.toNat = l)).getD { layer := BitVec.ofNat 16 l })).filter (fun e => !e.nofb)
  q != [] && q.all (·.fallback)

/-- Entry to a mode (R161). -/
def History.enter (h : History) (mode : BitVec 4) : History :=
  let hd := { h.hdr with mode := mode }
  if mode = 1 then { h with hdr := { hd with startleft := hd.startlen } }
  else if mode = 3 then { h with hdr := { hd with recovleft := 64, stormrun := 0 } }
  else if mode = 0 then { h with hdr := hd, cal := h.cal.map (fun e => { e with headroom := [] }) }
  else { h with hdr := hd }

/-- The headroom tables in force, by layer (R160). -/
def Numerics.heads (n : Numerics) : List (Nat × List (BitVec 28 × BitVec 4)) :=
  (n.now.cal.filter (fun e => e.slot = 4 && e.headroom != [])).map (fun e => (e.layer.toNat, e.headroom))

/-- What a close decides beside the new state. -/
structure Closed where
  num : Numerics
  skip : Bool
  pinned : Nat
  full : Nat
  storm : Bool
  recovery : Bool
deriving DecidableEq, Repr

/-- Step-close processing in the order of R151: `ledger` are the stall's ledger-mode layers, `f` and `nrm` the flag and the NORMAL bit,
or their ORs over the group. -/
def Numerics.close (n : Numerics) (ledger : List Nat) (f nrm : Bool) : Closed :=
  let skip := f && nrm
  let mode := n.now.hdr.mode
  let test := mode = 2
  let hd : NumHeader := { n.now.hdr with decision := skip, skips := if skip then satAdd n.now.hdr.skips 1 else n.now.hdr.skips, flagged := satAdd n.now.hdr.flagged n.offending.length }
  let (hd, p1) : NumHeader × Nat := match n.reqLoss with | some r => (setLoss hd r.2, 0) | none => lossLaw hd skip
  let cals : List (CalEnt × Nat) := n.now.cal.map (fun e => e.close test)
  let p2 : Nat := (cals.map (·.2)).sum
  let n1 : Numerics := { n with now := { n.now with hdr := hd, cal := cals.map (·.1) } }
  let (n2, full) : Numerics × Nat := if mode = 1 || mode = 3 then n1.raiseAll else (n1, 0)
  let ls : List LayerNum := n2.now.layers.map (fun e => e.close (ledger.contains e.layer.toNat) test)
  let entered := (List.zip n2.now.layers ls).any (fun (p : LayerNum × LayerNum) => !p.1.fallback && p.2.fallback)
  let storm := stormAt ledger ls
  let run := if mode != 0 then hd.stormrun.toNat else if storm then min 15 (hd.stormrun.toNat + 1) else 0
  let left := if storm || entered then 64 else hd.recovleft.toNat - 1
  let sleft := hd.startleft.toNat - 1
  let hd : NumHeader := { hd with stormrun := BitVec.ofNat 4 run, recovleft := if mode = 3 then BitVec.ofNat 16 left else hd.recovleft, startleft := if mode = 1 then BitVec.ofNat 16 sleft else hd.startleft, startlen := match n.reqStartlen with | some r => r.2 | none => hd.startlen }
  let h : History := { hdr := hd, cal := n2.now.cal, layers := ls }
  let recovery := mode = 0 && storm && 8 ≤ run && n.reqMode.isNone
  let h := match n.reqMode with
    | some r => h.enter r.2
    | none => if recovery then h.enter 3 else if mode = 1 && sleft = 0 then h.enter 0 else if mode = 3 && left = 0 then h.enter 0 else h
  let closed := n.now.hdr.step.toNat
  let h := { h with hdr := { h.hdr with step := h.hdr.step + 1 } }
  { num := { n2 with now := h, closed := h, reqMode := none, reqStartlen := none, reqLoss := none, stepFlag := false, groupNf := false, groupNrm := false, offending := [], decisions := n.decisions ++ [(closed, skip, n.offending)], closedHeads := n.closedHeads ++ [(closed, n.heads)], historyLost := false, inStorm := storm }, skip := skip, pinned := p1 + p2, full := full, storm := storm && !n.inStorm, recovery := recovery }

/-! ## What a checkpoint keeps of a close (R356, Table 12-25, log 32) -/

/-- A counted item: its length in 8 bytes, then its bytes (log 32). -/
def item (bs : List Byte) : List Byte := bytesLE 8 bs.length ++ bs

/-- CONTEXT: the layer table, the windows, the seed, the bay set, the budget and NUMCAL. -/
def Stall.contextBytes (st : Stall) : List Byte :=
  item (st.layers.flatMap (fun e => bytesLE 32 e.toNat)) ++ (List.range 16).flatMap (fun k => bytesLE 16 ((tget {} st.windows k).toNat k)) ++
    bytesLE 8 st.seed.toNat ++ bytesLE 8 st.bays.toNat ++ bytesLE 2 st.budget.toNat ++ bytesLE 2 st.numcal.toNat

/-- The rounds of a stall: loaded programs with a step that names it (log 32). -/
def State.roundsOf (s : State) (k : Nat) : List (Nat × Round) :=
  (List.range 8).filterMap (fun r => (s.round r).bind (fun rd => if rd.steps.any (fun st => (Header.ofBytes st.packet).stall.toNat = k) then some (r, rd) else none))

/-- One round of ROUNDS: number, MARK, iteration count, steps. -/
def roundItem (r : Nat) (rd : Round) : List Byte :=
  item (bytesLE 1 r ++ bytesLE 1 (b1 rd.mark) ++ bytesLE 4 (match rd.run with | some run => run.iter.toNat | none => rd.iter.toNat) ++
    rd.steps.flatMap (fun st => slice st.packet 0 64 ++ bytesLE 8 st.ctl.toNat))

/-- ROUNDS of a stall. -/
def State.roundsBytes (s : State) (k : Nat) : List Byte := (s.roundsOf k).flatMap (fun r => roundItem r.1 r.2)

/-- Count HEADROOM_FULL in a bay of the stall: which one is free (log 22). -/
def State.headroomFull (s : State) (bays : U64) (n : Nat) : State :=
  let bs := maskBits bays.toNat 64
  if n = 0 || bs = [] then s
  else
    let (v, t) := s.fresh 6 0
    let b := bs.getD (v % bs.length) 0
    t.setBay b { t.bay b with ctrs := { (t.bay b).ctrs with headroomFull := satAdd (t.bay b).ctrs.headroomFull n } }

/-- Consecutive closes at which the stall was THROTTLED at arrival; above the threshold a remap recommendation, one in each such run
(R389, log 32). -/
def State.countThrottled (s : State) (k : Nat) : State :=
  match s.stall k with
  | none => s
  | some st =>
    let n := if st.num.arrived = 2 then st.num.throttledCloses + 1 else 0
    let beyond := s.mg.throttleLimit.toNat < n
    let t := s.onNum k (fun m => { m with throttledCloses := n, throttleTold := n != 0 && (m.throttleTold || beyond) })
    if beyond && !st.num.throttleTold then t.remapMsg 1 else t

/-- Processing of a close of stall `k` by command `x` (R151, R156, R161, R162, R165, R167). -/
def State.closeStep (s : State) (x : Cmd) (k : Nat) (st : Stall) (group : Bool) : State :=
  let n := st.num
  let ledger := (List.range st.layers.length).filter (fun l => match st.layer l with | some e => e.ledger | none => false)
  let f := if group then n.groupNf else n.stepFlag
  let nrm := if group then n.groupNrm else n.now.hdr.mode = 0
  let r := n.close ledger f nrm
  let t := s.setStall k (some { st with num := r.num, atClose := some (st.contextBytes, s.roundsBytes k) })
  let t := t.headroomFull st.bays r.full
  let t := if 0 < r.pinned || r.storm then t.pinnedEvent else t
  let t := if r.recovery then t.note { cls := 5, code := 1, unit := clerkCode, stall := BitVec.ofNat 8 k, syndrome := 0 } else t
  let t := t.countThrottled k
  let t := t.put x.no st.numaddr.toNat (r.num.now.region st.numcal.toNat st.layers.length)
  let t := match n.reqMode with | some q => t.doneCmd q.1 | none => t
  let t := match n.reqStartlen with | some q => t.doneCmd q.1 | none => t
  let t := match n.reqLoss with | some q => t.doneCmd q.1 | none => t
  (t.onCmd x.no (fun y => { y with skipped := r.skip, histLost := n.historyLost })).doneCmd x.no

def execStepCloseProcessing (c : CmdNo) (s : State) : Host.Outcome State Fault Refusal :=
  .next (match s.cmd c with
    | none => s
    | some x =>
      if x.op = 0x0403 && x.phase = .working && x.p 0 1 = 1 && x.stage = 1 then
        match s.stall x.stallNo with
        | some st => s.closeStep x x.stallNo st (x.addr 16 != 0)
        | none => s
      else s)

/-! ## NUMERICS_MODE and LOSS_SCALE_SET (R145, R155, R161, R162, R494) -/

/-- The running NUMERICS_MODE `c` of an action, with its stall. -/
def State.modeCmd (s : State) (c : CmdNo) (action : Nat) : Option (Cmd × Stall) :=
  match s.running c 0x0403 with
  | some x => if x.p 0 1 = action then (s.stall x.stallNo).map (fun st => (x, st)) else none
  | none => none

/-- A later setting replaces an earlier one, which completes with REFUSED_STATE (R155, R161, R162). -/
def State.replaced (s : State) (old : Option CmdNo) : State :=
  match old with | some c => s.endCmd c 0x13 0xFFFF | none => s

def execSetMode (c : CmdNo) (s : State) : Host.Outcome State Fault Refusal :=
  .next (match s.modeCmd c 2 with
    | some (x, st) => (((s.replaced (st.num.reqMode.map (·.1))).onNum x.stallNo (fun n => { n with reqMode := some (c, BitVec.ofNat 4 (x.p 1 1)) })).workOn c)
    | none => s)

def execSetStartlen (c : CmdNo) (s : State) : Host.Outcome State Fault Refusal :=
  .next (match s.modeCmd c 4 with
    | some (x, st) => (((s.replaced (st.num.reqStartlen.map (·.1))).onNum x.stallNo (fun n => { n with reqStartlen := some (c, BitVec.ofNat 16 (x.p 12 2)) })).workOn c)
    | none => s)

def execLossScaleSet (c : CmdNo) (s : State) : Host.Outcome State Fault Refusal :=
  .next (match s.running c 0x0404 with
    | some x =>
      match s.stall x.stallNo with
      | some st => (((s.replaced (st.num.reqLoss.map (·.1))).onNum x.stallNo (fun n => { n with reqLoss := some (c, x.params) })).workOn c)
      | none => s
    | none => s)

/-- The entries a SLOT parameter selects, changed; SLOT 0 to 7 creates its entry (R145, R494). -/
def Numerics.select (n : Numerics) (room layer slot : Nat) (f : CalEnt → CalEnt) : Numerics :=
  let n := if slot ≤ 7 then n.create room layer slot else n
  { n with now := { n.now with cal := n.now.cal.map (fun e =>
      if slot = 0xFE || (e.layer.toNat = layer && (slot = 0xFF || e.slot.toNat = slot)) then f e else e) } }

def execSetBounds (c : CmdNo) (s : State) : Host.Outcome State Fault Refusal :=
  .next (match s.modeCmd c 3 with
    | some (x, st) =>
      let lo := BitVec.ofNat 16 (x.p 6 2)
      let hi := BitVec.ofNat 16 (x.p 8 2)
      let tg := BitVec.ofNat 16 (x.p 10 2)
      (s.onNum x.stallNo (fun n =>
        let n := n.select st.numcal.toNat (x.p 2 2) (x.p 4 1) (fun e => { e with cmin := lo, cmax := hi, target := tg })
        if x.p 4 1 = 0xFE then { n with defCmin := lo, defCmax := hi, defTarget := tg } else n)).doneCmd c
    | none => s)

def execSetFlags (c : CmdNo) (s : State) : Host.Outcome State Fault Refusal :=
  .next (match s.modeCmd c 5 with
    | some (x, st) =>
      let o := bit (x.p 14 1) 0
      let f := bit (x.p 14 1) 1
      (s.onNum x.stallNo (fun n =>
        let n := n.select st.numcal.toNat (x.p 2 2) (x.p 4 1) (fun e => { e with outl := o, frozen := f })
        if x.p 4 1 = 0xFE then { n with defOutl := o, defFrozen := f } else n)).doneCmd c
    | none => s)

/-! ## NUMERICS_STATS (R148, Table 05-4) -/

def BayCtrs.bytes (x : BayCtrs) (bay : Nat) (time : U64) : List Byte :=
  bytesLE 128 (pack [(832, 8, bay), (768, 64, time.toNat), (640, 64, x.headroomFull.toNat), (576, 64, x.promoCand.toNat), (512, 64, x.int32wrap.toNat), (448, 64, x.promoted.toNat),
    (384, 64, x.outliers.toNat), (320, 64, x.underwin.toNat), (256, 64, x.nonfinite.toNat), (192, 64, x.saturated.toNat), (128, 64, x.clipped.toNat), (64, 64, x.flushedOut.toNat),
    (0, 64, x.flushedIn.toNat)])

/-- What NUMERICS_STATS writes: the named bays' records, then the stall's copy of its last close. The copy has the layout of the
numerics region: each entry with its headroom table, unused entries as zeros. DESIGN CHOICE (log 65). -/
def State.numericsStats (s : State) (x : Cmd) : List Byte :=
  (maskBits (x.p 0 8) 64).flatMap (fun b => (s.bay b).ctrs.bytes b s.clk.time) ++
    (match s.stall x.stallNo with
      | some st => if bit (x.p 16 2) 1 then st.num.closed.region st.numcal.toNat st.layers.length else []
      | none => [])

def execNumericsStats (c : CmdNo) (s : State) : Host.Outcome State Fault Refusal :=
  .next (match s.begins c 0x0405 with
    | some x =>
      let t := s.put c (x.addr 8) (s.numericsStats x)
      let t := if bit (x.p 16 2) 0 then (maskBits (x.p 0 8) 64).foldl (fun t b => t.setBay b { t.bay b with ctrs := {} }) t else t
      t.doneCmd c
    | none => s.stopped c 0x0405)

end Sys2Proof.Machine
end

