-- ==== Sys2Proof/Machine/Ostler.lean ====
section
/-! DEFINITION. The Ostlers (chapter 08): requests, arbitration boundaries, locks, ALIVE, priority offsets and their
counters. -/

namespace Sys2Proof.Machine

/-- CLASS of an Ostler: 0 Tier N, 1 Tier M, 2 Tier F channel, 3 Granary port, 4 Abond egress (Tables 08-1, 08-5). -/
def ostlerClass (o : Nat) : Nat := if o < 512 then 0 else if o < 640 then 1 else if o < 736 then 2 else if o < 744 then 3 else 4

/-- Compute die an Ostler belongs to (Tables 07-2, 08-1). -/
def ostlerDie (o : Nat) : Nat :=
  match ostlerClass o with
  | 0 => o / 128 | 1 => (o - 512) / 32 | 2 => (o - 640) / 24 | 3 => (o - 736) / 2 | _ => (o - 744) / 16

/-- Stack of a memory channel, by STACK code (Table 08-1). -/
def ostlerStack (o : Nat) : Option Nat :=
  match ostlerClass o with
  | 0 => some (o / 32) | 1 => some (16 + (o - 512) / 16) | 2 => some (24 + (o - 640) / 4) | _ => none

/-- A slot that the Ostler serves (Table 08-2). -/
def slotUsed (o slot : Nat) : Bool :=
  match ostlerClass o with
  | 0 => slot ≤ 17 || slot = 20 || (ostlerDie o = 0 && slot ≤ 19)
  | 1 => slot ≤ 17 || slot = 20 || (ostlerDie o = 0 && slot ≤ 19)
  | 2 => slot ≤ 1
  | 3 => slot ≤ 1
  | _ => slot ≤ 19

/-- Highest used slot, SLOTS of OSTL_INFO. -/
def topSlot (o : Nat) : Nat := match ostlerClass o with | 0 => 20 | 1 => 20 | 2 => 1 | 3 => 1 | _ => 19

/-- Cycles of the Ostler's clock up to tick `at_` (Table 08-1); NOW is this number modulo 2^16. A port's link island keeps the cycles it
ran before its last change of rate. -/
def State.cyclesAt (s : State) (o at_ : Nat) : Nat :=
  match ostlerClass o with
  | 0 => at_ * 175 / 128
  | 1 => at_ * 125 / 128
  | 2 => at_ * 25 / 32
  | 3 => at_ * 8 / 5
  | _ => (s.port (o - 744)).cycles at_
def State.cycles (s : State) (o : Nat) : Nat := s.cyclesAt o s.clk.ticks

/-- Edges of the Ostler's clock that fall in the present nanosecond: 0, 1 or 2. -/
def State.edges (s : State) (o : Nat) : Nat := if s.clk.ticks = 0 then 1 else s.cycles o - s.cyclesAt o (s.clk.ticks - 1)

/-- The edge on which a command of the Ostler stands: the last of the present nanosecond, or the earlier of its two; where none falls in
it, the next one. -/
def State.edge (s : State) (o : Nat) (early : Bool) : Nat :=
  let n := s.cycles o
  match s.edges o with
  | 0 => n + 1
  | 1 => n
  | _ => if early then n - 1 else n

/-- Slack at the latch: (DL − NOW) as a 16-bit signed number, with 0x8000 read as −32,767 (R230). -/
def slackAt (dl : U16) (now : Nat) : Int := max (-32767) (sgn 16 ((dl - BitVec.ofNat 16 now).toNat))

/-- Slack of a waiting request at a cycle (R230). -/
def Request.slack (r : Request) (now : Nat) : Int := max (-32767) (r.slack0 - ((now - r.latched : Nat) : Int))

/-- The cycle at which the slack falls from 0 to −1, if it has not yet (R238). -/
def Request.crosses (r : Request) : Option Nat := if 0 ≤ r.slack0 then some (r.latched + r.slack0.toNat + 1) else none

/-- Effective slack: slack plus the active offset, exactly (R231). -/
def Ostler.effective (x : Ostler) (slot : Nat) (r : Request) (now : Nat) : Int :=
  r.slack now + sgn 12 (tget (0 : BitVec 12) x.active slot).toNat

/-- The request a slot presents: its oldest (R228), unless the slot is masked or rose on this edge (R239). -/
def Ostler.front (x : Ostler) (slot now : Nat) : Option Request :=
  if tget false x.masked slot || now < tget 0 x.rising slot then none
  else (tget ([] : List Request) x.queue slot).head?

/-- Eighths of the path that a slot may use: memory cuts bind bay, Miller, Clerk and CXL slots (R376), a hot stack and
the brake every slot of their kind (R372, R382). -/
def State.eighths (s : State) (o slot : Nat) : Nat :=
  let cls := ostlerClass o
  let cut : Nat := if cls = 4 then (if slot = 19 then 8 else if s.tal.braked then 1 else 8 - s.tal.cutL)
    else if (cls ≤ 1 && (slot ≤ 15 || slot = 18 || slot = 19)) || (cls ≥ 2 && slot = 0) then (if s.tal.braked then 2 else 8 - s.tal.cutM)
    else 8
  let hot : Nat := match ostlerStack o with | some k => if (s.stack k).halfRate then 4 else 8 | none => 8
  max 1 (min cut hot)

/-- A slot takes part in a boundary: limited slots not before `resumeAt`; slot 19 of an egress once in 64 flit times
while traffic waits (R256, R376, R382). -/
def State.eligible (s : State) (o : Nat) (x : Ostler) (now slot : Nat) : Bool :=
  (x.front slot now).isSome &&
    (if ostlerClass o = 4 && slot = 19 then
      !((List.range 19).any (fun k => (x.front k now).isSome)) ||
        (match x.linkAt with | none => true | some t => decide ((s.port (o - 744)).flits64 ≤ (s.clk.ticks - t) * 1000))
    else s.eighths o slot = 8 || decide (x.resumeAt ≤ 840 * now))

/-- Slots in the order of R233: from the one after the last granted, wrapping. -/
def slotOrder (last : Nat) : List Nat := (List.range 21).map (fun i => (last + 1 + i) % 21)

/-- The slot granted at a boundary (R233). -/
def State.winner (s : State) (o : Nat) (x : Ostler) (now : Nat) : Option Nat :=
  if ostlerClass o = 4 && s.eligible o x now 19 then some 19
  else
    ((slotOrder x.last).filter (s.eligible o x now)).foldl (fun (acc : Option Nat) k =>
      match acc with
      | none => some k
      | some j =>
        match x.front j now, x.front k now with
        | some a, some b => if x.effective k b now < x.effective j a now then some k else some j
        | _, _ => some j) none

/-- Count a transfer granted (R234, R238, Table 08-8); its beats count as they move. -/
def OstlerCtrs.grant (c : OstlerCtrs) (slot : Nat) (r : Request) (now : Nat) (time : U64) : OstlerCtrs :=
  let sl := r.slack now
  let c := { c with waitcyc := satAdd c.waitcyc (now - r.latched), xfers := satAdd c.xfers 1 }
  if 0 ≤ sl then c
  else
    let late := (-sl).toNat
    let c := { c with worstlate := if c.worstlate.toNat < late then BitVec.ofNat 16 (min late 0xFFFF) else c.worstlate
                      lastslot := BitVec.ofNat 8 slot, lasttime := time }
    if r.underLock then { c with lockmiss := satAdd c.lockmiss 1 } else { c with miss := satAdd c.miss 1 }

/-- Mark the waiting requests of other slots whose slack crosses 0 while a lock holds cycles `from_` to `to_` (R238). -/
def markUnder (q : TMap (List Request)) (slot from_ to_ : Nat) : TMap (List Request) :=
  q.map (fun (k, rs) => if k = slot then (k, rs) else (k, rs.map (fun r =>
    match r.crosses with
    | some e => if from_ ≤ e && e ≤ to_ then { r with underLock := true } else r
    | none => r)))

/-- A beat of the Ostler in 257ths of its cycle: one cycle, or at an egress 544/257 of one on eight lanes (Table 08-1). -/
def State.beatTime (s : State) (o : Nat) : Nat := if ostlerClass o = 4 then 544 * 8 / (s.port (o - 744)).lanes else 257

/-- When the last beat of the transfer in progress ends, in 257ths of a cycle. -/
def Ostler.ends (x : Ostler) : Nat := x.busyUntil * 257 - x.spare

/-- BEATS with every beat that has moved by an edge (R242). -/
def Ostler.moved (x : Ostler) (now unit : Nat) : Ostler :=
  let left := if x.busy then min x.due (ceilDiv (x.ends - now * 257) (max 1 unit)) else 0
  { x with due := left, ctrs := { x.ctrs with beats := satAdd x.ctrs.beats (x.due - left) } }

/-- When a limited slot may be granted again after a transfer of `d` cycles that was granted at `now`: `eighths` of the path's time are
its own over a run of transfers, none of which is saved for a path that was idle (R376). -/
def Ostler.paced (x : Ostler) (now d eighths : Nat) : Nat :=
  if 8 ≤ eighths then x.resumeAt
  else (if 840 * now < x.resumeAt + 840 then x.resumeAt else 840 * now) + 6720 * d / eighths

/-- Grant the transfer that a slot presents: its beats follow those of a transfer that ends on this edge without a gap (R232). -/
def Ostler.run (x : Ostler) (slot now unit eighths : Nat) (r : Request) (time : U64) : Ostler :=
  let stop := now * 257 - (if x.busy && x.busyUntil = now then x.spare else 0) + r.beats * unit
  let last := ceilDiv stop 257
  let x := x.moved now unit
  { x with queue := tset [] x.queue slot ((tget ([] : List Request) x.queue slot).drop 1), ctrs := x.ctrs.grant slot r now time, last := slot
           busy := true, busyUntil := last, spare := last * 257 - stop, resumeAt := x.paced now (last - now) eighths, due := r.beats }

/-- A transfer that holds the path in a locked sequence with `left` beats to follow. -/
def Ostler.hold (x : Ostler) (slot now left : Nat) : Ostler :=
  { x with lock := some (slot, left), queue := markUnder x.queue slot (now + 1) x.busyUntil }

/-- Grant a slot at a boundary: a transfer, which begins a locked sequence where it carries LOCK (R233, R236). -/
def Ostler.grantSlot (x : Ostler) (slot now unit eighths ticks : Nat) (time : U64) : Ostler :=
  match tget ([] : List Request) x.queue slot with
  | [] => x
  | r :: _ =>
    let y := { x.run slot now unit eighths r time with linkAt := if slot = 19 then some ticks else x.linkAt }
    match r.lock with
    | some l => { y with ctrs := { y.ctrs with locks := satAdd y.ctrs.locks 1 } }.hold slot now (l - r.beats)
    | none => { y with lock := none }

/-- Apply a waiting COMMIT: every shadow offset becomes active together (R241). -/
def Ostler.applyCommit (x : Ostler) : Ostler :=
  if x.pending then { x with active := x.shadow, pending := false, ctrs := { x.ctrs with commits := satAdd x.ctrs.commits 1 } } else x

/-- The transfer in progress, if any, has moved its last beat. -/
def Ostler.rests (x : Ostler) (now : Nat) : Bool := !x.busy || decide (x.busyUntil ≤ now)

/-- The request with which a locked sequence goes on at the last beat of one of its transfers: its slot's next, where it is ready and fits
in the beats left. A LOCK of its own starts no sequence within the sequence. DEDUCED (log 53). -/
def Ostler.follows (x : Ostler) (now : Nat) : Option (Nat × Nat × Request) :=
  match x.lock with
  | some (k, left) => if x.busy && x.busyUntil = now then (x.front k now).bind (fun r => if r.beats ≤ left then some (k, left, r) else none) else none
  | none => none

/-- An edge is a boundary: nothing in progress, or the last beat of a transfer, and of a locked sequence its last beat only (R232). -/
def Ostler.boundary (x : Ostler) (now : Nat) : Bool := x.rests now && (x.follows now).isNone

/-- An edge of the Ostler's clock: a boundary's decision, or the next transfer of a locked sequence. -/
def execArbitrationBoundary (o : Fin 808) (s : State) (early : Bool := false) : Host.Outcome State Fault Refusal :=
  let x := s.ostler o.val
  let now := s.edge o.val early
  .next (if s.edges o.val = 0 || !x.rests now then s
    else match x.follows now with
      | some (k, left, r) => s.setOstler o.val ((x.run k now (s.beatTime o.val) (s.eighths o.val k) r s.clk.time).hold k now (left - r.beats))
      | none =>
        let x := x.applyCommit
        match s.winner o.val x now with
        | some slot => s.setOstler o.val (x.grantSlot slot now (s.beatTime o.val) (s.eighths o.val slot) s.clk.ticks s.clk.time)
        | none => s.setOstler o.val { x with busy := false, lock := none })

/-- Latch a request (R229, R230); one whose slack falls below 0 while another slot's locked transfer is in progress is marked (R238). -/
def Ostler.latch (x : Ostler) (slot : Nat) (r : Request) (now : Nat) : Ostler :=
  let under := match x.lock, r.crosses with
    | some (k, _), some e => x.busy && k != slot && now ≤ x.busyUntil && e ≤ x.busyUntil
    | _, _ => false
  { x with queue := tset [] x.queue slot (tget ([] : List Request) x.queue slot ++ [{ r with underLock := under }]) }

/-- The unit of a requester slot (Tables 08-2, 12-11). Requests through the Yard, and those of slots that several units share, carry the
Clerk's code, those of a switch slice its lowest port's. DEDUCED (log 53). -/
def slotUnit (o slot : Nat) : U16 :=
  let d := ostlerDie o
  match ostlerClass o with
  | 0 | 1 => if slot ≤ 15 then bayCode (16 * d + slot) else if slot = 16 then engineCode d else if slot = 19 then cxlCode else if slot = 20 then portCode (16 * d) else clerkCode
  | 2 => if slot = 0 then millerCode ((o - 640) / 12) else clerkCode
  | 3 => if slot = 0 then millerCode (o - 736) else clerkCode
  | _ => if slot ≤ 15 then portCode (16 * d + slot) else if slot = 16 then engineCode d else if slot = 19 then portCode (o - 744) else clerkCode

/-- A domain without power (R399): a unit in BO, DO or MS, and after a thermal trip all that the compute dies and the Millers hold. -/
def State.unpowered (s : State) (u : Nat) : Bool :=
  let p := (s.power u).state
  p = .bo || p = .do_ || p = .ms || (u < 140 && s.brd.trip)

/-- What drives a slot's requests and ALIVE has no power: they read as 0 at the domain's edge (R399). The Clerk's own island keeps its power. -/
def State.clamped (s : State) (o slot : Nat) : Bool :=
  if ostlerClass o ≤ 1 && slot = 20 then s.unpowered (136 + ostlerDie o)
  else match powerIndex (slotUnit o slot).toNat with | some u => u < 140 && s.unpowered u | none => false

/-- A request: one that has no deadline carries NOW + 32,767 (R229), and link control is never locked (R233). -/
def execOstlerRequest (o : Fin 808) (slot : Fin 21) (dl : Option U16) (beats : Nat) (lock : Option Nat) (c : Option CmdNo) (s : State) (early : Bool := false) :
    Host.Outcome State Fault Refusal :=
  let x := s.ostler o.val
  let now := s.edge o.val early
  let lock := if ostlerClass o.val = 4 && slot.val = 19 then none else lock
  let dl := dl.getD (BitVec.ofNat 16 (now + 32767))
  .next (
    if !slotUsed o.val slot.val || s.clamped o.val slot.val || tget false x.masked slot.val then s
    else if (match lock with | some l => decide (16 < l) | none => false) then
      let t := s.setOstler o.val { x with ctrs := { x.ctrs with lockrefused := satAdd x.ctrs.lockrefused 1 } }
      let r : ErrRec := { cls := 6, code := 2, unit := slotUnit o.val slot.val, syndrome := BitVec.ofNat 128 (pack [(124, 4, 0xD), (0, 124, o.val)]) }
      match c.bind t.cmd with
      | some y => let (i, u) := t.record (ErrRec.forCmd r y 0x13); u.failCmd y.no 0x13 0xFFFF i
      | none => t.note r
    else s.setOstler o.val (x.latch slot.val ⟨dl, now, slackAt dl now, beats, lock, false⟩ now))

/-- A locked sequence ends after the beat in progress: the beats it has not begun are not moved, and hold no request back (R238, R239). -/
def Ostler.cutLock (x : Ostler) (now unit : Nat) : Ostler :=
  let x := x.moved now unit
  let stop := x.ends
  let n := (stop - now * 257) / unit
  let last := ceilDiv (stop - n * unit) 257
  { x with lock := none, busyUntil := last, spare := last * 257 - (stop - n * unit), due := x.due - n
           queue := x.queue.map (fun e => (e.1, e.2.map (fun r => if r.crosses.any (fun k => last < k) then { r with underLock := false } else r))) }

/-- ALIVE latched low: masked, waiting requests dropped and counted, a locked sequence of the slot ended (R239). -/
def Ostler.fall (x : Ostler) (slot now unit : Nat) : Ostler :=
  let n := (tget ([] : List Request) x.queue slot).length
  let mine : Bool := x.busy && now ≤ x.busyUntil && (match x.lock with | some (k, _) => decide (k = slot) | none => false)
  let y := if mine then x.cutLock now unit else x
  { y with masked := tset false y.masked slot true, queue := tset [] y.queue slot [], ctrs := { y.ctrs with maskdrop := satAdd y.ctrs.maskdrop n } }

/-- ALIVE latched high on an edge: the slot takes part from the next (R239). -/
def Ostler.rise (x : Ostler) (slot now : Nat) : Ostler :=
  { x with masked := tset false x.masked slot false, rising := tset 0 x.rising slot (now + 1) }

/-- The Ostler slots that a unit's ALIVE drives (Table 08-2): a bay's and an engine's on every channel of its die, a port's on the egresses of its die. -/
def aliveAt (u o : Nat) : Option Nat :=
  let i := unitIndex u
  match unitKind u with
  | 1 => if ostlerClass o ≤ 1 && ostlerDie o = i / 16 then some (i % 16) else none
  | 2 => if (ostlerClass o = 2 && (o - 640) / 12 = i) || o = 736 + i then some 0 else none
  | 3 => if ostlerClass o = 4 && ostlerDie o = i / 16 then some (i % 16) else none
  | 4 => if (ostlerClass o ≤ 1 || ostlerClass o = 4) && ostlerDie o = i then some 16 else none
  | _ => none

/-- What ALIVE of some units, by residency index, does at every Ostler that serves them (R239, R398). -/
def State.onAlive (s : State) (us : List Nat) (f : Nat → Ostler → Nat → Ostler) : State :=
  (List.range 808).foldl (fun t o =>
    let ks := us.filterMap (fun u => aliveAt (powerUnit u).toNat o)
    if ks = [] then t else t.setOstler o (ks.foldl (f o) (t.ostler o))) s
def State.aliveFalls (s : State) (us : List Nat) : State := s.onAlive us (fun o x k => x.fall k (s.edge o false) (s.beatTime o))
def State.aliveRises (s : State) (us : List Nat) : State := s.onAlive us (fun o x k => if tget false x.masked k then x.rise k (s.edge o false) else x)

/-- A transfer is in flight across the unit's crossings: a request of its waits at an Ostler or is being moved (R29, R396, R398). -/
def State.crossing (s : State) (u : Nat) : Bool :=
  s.ostlers.any (fun e => match aliveAt (powerUnit u).toNat e.1 with
    | some k => tget ([] : List Request) e.2.queue k != [] || (e.2.busy && e.2.last = k && decide (s.edge e.1 false < e.2.busyUntil))
    | none => false)

def execAliveFall (o : Fin 808) (slot : Fin 21) (s : State) (early : Bool := false) : Host.Outcome State Fault Refusal :=
  .next (s.setOstler o.val ((s.ostler o.val).fall slot.val (s.edge o.val early) (s.beatTime o.val)))

/-- ALIVE latched high: the slot takes part from the next edge (R239); that of a unit without power is clamped low (R399). -/
def execAliveRise (o : Fin 808) (slot : Fin 21) (s : State) (early : Bool := false) : Host.Outcome State Fault Refusal :=
  .next (if s.clamped o.val slot.val then s else s.setOstler o.val ((s.ostler o.val).rise slot.val (s.edge o.val early)))

/-! ## The register view (R240 to R242, Tables 08-3 to 08-8) -/

/-- A COMMIT write: the selected Ostler, or every one with ALL, copies at its next boundary (R241, R299). With 808 to 1,023 selected the
view ignores it. -/
def execOstlerCommit (all : Bool) (s : State) : Host.Outcome State Fault Refusal :=
  let mark := fun (t : State) (o : Nat) => t.setOstler o { t.ostler o with pending := true }
  .next (s.guarded (fun t =>
    if 808 ≤ t.ostSel.toNat then t
    else if all then (List.range 808).foldl mark t
    else mark t t.ostSel.toNat))

/-- The counters of a cleared block: those with an event latched on the clearing edge read 1, by the order of Table 08-8 (R10, R242). -/
def OstlerCtrs.cleared (ev : List Nat) : OstlerCtrs :=
  let one := fun (k : Nat) => if ev.contains k then 1 else 0
  { waitcyc := BitVec.ofNat 64 (one 0), xfers := BitVec.ofNat 64 (one 1), beats := BitVec.ofNat 64 (one 2), miss := BitVec.ofNat 32 (one 3), lockmiss := BitVec.ofNat 32 (one 4)
    locks := BitVec.ofNat 32 (one 5), lockrefused := BitVec.ofNat 16 (one 6), maskdrop := BitVec.ofNat 16 (one 7), commits := BitVec.ofNat 32 (one 8) }

def execOstlerClrcnt (s : State) (ev : List Nat := []) : Host.Outcome State Fault Refusal :=
  .next (s.guarded (fun t =>
    if t.ostSel.toNat < 808 then let o := t.ostSel.toNat; t.setOstler o { (t.ostler o).moved (t.cycles o) (t.beatTime o) with ctrs := .cleared ev } else t))

/-- The counter block as last copied (Table 08-8). -/
def Ostler.block (x : Ostler) : Nat :=
  let c := x.copy
  pack [(448, 64, c.waitcyc.toNat), (384, 64, c.xfers.toNat), (320, 64, c.beats.toNat), (288, 32, c.miss.toNat), (256, 32, c.lockmiss.toNat), (224, 32, c.locks.toNat),
    (208, 16, c.lockrefused.toNat), (192, 16, c.maskdrop.toNat), (176, 16, c.worstlate.toNat), (168, 8, c.lastslot.toNat), (96, 64, c.lasttime.toNat), (64, 32, c.commits.toNat), (0, 64, x.snap.toNat)]

/-- OSTL_INFO (Table 08-5). -/
def State.ostlerInfo (s : State) (o : Nat) : Nat :=
  let x := s.ostler o
  pack [(28, 4, ostlerClass o), (17, 5, topSlot o), (16, 1, b1 (x.lock.isSome && x.busy && s.cycles o ≤ x.busyUntil)), (0, 16, s.cycles o)]

/-- Slots whose offset word is not RS (R228, R235). -/
def hasOffset (o slot : Nat) : Bool := slotUsed o slot && !(ostlerClass o = 4 && slot = 19)

/-- A word of the view of the selected Ostler. A read of offset 0x40 copies the block (R242); the view of 808 to 1,023 reads 0. -/
def State.readOstler (s : State) (off : Nat) : Nat × State :=
  let o := s.ostSel.toNat
  let t := if off = 0x40 then (let x := (s.ostler o).moved (s.cycles o) (s.beatTime o); s.setOstler o { x with copy := x.ctrs, snap := s.clk.time }) else s
  let x := t.ostler o
  let two := fun (m : TMap (BitVec 12)) (k : Nat) => pack [(0, 16, (tget 0 m k).toNat), (16, 16, (tget 0 m (k + 1)).toNat)]
  if 808 ≤ o then (0, s)
  else (if off = 0 then s.ostlerInfo o
    else if off = 4 then pack [(3, 1, b1 x.pending)]
    else if 0x40 ≤ off && off < 0x80 then bits x.block (8 * (off - 0x40) + 31) (8 * (off - 0x40))
    else if 0x80 ≤ off && off < 0xC0 then two x.shadow ((off - 0x80) / 2)
    else if 0xC0 ≤ off && off < 0x100 then two x.active ((off - 0xC0) / 2)
    else 0, t)

/-- A read of a word of the counter block. -/
def execOstlerCounterRead (s : State) (word : Fin 16 := 0) : Host.Outcome State Fault Refusal :=
  .next (s.viaIo (fun s => let (v, t) := s.readOstler (0x40 + 4 * word.val); t.answer 4 v))

end Sys2Proof.Machine
end

