-- ==== Sys2Proof/Machine/Power.lean ====
section
/-! DEFINITION. Power states (chapter 14): entries and their refusals, wakes, residency, the refusal log. -/

namespace Sys2Proof.Machine

/-! ## States and residency (R395, R408) -/

def PState.code : PState → Nat
  | .a0 => 0 | .bg => 1 | .bo => 2 | .di => 3 | .do_ => 4 | .ms => 5
def PState.light : PState → Bool
  | .bg => true | .di => true | _ => false
def PState.deep : PState → Bool
  | .bo => true | .do_ => true | .ms => true | _ => false

/-- A residency record with the time in its present state counted up to now. -/
def Power.counted (x : Power) (now : Nat) : Power :=
  let n := now - x.lastTick
  { x with lastTick := now, ta0 := if x.state = .a0 then satAdd x.ta0 n else x.ta0
           tlight := if x.state.light then satAdd x.tlight n else x.tlight, tdeep := if x.state.deep then satAdd x.tdeep n else x.tdeep }

/-- What a bay's activation store held is gone: zeros with valid check bits (R402). Of a tensor that several bays hold, which bytes are this bay's no rule
says: each is zeroed or not, freely (log 34). -/
def zeroPart (v n : Nat) (b : Nat) (bays : U64) (data : List Byte) : List Byte :=
  if !bays.getLsbD b then data
  else if bays = BitVec.ofNat 64 (2 ^ b) then List.replicate data.length 0
  else data.mapIdx (fun i y => if Config.free v 22 (n + i) % 2 = 0 then 0 else y)

/-- Power leaves a bay: its part of every kept tensor and of every staged activation is lost (R402). -/
def State.loseStore (s : State) (b : Nat) : State :=
  if s.staging.all (fun y => !y.bays.getLsbD b) && s.stallsLoaded.all (fun k => k.2.live.all (fun m => m.saved.all (fun v => !(v.kept && v.bays.getLsbD b)))) then s
  else
    let (v, t) := s.fresh 22 b
    let stage := fun (y : Staged) => ({ y with plain := zeroPart v y.addr b y.bays y.plain } : Staged)
    let keep := fun (k : Nat) (w : Saved) => if w.kept then ({ w with data := zeroPart v (2 ^ 60 + 2 ^ 40 * k + 2 ^ 20 * w.layer.toNat + w.idx.toNat) b w.bays w.data } : Saved) else w
    let t : State := { t with staging := t.staging.map stage }
    t.stallsLoaded.foldl (fun t k => t.setStall k.1 (some { k.2 with live := k.2.live.map (fun m => { m with saved := m.saved.map (keep k.1) }) })) t

/-- A unit reaches another power state: time in the old state is counted, the entry is counted (R408, Table 14-5). The clock of a bay that leaves A0 stops,
and with it a stretch (R379); one that loses power loses its activation store (R402). -/
def State.setPState (s : State) (u : Nat) (p : PState) : State :=
  if (s.power u).state = p then s.setPower u { s.power u with entering := none }
  else
    let x := (s.power u).counted s.clk.ticks
    let t := if u < 64 && p != .a0 then s.endStretch u else s
    let t := if u < 64 && p = .bo then t.loseStore u else t
    t.setPower u { x with state := p, lastchg := s.clk.time, entering := none
                          nlight := if p.light then satAdd x.nlight 1 else x.nlight, ndeep := if p.deep then satAdd x.ndeep 1 else x.ndeep }

/-- A die enters DI once every bay of it is in BG or BO, which completes a request for it, and leaves it with its first running bay (R395, R398). -/
def State.updateDi (s : State) (d : Nat) : State :=
  let asleep := (dieBays d).all (fun b => (s.power b).state = .bg || (s.power b).state = .bo)
  let x := s.power (136 + d)
  if asleep && x.state = .a0 then
    let t := (s.setPState (136 + d) .di).setRail d
    match x.req with
    | some c => if x.waking then t else (t.setPower (136 + d) { t.power (136 + d) with req := none }).doneCmd c
    | none => t
  else if !asleep && x.state = .di then s.setPState (136 + d) .a0 else s

/-! ## Which commands use which units -/

/-- The bays a command runs on: those it was dispatched on, else the ACTIVE bays of its stall's bay set (R339). -/
def State.bayMaskOf (s : State) (x : Cmd) : U64 :=
  if x.disp then x.bays
  else if isCompute x.op || isCopy x.op then
    match s.stall x.stallNo with
    | some st => s.activeMask st.bays
    | none => if x.stallNo = 0xFF then s.activeMask (BitVec.ofNat 64 (2 ^ 64 - 1)) else 0
  else if x.op = 0x0102 then s.activeMask (BitVec.ofNat 64 (if x.p 0 8 = 0 then (match s.stall x.stallNo with | some st => st.bays.toNat | none => 0) else x.p 0 8))
  else 0

/-- A command publishes: WEIGHT_PUBLISH, and UPDATE_LAYER with PUBLISH (R192). -/
def Cmd.publishes (x : Cmd) : Bool := x.op = 0x0504 || (x.op = 0x0501 && bit (x.p 16 2) 2)

/-- The bays on which the conversions of a publication of a version record run: the ACTIVE ones of the stall that converts it
(R197, R339, R462). -/
def State.convBays (s : State) (vaddr : Nat) : U64 := match s.pubStall vaddr with | some y => s.activeMask y.2.1.bays | none => 0

/-- Those of a command that publishes, from the VADDR of the layer record that it names. -/
def State.pubMask (s : State) (x : Cmd) : U64 := if x.publishes then s.convBays (s.readNat (x.addr 0 + 80) 6) else 0

/-- The command is issued to the unit with a residency index: bays it runs or publishes on, its Miller, the unit that a FARRIER_RUN tests, and of a
collective the dies with their reduction engines and ports. -/
def State.issuedTo (s : State) (x : Cmd) (u : Nat) : Bool :=
  (u < 64 && (s.bayMaskOf x ||| s.pubMask x).toNat.testBit u) || (64 ≤ u && u < 72 && millerOf x = some (u - 64)) ||
    (x.op = 0x0901 && powerIndex (x.p 0 2) = some u && u != 140) || (136 ≤ u && u < 140 && 0x0601 ≤ x.op && x.op ≤ 0x0605)

/-- The command uses the unit, and has not ended. -/
def State.cmdUses (s : State) (x : Cmd) (u : Nat) : Bool := x.phase != .ended && s.issuedTo x u

/-! ## Refusals (R397, Table 14-2) -/

/-- Ports that lose power with a unit's entry to BO, DO or MS. -/
def portsOff (u : Nat) : List Nat :=
  if 72 ≤ u && u < 136 then [u - 72] else if 136 ≤ u && u < 140 then (List.range 16).map (· + 16 * (u - 136))
  else if u = 140 then List.range 64 else []

/-- Bays, Millers and reduction engines, by residency index, that an entry powers off. -/
def unitsOff (u : Nat) : List Nat :=
  if u < 72 then [u] else if 136 ≤ u && u < 140 then (List.range 16).map (· + 16 * (u - 136)) ++ [u]
  else if u = 140 then List.range 72 ++ (List.range 4).map (· + 136) else []

/-- A span of a die's Tier N or Tier M region (Table 07-2) shares a byte with another span. -/
def dieMemory (d lo n : Nat) : Bool :=
  overlaps (d * 0x3000000000) 0x3000000000 lo n || overlaps (0x10000000000 + d * 0x4000000000) 0x4000000000 lo n

/-- Every valid window of every stall and of the service context. -/
def State.allWindows (s : State) : List Window :=
  ((s.stallsLoaded.map (fun x => x.2.windows)).flatten ++ s.ck.svc).map (·.2) |>.filter (·.valid)

/-- The active HDM ranges as (base, length). -/
def State.hdmSpans (s : State) : List (Nat × Nat) :=
  [s.hp.hdm0, s.hp.hdm1].map (fun r => (r.actBase.toNat * 2 ^ 28, r.actSize.toNat * 2 ^ 28)) |>.filter (fun r => 0 < r.2)

/-- A safety limit acts on the unit or its die (reason 8). -/
def State.limitActs (s : State) (u : Nat) : Bool :=
  let d : Nat := if u < 64 then u / 16 else if 72 ≤ u && u < 136 then (u - 72) / 16 else if 136 ≤ u && u < 140 then u - 136 else 9
  s.tal.limits.any (fun e => u = 140 || e.row = 6 || ((e.row = 1 || e.row = 2) && (e.unit = u || (136 ≤ u && e.unit / 16 = d))) ||
    (e.row = 4 && u = 64 + e.unit) || ((e.row = 5 || e.row = 7) && e.unit = d) || (e.row = 8 && stackDie e.unit = some d))

/-- The stall whose live micro-batch keeps tensors in a bay's activation store (reason 3). -/
def State.keeper (s : State) (b : Nat) : Option Nat :=
  (s.stallsLoaded.find? (fun x => x.2.live.any (fun m => m.saved.any (fun t => t.kept && !t.freed && t.bays.toNat.testBit b)))).map (·.1)

/-- The claim that holds a bay's trace buffer or arrays (reason 4). -/
def State.bayClaim (s : State) (b : Nat) : Option Claim :=
  s.ck.claims.find? (fun c => (c.res = 2 || c.res = 3) && c.bay.toNat = b)

/-- The command uses the unit, or the memory or the bays of the die or module (R400). -/
def State.willUse (s : State) (x : Cmd) (u : Nat) : Bool := s.cmdUses x u || (x.phase != .ended && x.needs.contains u)

/-- A wake on demand for the unit is latched on this edge: it was woken, or a command issued on the edge will use it (R400, R403). -/
def State.wakeLatched (s : State) (self : CmdNo) (u : Nat) : Bool :=
  let x := s.power u
  (x.waking && x.onDemand && x.wakeFrom = s.clk.ticks) || s.ck.cmds.any (fun y => y.no != self && y.issuedAt = s.clk.ticks && s.willUse y u)

/-- The lowest reason of Table 14-2 that refuses an entry of unit `u` to state `p`: (reason, refuser, INFO). -/
def State.refusalOf (s : State) (self : CmdNo) (u : Nat) (p : PState) : Option (Nat × U16 × U16) :=
  let deep := p = .bo || p = .do_ || p = .ms
  let isBay := u < 64
  let r1 := if deep then (portsOff u).find? s.portUp else none
  let r2 := if deep then (unitsOff u).find? (fun v => s.ck.cmds.any (fun x => x.no != self && s.issuedTo x v)) else none
  let r3 := if deep then ((unitsOff u).filter (· < 64)).find? (fun b => (s.keeper b).isSome) else none
  let r4 := if deep || (isBay && p = .bg) then ((unitsOff u).filter (· < 64)).find? (fun b => (s.bayClaim b).isSome) else none
  let r5 := p = .do_ && (s.allWindows.any (fun w => dieMemory (u - 136) w.lo (w.hi - w.lo)) || s.hdmSpans.any (fun r => dieMemory (u - 136) r.1 r.2))
  let r6 := p = .ms && (s.hp.dec0.committed || s.hp.dec1.committed || s.anyRound || s.anyLive)
  match r1, r2, r3, r4 with
  | some k, _, _, _ => some (1, portCode k, (s.port k).nbr.fid)
  | _, some v, _, _ => some (2, powerUnit v, 0)
  | _, _, some b, _ => some (3, bayCode b, BitVec.ofNat 16 ((s.keeper b).getD 0))
  | _, _, _, some b => some (4, bayCode b, match s.bayClaim b with | some c => BitVec.ofNat 16 c.holder.toNat | none => 0)
  | _, _, _, _ =>
    if r5 then some (5, engineCode (u - 136), 0)
    else if r6 then some (6, clerkCode, 0)
    else if p = .do_ && u = 136 then some (7, clerkCode, 0)
    else if s.limitActs u then some (8, engineCode (if u < 64 then u / 16 else if 72 ≤ u && u < 136 then (u - 72) / 16 else if 136 ≤ u && u < 140 then u - 136 else 0), 0)
    else if s.wakeLatched self u || (p = .di && (dieBays (u - 136)).any (s.wakeLatched self)) then some (9, powerUnit u, 0)
    else none

/-- Enter a refusal in the log of the 64 newest (R408, Table 14-6). -/
def State.logRefusal (s : State) (r : RefusalRec) (u : Nat) : State :=
  let l := s.refusals ++ [r]
  let t := { s with refusals := l.drop (l.length - 64), logTotal := satAdd s.logTotal 1 }
  t.setPower u { t.power u with refused := satAdd (t.power u).refused 1 }

/-- SOURCE and ORIGIN of a log entry (Table 14-6). -/
def Cmd.logOrigin (x : Cmd) : Byte × Byte :=
  match x.origin with | .queue q => (0, BitVec.ofNat 8 q) | .round r _ => (1, BitVec.ofNat 8 r) | .attach _ => (0, 0xFF)

/-! ## Entries (R398) -/

/-- The ports that an entry powers below parking. -/
def entryPorts (u : Nat) (p : PState) : List Nat :=
  if p = .bo then (if 72 ≤ u && u < 136 then [u - 72] else [])
  else if p = .do_ then (List.range 16).map (· + 16 * (u - 136))
  else if p = .ms then List.range 64 else []

/-- Begin an entry: the unit stops taking work, and reaches the state with POWER_STATE_REACHED. The ports that it powers down, none of them UP,
go DOWN at once, so that none comes UP before the state is reached (R260, log 67). -/
def State.beginEntry (s : State) (u : Nat) (p : PState) (req : Option CmdNo) : State :=
  let t := ((entryPorts u p).filter (fun k => (s.port k).nbr.state != .down)).foldl (fun t k => t.portDown k none) s
  t.setPower u { t.power u with entering := some p, req := req }

/-- A PSTATE_REQ for BG, BO, DO or MS, checked and begun (R397). -/
def State.requestEntry (s : State) (x : Cmd) (u : Nat) (p : PState) : State :=
  if (s.power u).state = p then s.doneCmd x.no
  else match s.refusalOf x.no u p with
    | some (reason, by_, info) =>
      let o := x.logOrigin
      (s.logRefusal ⟨s.clk.time, powerUnit u, by_, BitVec.ofNat 8 p.code, BitVec.ofNat 8 reason, o.1, o.2, x.hdr.seq, info⟩ u).endCmd x.no 0x13 by_
    | none => (s.beginEntry u p (some x.no)).workOn x.no

/-- The running PSTATE_REQ `c` for a state code: the command and its unit's residency index. -/
def State.pstateReq (s : State) (c : CmdNo) (code : Nat) : Option (Cmd × Nat) :=
  match s.running c 0x0801 with
  | some x => if x.p 2 1 = code then (powerIndex (x.p 0 2)).map (fun u => (x, u)) else none
  | none => none

def execPstateReqBg (c : CmdNo) (s : State) : Host.Outcome State Fault Refusal :=
  .next (match s.pstateReq c 1 with | some (x, u) => s.requestEntry x u .bg | none => s)
def execPstateReqBo (c : CmdNo) (s : State) : Host.Outcome State Fault Refusal :=
  .next (match s.pstateReq c 2 with | some (x, u) => s.requestEntry x u .bo | none => s)
def execPstateReqDo (c : CmdNo) (s : State) : Host.Outcome State Fault Refusal :=
  .next (match s.pstateReq c 4 with | some (x, u) => s.requestEntry x u .do_ | none => s)
def execPstateReqMs (c : CmdNo) (s : State) : Host.Outcome State Fault Refusal :=
  .next (match s.pstateReq c 5 with | some (x, u) => s.requestEntry x u .ms | none => s)

/-- A unit in A0 that is not on its way out of it. -/
def State.awake (s : State) (u : Nat) : Bool := (s.power u).state = .a0 && (s.power u).entering.isNone

/-- DI: every A0 bay of the die goes to BG, but for those on their way out of A0 already; the request completes when the die is in DI (R395). With no
bay in A0 the die is in DI, or in DO or MS, where the request finds nothing to put to BG and is DONE (log 34). -/
def execPstateReqDi (c : CmdNo) (s : State) : Host.Outcome State Fault Refusal :=
  .next (match s.pstateReq c 3 with
    | some (x, u) =>
      if (s.power u).state = .di then s.doneCmd c
      else match s.refusalOf c u .di with
        | some _ => s.requestEntry x u .di
        | none =>
          if (dieBays (u - 136)).all (fun b => (s.power b).state != .a0) then s.doneCmd c
          else
            let t := s.setPower u { s.power u with req := some c }
            (((dieBays (u - 136)).filter s.awake).foldl (fun t b => t.beginEntry b .bg none) t).workOn c
    | none => s)

/-- A die's stacks (Tier N and Tier M, R203). -/
def dieStacks (d : Nat) : List Nat := (List.range 24).filter (fun k => stackDie k = some d)

/-- A unit goes to BO with its die, unless it is there already; a port in BO is DOWN (R406). -/
def State.unitOff (s : State) (u : Nat) : State :=
  if (s.power u).state = .bo then s
  else
    let t := s.setPState u .bo
    if 72 ≤ u && u < 136 && (t.port (u - 72)).nbr.state != .down then t.portDown (u - 72) none else t

/-- What losing a die does to its units (Table 14-1): bays and ports off, the core rail off, stacks in self-refresh. -/
def State.dieOff (s : State) (d : Nat) : State :=
  let t := (dieBays d ++ (List.range 16).map (· + 72 + 16 * d)).foldl State.unitOff s
  let t := t.setDie d { t.die d with vcore := 0, railLowerAt := none }
  (dieStacks d).foldl (fun t k => t.setStack k { t.stack k with selfRefresh := true }) t

/-- A die comes back with its bays in BO, so in DI: its rail on, its stacks out of self-refresh, its reduction engine alive; its ports stay in BO until a
PSTATE_REQ for each (R395, R400, R401, R405, R406). -/
def State.dieOn (s : State) (d : Nat) : State :=
  let t := ((((s.setPState (136 + d) .a0).setRail d).updateDi d).aliveRises [136 + d])
  (dieStacks d).foldl (fun t k => t.setStack k { t.stack k with selfRefresh := false }) t

/-- An entry reaches its state (R398): requests complete; a die's bays decide DI; DO and MS power their parts off. -/
def State.reach (s : State) (u : Nat) (p : PState) : State :=
  let req := (s.power u).req
  let t := if p.deep then s.aliveFalls (unitsOff u ++ (portsOff u).map (· + 72)) else s
  let t := if p = .bo then t.unitOff u else t.setPState u p
  let t := t.setPower u { t.power u with entering := none, req := none }
  let t : State := match p with
    | .do_ => t.dieOff (u - 136)
    | .ms =>
      let t := (List.range 4).foldl (fun t d => (t.dieOff d).setPState (136 + d) .do_) t
      let t := ((List.range 8).map (· + 64)).foldl (fun t g => t.setPState g .bo) t
      ((List.range 24).map (· + 24)).foldl (fun t k => t.setStack k { t.stack k with selfRefresh := true }) t
    | _ => t
  let t : State := match req with | some c => t.doneCmd c | none => t
  if u < 64 then (t.updateDi (u / 16)).railFalls (u / 16) else t

/-- Work runs on the unit, or a transfer is in flight across its crossings (R396, R398). -/
def State.unitBusy (s : State) (u : Nat) : Bool := s.ck.cmds.any (fun x => x.runs && s.cmdUses x u) || s.crossing u

/-- Steps 1 and 2 of an entry are not over: work runs on what it stops, or a crossing drains (R398). -/
def State.entryWaits (s : State) (u : Nat) (p : PState) : Bool :=
  (if p.deep then unitsOff u ++ (portsOff u).map (· + 72) else [u]).any s.unitBusy

/-- POWER_STATE_REACHED, once the unit's work and crossings have come to rest (R398). -/
def execPowerStateReached (u : Nat) (s : State) : Host.Outcome State Fault Refusal :=
  .next (match (s.power u).entering with | some p => if s.entryWaits u p then s else s.reach u p | none => s)

/-- R396: a bay or Miller idle for 10 µs enters BG; a command that needs it wins, and the refusal is logged (R403). -/
def execIdleBgEntry (unit : U16) (s : State) : Host.Outcome State Fault Refusal :=
  .next (match powerIndex unit.toNat with
    | none => s
    | some u =>
      let x := s.power u
      let running := s.ck.cmds.any (fun y => (y.runs || (64 ≤ u && y.issuedAt != s.clk.ticks)) && s.cmdUses y u)
      let wanted := s.wakeLatched s.ck.nextCmd u
      let due := u < 72 && s.awake u && !x.waking && (s.unit unit.toNat).testing.isNone && s.reached (x.idleFrom + 10000) && (64 ≤ u || (s.bay u).fill = 0)
      if !due || running || s.crossing u then s
      else if wanted then s.logRefusal ⟨s.clk.time, unit, unit, 1, 9, 2, 0xFF, 0, 0⟩ u
      else s.beginEntry u .bg none)

/-! ## Wakes (R400 to R404) -/

/-- Latch a wake on demand of a unit not in A0 (R400), always a native one (R404); a fenced bay is never woken so (R409). -/
def State.wakeOnDemand (s : State) (u : Nat) : State :=
  let x := s.power u
  if s.awake u || x.waking || s.brd.trip || (u < 64 && (s.unit (0x1000 + u)).clerk = .fenced) then s
  else s.setPower u { x with waking := true, onDemand := true, sequenced := false, wakeFrom := s.clk.ticks, demand := satAdd x.demand 1 }

/-- Begin a requested wake of a unit, or join one on demand that has begun (R401, R404). -/
def State.wakeFor (s : State) (u : Nat) (c : CmdNo) (seq : Bool) : State :=
  let x := s.power u
  s.setPower u { x with waking := true, wakeFrom := if x.waking then x.wakeFrom else s.clk.ticks, req := some c, sequenced := seq }

/-- The bays that a wake of the unit brings to A0: a bay itself, the bays of a die or module (R404). -/
def State.baysToWake (s : State) (u : Nat) : List Nat :=
  let all := if u < 64 then [u] else if 136 ≤ u && u < 140 then dieBays (u - 136) else if u = 140 then List.range 64 else []
  all.filter (fun b => !s.awake b && (s.unit (0x1000 + b)).clerk != .fenced)

/-- Mark bays to be woken one after another, and begin the first (R404). -/
def State.wakeSequence (s : State) (bs : List Nat) (c : CmdNo) : State :=
  let t := bs.foldl (fun t b => t.setPower b { t.power b with sequenced := true, req := some c }) s
  match bs with | b :: _ => t.wakeFor b c true | [] => t.doneCmd c

def execPstateReqA0 (c : CmdNo) (s : State) : Host.Outcome State Fault Refusal :=
  .next (match s.pstateReq c 0 with
    | none => s
    | some (x, u) =>
      let seq := x.p 3 1 % 2 = 1
      let deepDie := 136 ≤ u && ((s.power u).state = .do_ || (s.power u).state = .ms)
      let t := s.workOn c
      if s.awake u then s.doneCmd c
      else if deepDie then t.wakeFor u c seq
      else if u < 64 || 136 ≤ u then
        let bs := s.baysToWake u
        if bs = [] then s.doneCmd c
        else if seq then t.wakeSequence bs c else bs.foldl (fun t b => t.wakeFor b c false) t
      else t.wakeFor u c false)

/-- TSV interface training at boot and at MS exit: a failing lane takes a spare of its channel; where its four are used the channel is out
and the stack DEGRADED (R221). -/
def State.tsvTrain (s : State) (fails : List (Nat × Nat)) : State :=
  fails.foldl (fun t f =>
    let k := f.1
    let x := t.stack k
    let used := tget 0 x.tsv f.2
    if used < 4 then
      let lanes := tset 0 x.tsv f.2 (used + 1)
      (t.setStack k { x with tsv := lanes, tsvSpared := satAdd x.tsvSpared 1, tsvLeft := BitVec.ofNat 8 (4 - (lanes.map (·.2)).foldl max 0) }).note { cls := 2, code := 5, unit := stackCode k, pattern := 0xE000, syndrome := BitVec.ofNat 128 (pack [(124, 4, 0xE), (116, 8, k)]) }
    else if x.tsvOut.contains f.2 then t
    else
      let t := t.setStack k { x with degraded := true, tsvOut := x.tsvOut ++ [f.2] }
      if x.degraded then t else t.note { cls := 2, code := 6, unit := stackCode k, pattern := 0xE000, syndrome := BitVec.ofNat 128 (pack [(124, 4, 0xE), (116, 8, k)]) }) s

/-- Some bay of a request is still to wake. -/
def State.wakesLeft (s : State) (c : CmdNo) : List Nat :=
  (List.range 141).filter (fun u => (s.power u).req = some c && ((s.power u).waking || (s.power u).sequenced))

/-- Count a wake's time (Table 14-5). -/
def Power.woken (x : Power) (ticks now : Nat) : Power :=
  let n := ticks - x.wakeFrom
  { x with waking := false, onDemand := false, sequenced := false, req := none
           wakewait := if x.onDemand then satAdd x.wakewait (n / 1000) else x.wakewait
           wakemax := BitVec.ofNat 32 (max x.wakemax.toNat (min n 0xFFFFFFFF)), seqwakes := if x.sequenced then satAdd x.seqwakes 1 else x.seqwakes
           idleFrom := now }

/-- The next step of a requested wake: the next sequenced bay, or the request's end (R404). -/
def State.nextWake (s : State) (c : CmdNo) : State :=
  match s.wakesLeft c with
  | [] => s.onCmd c (fun x => if x.phase = .ended then x else if x.status = 0x22 then { x with phase := .ended } else { x with phase := .ended, status := x.normalStatus })
  | u :: _ => if (s.power u).waking then s else s.wakeFor u c true

/-- What a unit's supply comes from is on: a bay's and a port's die, a die's and a Miller's module; nothing after a thermal trip (R383, R401). -/
def State.supplied (s : State) (u : Nat) : Bool :=
  let up := fun (v : Nat) => (s.power v).state != .do_ && (s.power v).state != .ms
  !s.brd.trip && (u = 140 || up 140) && (if u < 64 then up (136 + u / 16) else if 72 ≤ u && u < 136 then up (136 + (u - 72) / 16) else true)

/-- WAKE_COMPLETE: the unit is in A0 (R401). A sequenced bay that fails its check stays in BO (R404); a port trains if ENABLE is 1 (R406). -/
def execWakeComplete (u : Nat) (pass : Bool) (tsvFail : List (Nat × Nat)) (s : State) : Host.Outcome State Fault Refusal :=
  let x := s.power u
  .next (
    if !x.waking || x.entering.isSome || !s.supplied u then s
    else
      let bad := u < 64 && x.sequenced && x.state = .bo && !pass
      let t := s.setPower u (x.woken s.clk.ticks s.now)
      let t := if bad then (t.makeSuspect (0x1000 + u) true).onCmd (x.req.getD 0) (fun y => { y with status := 0x22, detail := bayCode u })
        else if 136 ≤ u && u < 140 then t
        else t.setPState u .a0
      let t := if x.state = .bo && !bad then t.aliveRises [u] else t
      let t := if u < 64 then
          let t := if bad then t else t.setBay u { t.bay u with step := BitVec.ofNat 5 (min (t.bay u).target (s.railStep (u / 16))) }
          (t.updateDi (u / 16)).retarget u
        else if 72 ≤ u && u < 136 then (if t.portCanTrain (u - 72) && (t.port (u - 72)).nbr.state = .down then t.startTraining (u - 72) else t)
        else if 136 ≤ u && u < 140 then (if x.state = .do_ then t.dieOn (u - 136) else t)
        else if u = 140 then
          let t := (List.range 4).foldl (fun t d => t.dieOn d) t
          let t := ((List.range 24).map (· + 24)).foldl (fun t k => t.setStack k { t.stack k with selfRefresh := false }) t
          t.tsvTrain tsvFail
        else t
      match x.req with
      | none => t
      | some c => if 136 ≤ u && x.sequenced then t.wakeSequence (t.baysToWake u) c else t.nextWake c)

/-- R409: a bay that becomes FENCED goes to BO, at once or when its running work has stopped; a wake of it is over, and a request that asked for it
goes on without it. -/
def State.fencedBayOff (s : State) (b : Nat) : State :=
  let x := s.power b
  let woke := x.waking || x.sequenced
  let t := s.setPower b { x with waking := false, onDemand := false, sequenced := false, req := if woke then none else x.req, entering := if x.state = .bo then none else some .bo }
  let t := if x.state = .bo || t.entryWaits b .bo then t else t.reach b .bo
  match x.req with
  | some c => if woke then t.nextWake c else t
  | none => t

/-! ## PSTATE_REPORT (R408) -/

/-- A residency record (Table 14-5). -/
def Power.bytes (x : Power) (u : Nat) : List Byte :=
  bytesLE 64 (pack [(448, 64, x.ta0.toNat), (384, 64, x.tlight.toNat), (320, 64, x.tdeep.toNat), (288, 32, x.nlight.toNat), (256, 32, x.ndeep.toNat),
    (224, 32, x.demand.toNat), (192, 32, x.wakewait.toNat), (160, 32, x.wakemax.toNat), (144, 16, x.refused.toNat), (128, 16, x.seqwakes.toNat),
    (64, 64, x.lastchg.toNat), (20, 4, x.state.code), (19, 1, b1 (x.entering.isSome || x.waking)), (0, 16, (powerUnit u).toNat)])

/-- A refusal log entry (Table 14-6). -/
def RefusalRec.bytes (r : RefusalRec) : List Byte :=
  bytesLE 32 (pack [(192, 64, r.time.toNat), (176, 16, r.target.toNat), (160, 16, r.refuser.toNat), (152, 8, r.reqstate.toNat), (144, 8, r.reason.toNat),
    (136, 8, r.source.toNat), (128, 8, r.origin.toNat), (96, 32, r.seq.toNat), (80, 16, r.info.toNat)])

/-- The 11,136 bytes of PSTATE_REPORT (R408). -/
def State.powerReport (s : State) : List Byte :=
  let mask := (List.range 4).foldl (fun n d =>
    let st := (s.power (136 + d)).state
    n + (if st = .di then 2 ^ d else 0) + (if st = .do_ then 2 ^ (4 + d) else 0)) 0
  bytesLE 64 (pack [(448, 64, s.clk.time.toNat), (440, 8, (s.power 140).state.code), (432, 8, s.refusals.length), (400, 32, s.logTotal.toNat), (384, 16, mask)]) ++
    ((List.range 141).map (fun u => ((s.power u).counted s.clk.ticks).bytes u)).flatten ++
    (List.range 64).flatMap (fun i => match s.refusals[i]? with | some r => r.bytes | none => bytesLE 32 0)

def execPstateReport (c : CmdNo) (s : State) : Host.Outcome State Fault Refusal :=
  .next (match s.begins c 0x0802 with
    | some x => (s.queryResult x (x.addr 0) s.powerReport).doneCmd c
    | none => s.stopped c 0x0802)

end Sys2Proof.Machine
end

