-- ==== Sys2Proof/Machine/Matmul.lean ====
section
/-! DEFINITION. Products and conversions as commands: MATMUL_FWD, MATMUL_BWD, MATMUL_REF (chapters 03, 04), SCALE_SCAN and
CONVERT (chapters 02, 05). Extents, formats and windows have been checked at dispatch. -/

namespace Sys2Proof.Machine

/-! ## Saved activations (R126 to R129) -/

/-- Bytes of activation store that a saved tensor of `lines` lines of `len` elements takes in BF16 in the bay with the largest
share: its lines spread evenly over the bays that produced it (R126, R127, log 24). -/
def saveShare (lines len bays : Nat) : Nat := ceilDiv lines (max 1 bays) * (2 * len)

/-- Bays of a mask, counted. -/
def bayCount (m : U64) : Nat := (maskBits m.toNat 64).length

/-- Bytes of bay `b`'s activation region in use: the shares of the kept tensors that it holds, of every stall (R16, R132). -/
def State.keptIn (s : State) (b : Nat) : Nat :=
  (s.stallsLoaded.flatMap (fun x => x.2.live.flatMap (fun m => (m.saved.filter (fun v => v.kept && !v.freed && v.bays.getLsbD b)).map
    (fun v => saveShare v.lines v.len (bayCount v.bays))))).sum

/-- The activation budget still free in every bay of a mask (R125, R127, R132). -/
def State.freeBudget (s : State) (st : Stall) (m : U64) : Nat :=
  (maskBits m.toNat 64).foldl (fun n b => min n (st.budget.toNat * 65536 - s.keptIn b)) (st.budget.toNat * 65536)

/-- The tensors that a micro-batch of `lines` tokens will save, by layer in forward order with the inner length: the left operand of
each layer of the table (R127, Example 04-1, log 24). -/
def Stall.savable (st : Stall) : List (Nat × Nat) :=
  (List.range st.layers.length).filterMap (fun l => match st.layer l with | some e => if e.length = 0 then none else some (l, e.length.toNat) | none => none)

/-- R127: from the last saved tensor backwards, those that fit in the budget; the walk stops at the first that does not. -/
def keepWalk (lines bays : Nat) : (budget : Nat) → List (Nat × Nat) → List Nat
  | _, [] => []
  | budget, (l, len) :: ts =>
    let n := saveShare lines len bays
    if n ≤ budget then l :: keepWalk lines bays (budget - n) ts else []

/-- The layers whose saved tensor is kept in a micro-batch of `lines` tokens (R127). -/
def State.choosesKept (s : State) (st : Stall) (lines : Nat) (m : U64) : List Nat :=
  keepWalk lines (bayCount m) (s.freeBudget st m) st.savable.reverse

/-- The spill window of a stall (R128). -/
def Stall.spillWindow (st : Stall) : Option Window := ((validWindows st.windows).find? (fun w => w.2.spill)).map (·.2)

/-- The lowest 64-byte place of the spill window that is clear of every live spill and holds `n` bytes (log 24). -/
def Stall.spillPlace (st : Stall) (n : Nat) : Option Nat :=
  match st.spillWindow with
  | none => none
  | some w =>
    let used := st.live.flatMap (fun m => (m.saved.filter (fun v => !v.kept)).map (fun v => (v.addr, v.desc.endAt - v.addr)))
    let cands := (w.lo :: used.map (fun u => align64 (u.1 + u.2))).filter (fun a => w.lo ≤ a && a + n ≤ w.hi && used.all (fun u => !overlaps a n u.1 u.2))
    cands.foldl (fun b a => match b with | none => some a | some c => some (min a c)) none

/-- The BF16 activation behind a left operand of stall `k` and the bays that produced it, `own` where no production stands: a kept
tensor's own; what its producer staged; else its own elements if it is BF16; else free values (R126, R130, log 23). -/
def State.activation (s : State) (k : Nat) (d : Desc) (own : U64) : List Byte × U64 × State :=
  let keptV := if d.saved then (s.savedNamed k d).bind (fun v => if v.kept then some v else none) else none
  let d := s.stored k d
  match keptV, s.staging.find? (fun y => y.addr = d.daddr && y.image = s.readBytes d.daddr d.dataBytes) with
  | some v, _ => (v.data, v.bays, s)
  | none, some y => (y.plain, y.bays, s)
  | none, none =>
    if d.ftag = 6 then (s.readBytes d.daddr (2 * d.lines * d.len), own, s)
    else ((List.range (2 * d.lines * d.len)).map (fun i => BitVec.ofNat 8 (Config.free s.freeCtr 3 i)), own, { s with freeCtr := s.freeCtr + 1 })

/-- Write a saved tensor out: E4M3, compact, c = 1, outliers disabled, with both bound vectors; a NaN or an infinity sets the
saving command's flag (R62, R128). -/
def State.spill (s : State) (x : Cmd) (v : Saved) : State :=
  let d := v.desc
  let rows := (List.range v.lines).map (fun l => (List.range v.len).map (fun i => bf16.read (fieldAt v.data (2 * (l * v.len + i)) 2)))
  let m := make d { tag := 2 } (fun _ => false) (fun _ => 0) rows []
  ((s.putMade x.no m).countOver m.cnt (maskBits x.bays.toNat 64)).flag x.no m.cnt false

/-- The layer and the save index of a SAVE command of a micro-batch: its place among the SAVE commands of that layer, in issue order
(R345). -/
def MicroBatch.saveName (m : MicroBatch) (c : CmdNo) (layer : Nat) : Nat × Nat :=
  match m.saves.find? (fun y => y.1 = c) with
  | some e => (e.2, ((m.saves.takeWhile (fun y => y.1 != c)).filter (fun y => y.2 = e.2)).length)
  | none => (layer, (m.saved.filter (fun v => v.layer.toNat = layer)).length)

/-- SAVE: the left operand becomes a saved tensor, kept where the micro-batch's choice names it and its bays have room, else spilled;
a spill frees the staging (R126 to R128). A command of no live micro-batch (MB 255) has no micro-batch to save for: it saves
nothing. DESIGN CHOICE (log 24). Where neither place holds the tensor, which R129 rules out for the tensors it counts, the command
ends with REFUSED_STATE. DESIGN CHOICE (log 24). -/
def State.save (s : State) (x : Cmd) (layer : Nat) (d : Desc) : State :=
  match s.stall x.stallNo with
  | none => s
  | some st =>
    match st.batch x.hdr.mb with
    | none => s
    | some m =>
      let (bytes, bays, t) := s.activation x.stallNo d x.bays
      let d := s.stored x.stallNo d
      let (layer, idx) := m.saveName x.no layer
      let named := match m.keep with | some ls => ls.contains layer && idx = 0 | none => false
      let v : Saved := { layer := BitVec.ofNat 16 layer, idx := BitVec.ofNat 8 idx, lines := d.lines, len := d.len, kept := true, bays := bays, data := bytes, addr := 0 }
      let put := fun (t : State) (v : Saved) => t.setStall x.stallNo ((t.stall x.stallNo).map (fun st => st.setBatch { m with saved := m.saved ++ [v] }))
      if named && saveShare d.lines d.len (bayCount bays) ≤ s.freeBudget st bays then put t v
      else
        match st.spillPlace (partsAt 0 2 d.lines d.len false true false).endAt with
        | some a =>
          let v := { v with kept := false, addr := a }
          let t := put (t.spill x v) { v with data := [] }
          { t with staging := t.staging.filter (fun y => y.addr != d.daddr) }
        | none => t.endCmd x.no 0x13 26

/-! ## Products (R65, R87, R101, R122, R199) -/

/-- Write a product's cells to its output: rotated where ROTOUT asks, scaled as an activation (R85), marked (R78), its counts and status
kept (R86, R110). R94 has the Mangle feed the quantiser alone: a rotated output, or a rotated destination of CONVERT, that declares a
wide format is rotated and rounded once to it. DESIGN CHOICE (log 64). -/
def State.deliverProduct (s : State) (x : Cmd) (yd : Desc) (rot : Bool) (cells : List (List Cell)) (inputs : Cnt) (promoted : Bool)
    (da db : Desc) : State :=
  let vals := cells.map (fun r => r.map (·.v))
  let marks := cells.map (fun r => r.map (fun c => decide (0 < c.under)))
  let rows := if rot then vals.map (rotateLine (BitVec.ofNat 64 yd.seed) false) else vals
  let ms := if rot then marks.map rotateMarks else marks
  let cnt := inputs.add (cellCnt cells)
  let t := s.produce x yd (rows.map (·.map (fun v => (v, false)))) ms vals
  let t := t.countOver cnt (maskBits x.bays.toNat 64)
  let t := t.flag x.no cnt promoted
  let (ma, mb) := cellMarks cells
  (t.markInexact x da ma).markInexact x db mb

/-- Some block of an FP4 or INT4 operand is promoted (R83). -/
def Tensor.promoted (t : Tensor) : Bool := t.d.ftag ≤ 1 && t.blks.any (fun l => l.any (fun b => !b.bad && !b.null && b.tag = 2))

/-- Operand flags word (Table 04-1). -/
def orientT (f : Nat) : Bool := bit f 0
def rotFlag (f : Nat) : Bool := bit f 1
def fmtFlag (f : Nat) : Nat := bits f 3 2
def bvecFlag (f : Nat) : Bool := bit f 4

/-- A tensor with lines and positions exchanged, for elements that carry no records. -/
def Tensor.crossed (t : Tensor) : Tensor :=
  { t with d := { t.d with lines := t.d.inner, len := t.d.lines, rot := false }, wide := crosswise t.d.inner (.zero false, false) t.wide, lineB := t.crossB, crossB := t.lineB }

/-- An operand of a product on the B-arrays: as it stands (R101), or by the fallback's reads (R123). -/
def bRead (t : Tensor) (flags : Nat) (selected fallback : Bool) : List BLine × Cnt :=
  if fallback && t.standsE4m3 then bOperand t (selected && orientT flags) (!selected || bvecFlag flags)
  else if fallback then
    let crossed := selected && orientT flags && !narrow t.d.ftag
    let (u, c) := (if crossed then t.crossed else t).fallback
    ((bOperand u (selected && orientT flags && !crossed) false).1, c)
  else bOperand t (orientT flags) (bvecFlag flags)

/-- The forward copy of a side is all E4M3 (R199). -/
def Tensor.allE4m3 (t : Tensor) : Bool := t.blks.all (fun l => l.all (fun b => b.null || b.tag = 2))

/-- The weight operand of a MATMUL_FWD with WLAYER (R194, R199). -/
def State.forwardWeight (s : State) (st : Stall) (x : Cmd) (layer : Nat) : Desc :=
  let f := s.weightDesc st x.hdr.mb layer .forward
  if st.inFallback layer && !(s.tensor f).allE4m3 then
    (match st.layer layer with
      | some e => s.weightDesc st x.hdr.mb layer (if e.rot then .fallback else .backward)
      | none => f)
  else f

/-- INT32-accumulate output: sums written, or converted with the product of the scales (R43, R88, R89). -/
def State.intProduct (s : State) (x : Cmd) (xd wd yd : Desc) : State :=
  let rx := x.p 28 4
  let rw := x.p 32 4
  let ps := (s.intLines xd rx).map (fun a => (s.intLines wd rw).map (fun b => intDot a b))
  let c : Cnt := { wraps := (ps.flatten.map (·.2)).sum }
  let t := s.countOver c (maskBits x.bays.toNat 64)
  if yd.ftag = 9 then t.put x.no yd.daddr (ps.flatten.flatMap (fun p => bytesLE 4 (p.1 % 4294967296).toNat))
  else t.produce x yd (ps.map (·.map (fun p => (XVal.ofRat ((p.1 : Rat) * recScale rx * recScale rw), false)))) [] []

def execMatmulFwd (c : CmdNo) (s : State) : Host.Outcome State Fault Refusal :=
  .next (match s.reading c 0x0301 with
    | none => s.stopped c 0x0301
    | some x =>
      match s.stall x.stallNo with
      | none => s
      | some st =>
        let opts := x.p 26 2
        let layer := x.p 24 2
        let xd := x.desc 0
        let yd := x.desc 16
        let wd := if bit opts 3 then s.forwardWeight st x layer else x.desc 8
        let t : State :=
          if bit opts 0 then s.intProduct x xd wd yd
          else
            let xt := s.operand x.stallNo xd
            let wt := s.operand x.stallNo wd
            let fb := st.inFallback layer
            if fb || bit opts 1 then
              let (xs, cx) := bRead xt (x.p 36 2) (bit opts 1) fb
              let copy := fb && bit opts 3
              let (ws, cw) := bRead wt (if copy then 0 else x.p 38 2) (bit opts 1 && !copy) fb
              s.deliverProduct x yd (bit opts 4) (bProduct xs ws (fun _ _ => none) (fun _ _ => 1)) (cx.add cw) false xd wd
            else
              let (cells, ci) := fProduct xt wt
              s.deliverProduct x yd (bit opts 4) cells ci (xt.promoted || wt.promoted) xd wd
        (if bit opts 2 then t.save x layer xd else t).doneCmd c)

/-- The right operand of a MATMUL_BWD with WLAYER: the fallback copy for a rotated one, else the backward copy (Table 12-17). -/
def State.backwardWeight (s : State) (st : Stall) (x : Cmd) : Desc :=
  s.weightDesc st x.hdr.mb (x.p 28 2) (if rotFlag (x.p 26 2) then .fallback else .backward)

def execMatmulBwd (c : CmdNo) (s : State) : Host.Outcome State Fault Refusal :=
  .next (match s.reading c 0x0302 with
    | none => s.stopped c 0x0302
    | some x =>
      match s.stall x.stallNo with
      | none => s
      | some st =>
        let opts := x.p 30 2
        let ad := x.desc 0
        let bd := if bit opts 1 then s.backwardWeight st x else x.desc 8
        let cd := x.desc 16
        let (xs, cx) := bOperand (s.operand x.stallNo ad) (orientT (x.p 24 2)) (bvecFlag (x.p 24 2))
        let (ws, cw) := bOperand (s.operand x.stallNo bd) (orientT (x.p 26 2)) (bvecFlag (x.p 26 2))
        let old := (s.tensor cd).wide
        let head := fun (i j : Nat) => if st.num.special && cd.calV && cd.calSlot = 4 then st.num.headroom cd.calLayer (i * cd.nb + j / 32) else 0
        let cells := if bit opts 0 then
            bProduct xs ws (fun i j => ((old[i]?).bind (·[j]?)).map (·.1)) (fun i j => pow2 (-(head i j : Int)))
          else bProduct xs ws (fun _ _ => none) (fun _ _ => 1)
        let cu : Cnt := if bit opts 0 then { flushedIn := (old.flatten.filter (·.2)).length } else {}
        (s.deliverProduct x cd false cells ((cx.add cw).add cu) false ad bd).doneCmd c)

/-! ## MATMUL_REF (R97 to R100, Table 03-5) -/

/-- √(a / b) rounded to FP32, +0 where a is 0 (R98). -/
def relErr (a b : Rat) : Nat := if a = 0 then 0 else if b = 0 then 0x7F7FFFFF else fp32.roundRoot 2 (a / b)

/-- Records of a narrow tensor with PROMOTED and with CLIPSAT set, and the outlier entries its blocks hold: none where OUTLIERS is
ignored or reserved (R54, R55, R81, Table 03-5). -/
def State.recordStats (s : State) (d : Desc) : Nat × Nat × Nat :=
  if !narrow d.ftag then (0, 0, 0)
  else
    let rs := (List.range (d.lines * d.nb)).map (fun i => s.readNat (d.saddr + 4 * i) 4)
    let entries := fun (r : Nat) => if bits r 31 24 = 0 || 1 < bits r 11 8 || r % 4 = 3 then 0 else r % 4
    ((rs.filter (fun r => bit r 3)).length, (rs.filter (fun r => bit r 2)).length, (rs.map entries).sum)

/-- MATMUL_REF. The wide result is rounded to FP32 whether or not it is written (R97). R98 does not say how a rotated Y_n is
compared: its elements are taken in their stored order against the wide result's. DESIGN CHOICE (log 64). -/
def execMatmulRef (c : CmdNo) (s : State) : Host.Outcome State Fault Refusal :=
  .next (match s.reading c 0x0306 with
    | none => s.stopped c 0x0306
    | some x =>
      let xt := s.operand x.stallNo (x.desc 0)
      let wt := s.operand x.stallNo (x.desc 8)
      let (xs, cx) := bOperand xt false true
      let (ws, cw) := bOperand wt false true
      let cells := bProduct xs ws (fun _ _ => none) (fun _ _ => 1)
      let wide := cells.map (fun r => r.map (fun k => fp32.write k.v false false))
      let yw := wide.map (fun r => r.map (fun w => (fp32.read w.1).1))
      let nt := s.operand x.stallNo (x.desc 32)
      let yn := nt.elems
      let pairs := List.zip yw.flatten (yn.flatten.map (·.1))
      let good := pairs.filter (fun p => p.1.finite && p.2.finite)
      let ds := good.map (fun p => p.2.rat - p.1.rat)
      let (pr1, cl1, ol1) := s.recordStats (x.desc 16)
      let (pr2, cl2, ol2) := s.recordStats (x.desc 24)
      let inputs := (cx.add cw).add nt.cnt
      let cnt := (inputs.add (cellCnt cells)).add (Cnt.sum (wide.flatten.map (·.2)))
      let sat := fun (n : Nat) => min n 0xFFFFFFFF
      let rec_ := bytesLE 32 (pack [(224, 32, sat (ol1 + ol2)), (192, 16, x.p 56 2), (160, 32, sat (pairs.length - good.length)), (128, 32, sat cnt.underwin),
        (96, 32, sat (pr1 + pr2)), (64, 32, sat (cl1 + cl2)), (32, 32, relErr (ratSum (ds.map (fun d => d * d))) (ratSum (good.map (fun p => p.1.rat * p.1.rat)))),
        (0, 32, fp32.roundMag (ratMax 0 (ds.map ratAbs)))])
      let t := if x.addr 48 = 0 then s.countOver cnt (maskBits x.bays.toNat 64) |>.flag c cnt false else s.deliverProduct x (x.desc 48) false cells inputs false (x.desc 0) (x.desc 8)
      (t.put c (x.addr 40) rec_).doneCmd c)

/-! ## SCALE_SCAN and CONVERT (R60, R139, R142, R490) -/

/-- The stall's quantisation of a destination, c = 1 without a stall (R143). -/
def State.qoptOf (s : State) (x : Cmd) (d : Desc) : QOpt :=
  match s.stall x.stallNo with | some st => st.qopt d | none => { tag := d.ftag, wide := d.wide, list := d.oaddr != 0 }

/-- The two range values of a block, mx first, in the source's format, FP32 for a narrow source (R142) and for an INT32 one, of which
R142 gives no format: DESIGN CHOICE (log 56). A zero mx is −0, and a zero mn +0, where no element is a zero of the other sign:
DEDUCED (log 48). -/
def rangeBytes (tag : Nat) (vs : List XVal) : List Byte :=
  let f := if narrow tag then fp32 else (fltOf tag).getD fp32
  let w := if narrow tag then 4 else tagBits tag / 8
  let ns := vs.filterMap (fun v => match v with | .fin r => some r | .zero _ => some 0 | _ => none)
  let code := fun (minus : Bool) (r : Rat) => (f.write (if r = 0 then .zero minus else .fin r) false false).1
  match ns with
  | [] => bytesLE w f.nan ++ bytesLE w f.nan
  | r :: rs => bytesLE w (code (!vs.contains (.zero false)) (ratMax r rs)) ++ bytesLE w (code (vs.contains (.zero true)) (ratMin r rs))

/-- SCALE_SCAN. A source block that reads as non-finite sets the command's flag (R55) and counts nothing (R142). It runs on every pair
of formats, those marked — in Table 02-5 too, since R60 refuses a CONVERT alone: DESIGN CHOICE (log 64). Its records and bounds
are the first pass's own, without the scale of a promoted block and without outlier entries: DEDUCED (log 48). -/
def execScaleScan (c : CmdNo) (s : State) : Host.Outcome State Fault Refusal :=
  .next (match s.reading c 0x0401 with
    | none => s.stopped c 0x0401
    | some x =>
      let src := s.operand x.stallNo (x.desc 0)
      let d := x.desc 8
      let rows := s.convertVals src d
      let o := s.qoptOf x d
      let first := fun (l k : Nat) =>
        let xs := lineBlock (rows.getD l []) k
        let (e, m, z) := firstPass d.ftag (if s.carried d (l * d.nb + k) then 1 else o.clip) (xs.map (·.1))
        ({ rec_ := recOf e m z d.ftag false false 0, tag := d.ftag, codes := [], cnt := {} } : BlkOut)
      let m : Made := if narrow d.ftag then makeNarrow d d.ftag ((List.range rows.length).map (fun l => (List.range d.nb).map (first l))) [] 0 false
        else
          let full := makeWide d ((fltOf d.ftag).getD fp32) (fun _ => 0) false rows
          { writes := full.writes.drop 1 }
      let t := s.putMade c m
      let t := if x.addr 16 = 0 then t
        else t.put c (x.addr 16) (slice ((s.sourceVals src).flatMap (fun l => (List.range (ceilDiv l.length 32)).flatMap (fun k => rangeBytes src.d.ftag ((lineBlock l k).map (·.1))))) 0 src.d.rangeLen)
      (t.flag c { nf := src.cnt.nf } false).doneCmd c)

/-- CONVERT. With SUPPLIED it uses no clip ratio (R143), and counts nothing in the calibration entry that its destination may name:
DEDUCED (log 65). -/
def execConvert (c : CmdNo) (s : State) : Host.Outcome State Fault Refusal :=
  .next (match s.reading c 0x0402 with
    | none => s.stopped c 0x0402
    | some x =>
      let d := x.desc 8
      let src := s.operand x.stallNo (x.desc 0)
      let rows := s.convertVals src d
      if x.p 16 2 % 2 = 1 && narrow d.ftag then
        let m := s.madeSupplied d (s.qoptOf x d).target rows
        ((((s.putMade c m).countOver (m.cnt.add (src.rotCnt d)) (maskBits x.bays.toNat 64)).flag c m.cnt false).stage d x.bays (src.elems.map (·.map (·.1)))).doneCmd c
      else ((s.produce x d rows [] (src.elems.map (·.map (·.1)))).countOver (src.rotCnt d) (maskBits x.bays.toNat 64)).doneCmd c)

end Sys2Proof.Machine
end

