-- ==== Sys2Proof/Machine/Stalls.lean ====
section
/-! DEFINITION. Stalls (chapter 12, R337 to R343): STALL_LOAD, STALL_SWITCH, STALL_EVICT. -/

namespace Sys2Proof.Machine

/-! ## Loading (R193, R207, R337, R343, R462) -/

/-- The window entries a STALL_LOAD carries, by slot. -/
def Cmd.loadWindows (x : Cmd) : TMap Window :=
  (List.range (min 16 (x.p 42 1))).foldl (fun m k =>
    let w := Window.ofNat (x.p (64 + 16 * k) 16)
    tset {} m k (if w.valid then w else {})) []

/-- The layer table a STALL_LOAD names. -/
def State.layerTable (s : State) (a n : Nat) : List LayerEnt := (List.range n).map (fun l => LayerEnt.ofNat (s.readNat (a + 32 * l) 32))

/-- A version record is named by a loaded stall other than `k`. -/
def State.namedElsewhere (s : State) (k vaddr : Nat) : Bool := s.stallsLoaded.any (fun y => y.1 != k && y.2.layers.any (fun e => e.vaddr.toNat = vaddr))

/-- The first version of a layer: side 0's copies converted from its BF16 copy, and the record at version 0 (R193). -/
def State.firstVersion (s : State) (x : Cmd) (k l : Nat) (e : LayerEnt) : State :=
  if e.vaddr = 0 || s.namedElsewhere k e.vaddr.toNat then s
  else
    match s.stall k with
    | some st => (s.convertSide x st l e (s.sideBase e.vaddr.toNat false)).putVers e.vaddr.toNat { valid0 := true }
    | none => s

/-- The seed of a stall: the one given, or one drawn from the random number generator (R92, R456). -/
def State.seedFor (s : State) (v : Nat) : U64 × State :=
  if v = 0 then (BitVec.ofNat 64 (Config.entropy s.freeCtr), { s with freeCtr := s.freeCtr + 1 }) else (BitVec.ofNat 64 v, s)

/-- The numerics state of a stall as loaded (Table 05-7, R158, R161). -/
def loadedNumerics (startlen : U16) : Numerics :=
  let h : NumHeader := { startlen := startlen, startleft := startlen, mode := if startlen = 0 then 0 else 1 }
  { now := { hdr := h }, closed := { hdr := h } }

def execStallLoad (c : CmdNo) (s : State) : Host.Outcome State Fault Refusal :=
  .next (match s.begins c 0x0101 with
    | none => s.stopped c 0x0101
    | some x =>
      let k := x.stallNo
      if x.p 16 8 = 0 && s.boot.rngStopped then s.endCmd c 0x60 0
      else
        let (seed, t) := s.seedFor (x.p 16 8)
        let st : Stall := { layers := s.layerTable (x.addr 0) (x.p 32 4), bays := BitVec.ofNat 64 (x.p 8 8), seed := seed, budget := BitVec.ofNat 16 (x.p 38 2)
                            numaddr := BitVec.ofNat 48 (x.addr 24), numcal := BitVec.ofNat 16 (x.p 36 2), windows := x.loadWindows, num := loadedNumerics (BitVec.ofNat 16 (x.p 40 2)) }
        let t := t.setStall k (some st)
        let t := (List.range st.layers.length).foldl (fun t l => match st.layer l with | some e => t.firstVersion x k l e | none => t) t
        t.doneCmd c)

/-! ## Switching and parking (R339, R340) -/

/-- Bytes of a side from its base to the end of its last copy, to the next 4 KiB (log 30). -/
def LayerEnt.sideBytes (e : LayerEnt) : Nat :=
  4096 * ceilDiv ((e.copy 0 0 .bf16 :: e.derived.map (e.copy 0 0)).foldl (fun n d => max n d.endAt) 0) 4096

/-- The places of a stall's sides in its park area, in the order of its layer table: (entry, park address) (R340). -/
def parkPlaces (a : Nat) : List LayerEnt → List (LayerEnt × Nat)
  | [] => []
  | e :: es => if e.vaddr = 0 then parkPlaces a es else (e, a) :: parkPlaces (a + e.sideBytes) es

/-- The first switch to a parked stall copies every current side back (R340). -/
def State.unpark (s : State) (k : Nat) (c : CmdNo) : State :=
  match s.stall k with
  | some st =>
    match st.parked with
    | some a =>
      let t := (parkPlaces a st.layers).foldl (fun t p => t.put c (t.sideBase p.1.vaddr.toNat (t.vers p.1.vaddr.toNat).cur) (t.readBytes p.2 p.1.sideBytes)) s
      t.setStall k (some { st with parked := none })
    | none => s
  | none => s

/-- A bay runs a command, or the conversions of a publication, of another stall. -/
def State.bayBusy (s : State) (b k : Nat) : Bool :=
  s.ck.cmds.any (fun x => x.runs && x.stallNo != k && x.bays.getLsbD b) ||
    s.ck.pubs.any (fun p => match p.conv with | some y => y.1 != k && y.2.getLsbD b | none => false)

/-- Where the current side of a version record that a parked stall names lies in its park area (R340). -/
def State.parkPlace (s : State) (vaddr : Nat) : Option Nat :=
  s.stallsLoaded.findSome? (fun k => k.2.parked.bind (fun a => ((parkPlaces a k.2.layers).find? (fun p => p.1.vaddr.toNat = vaddr)).map (·.2)))

/-- The base at which a side that is current is read, or restored: that of its place in the park area while a stall that names it is
parked, since the Clerk touches no side of a parked stall (R340). DEDUCED (log 32). -/
def State.currentBase (s : State) (vaddr : Nat) (side : Bool) : Nat := (s.parkPlace vaddr).getD (s.sideBase vaddr side)

/-- Switch bays to a stall (R339). -/
def State.switchBays (s : State) (k : Nat) (bs : List Nat) : State :=
  bs.foldl (fun t b => t.setBay b { t.bay b with stall := some k }) s

def execStallSwitch (c : CmdNo) (s : State) : Host.Outcome State Fault Refusal :=
  .next (match s.running c 0x0102 with
    | none => s
    | some x =>
      match s.stall x.stallNo with
      | none => s
      | some st =>
        let m := if x.p 0 8 = 0 then st.bays.toNat else x.p 0 8
        let bs := (maskBits m 64).filter s.bayActive
        if bs.any (fun b => s.bayBusy b x.stallNo) then s
        else ((s.unpark x.stallNo c).switchBays x.stallNo bs).doneCmd c)

/-- PARK waits too for a publication of its layers that writes a side. DEDUCED (log 50). -/
def execStallEvictPark (c : CmdNo) (s : State) : Host.Outcome State Fault Refusal :=
  .next (match s.begins c 0x0103 with
    | none => s.stopped c 0x0103
    | some x =>
      match s.stall x.stallNo with
      | none => s
      | some st =>
        if x.p 0 1 != 1 || st.live != [] || s.ck.pubs.any (fun p => p.converting && st.layers.any (fun e => e.vaddr.toNat = p.vaddr)) then s
        else
          let t := (parkPlaces (x.addr 8) st.layers).foldl (fun t p =>
            let a := p.1.vaddr.toNat
            let v := t.vers a
            (t.put c p.2 (t.readBytes (t.sideBase a v.cur) p.1.sideBytes)).putVers a (if v.cur then { v with valid0 := false } else { v with valid1 := false })) s
          (t.setStall x.stallNo (some { st with parked := some (x.addr 8) })).doneCmd c)

/-! ## Dropping (R131, R132, R341) -/

/-- A stall ends: its number is free, its bays hold none, and the layer records that no other loaded stall names are held no
longer. -/
def State.dropStall (s : State) (k : Nat) (st : Stall) : State :=
  let t := s.setStall k none
  let t := ((List.range 64).filter (fun b => (t.bay b).stall = some k)).foldl (fun t b => t.setBay b { t.bay b with stall := none }) t
  (st.layers.map (fun e => e.lraddr.toNat)).foldl (fun t a => if t.stallsLoaded.any (fun y => y.2.layers.any (fun e => e.lraddr.toNat = a)) then t else t.setLrec a none) t

def execStallEvictDrop (c : CmdNo) (s : State) : Host.Outcome State Fault Refusal :=
  .next (match s.begins c 0x0103 with
    | none => s.stopped c 0x0103
    | some x =>
      match s.stall x.stallNo with
      | none => s
      | some _ =>
        if x.p 0 1 != 0 then s
        else
          let t := s.quiesceStall x.stallNo c
          match t.stall x.stallNo with
          | some st => if t.stallBusy x.stallNo c then t else (t.dropStall x.stallNo st).doneCmd c
          | none => t)

end Sys2Proof.Machine
end

