-- ==== Sys2Proof/Machine/Miller.lean ====
section
/-! DEFINITION. The Millers (chapter 06): layer records, the update rule, inverse roots, PRECOND_REFRESH and MASK_SET. -/

namespace Sys2Proof.Machine

/-! ## Layer records (R171 to R174, Table 06-1) -/

/-- A layer record: the fields software writes, and the fields the owning Miller holds. -/
structure LRec where
  waddr : Nat
  maddr : Nat
  laddr : Nat
  raddr : Nat
  gaddr : Nat
  kaddr : Nat
  saddr : Nat
  vaddr : Nat
  rows : Nat
  cols : Nat
  beta1 : Nat
  beta2 : Nat
  eps : Nat
  wd : Nat
  refresh : Nat
  itermax : Nat
  tole : Nat
  layer : Nat
  kind : Nat
  freeze : Bool
  masked : Bool
  stagger : Bool
  ro : LayerRO
deriving DecidableEq, Repr

/-- The RO fields of a record's 128 bytes. -/
def LayerRO.ofNat (v : Nat) : LayerRO :=
  let w := fun lo => BitVec.ofNat 32 (bits v (lo + 31) lo)
  { staged := bit v 410, dirty := bit v 409, step := w 368, p1 := w 336, p2 := w 304, nextstep := w 272, lastlr := w 240, rootfails := w 208, diagsteps := w 176
    flagged := w 144, underwin := w 112, lastiters := BitVec.ofNat 16 (bits v 111 96), updates := w 64, saturated := w 32 }

/-- The low 52 bytes of a record with its RO fields written, keeping the RW bits of byte 51. -/
def LayerRO.bytes (r : LayerRO) (keep : Nat) : List Byte :=
  bytesLE 52 (pack [(411, 5, keep), (410, 1, b1 r.staged), (409, 1, b1 r.dirty), (368, 32, r.step.toNat), (336, 32, r.p1.toNat), (304, 32, r.p2.toNat),
    (272, 32, r.nextstep.toNat), (240, 32, r.lastlr.toNat), (208, 32, r.rootfails.toNat), (176, 32, r.diagsteps.toNat), (144, 32, r.flagged.toNat),
    (112, 32, r.underwin.toNat), (96, 16, r.lastiters.toNat), (64, 32, r.updates.toNat), (32, 32, r.saturated.toNat)])

/-- The record at an address: RO fields are the Miller's while the layer is in service (R172). -/
def State.layerRec (s : State) (a : Nat) : LRec :=
  let v := s.readNat a 128
  { waddr := bits v 1023 976, maddr := bits v 975 928, laddr := bits v 927 880, raddr := bits v 879 832, gaddr := bits v 831 784, kaddr := bits v 783 736
    saddr := bits v 735 688, vaddr := bits v 687 640, rows := bits v 639 616, cols := bits v 615 592, beta1 := bits v 591 560, beta2 := bits v 559 528
    eps := bits v 527 496, wd := bits v 495 464, refresh := bits v 463 448, itermax := bits v 447 440, tole := bits v 439 432, layer := bits v 431 416
    kind := bits v 415 414, freeze := bit v 413, masked := bit v 412, stagger := bit v 411
    ro := match s.lrec a with | some r => r | none => LayerRO.ofNat v }

/-- The Miller's copy of the RO fields changed, and written into the record (R172). -/
def State.putLayerRO (s : State) (c : CmdNo) (a : Nat) (r : LayerRO) : State :=
  (s.setLrec a (some r)).putRecord c a (r.bytes (bits (s.readNat a 128) 415 411))

/-- Row blocks, or column blocks, of 1,024: index, first line, size (R178). -/
def blocks1024 (n : Nat) : List (Nat × Nat × Nat) := (List.range (ceilDiv n 1024)).map (fun b => (b, 1024 * b, min 1024 (n - 1024 * b)))
/-- 8 MiB + 4 KiB (R179). -/
def blockStride : Nat := 0x801000
def rootOff : Nat := 0x400000
def statusOff : Nat := 0x800000

/-- Bytes of a factor region (R179, R180). -/
def factorBytes (kind n : Nat) : Nat := if kind = 1 then 4 * n else (ceilDiv n 1024 - 1) * blockStride + statusOff + 4

/-- Every region a record names but the version record, as spans (R171). -/
def LRec.regions (r : LRec) : List Span :=
  let mn := r.rows * r.cols
  [⟨r.waddr, 40 * ceilDiv mn 8, true⟩, ⟨r.maddr, 4 * mn, true⟩, ⟨r.laddr, factorBytes r.kind r.rows, true⟩, ⟨r.raddr, factorBytes r.kind r.cols, true⟩,
    ⟨r.gaddr, 4 * mn, false⟩, ⟨r.saddr, 6 * mn, true⟩, ⟨r.kaddr, ceilDiv mn 8, false⟩]

/-- An FP32 code is a value from `lo` to `hi`, `hi` itself excluded where `open_`. -/
def codeIn01 (code : Nat) (lo hi : Rat) (open_ : Bool) : Bool :=
  let x := (fp32.read code).1
  x.finite && decide (lo ≤ x.rat) && (if open_ then decide (x.rat < hi) else decide (x.rat ≤ hi))

/-- Limits of Table 06-1 and R173. -/
def LRec.limits (r : LRec) : Bool :=
  1 ≤ r.rows && 1 ≤ r.cols && r.kind ≤ 1 && (r.kind = 1 || (2 ≤ r.rows && 2 ≤ r.cols)) && codeIn01 r.beta1 0 1 true && codeIn01 r.beta2 0 1 true &&
    codeIn01 r.eps (pow2 (-20)) 1 false && codeIn01 r.wd 0 1 true && 1 ≤ r.refresh && 1 ≤ r.itermax && r.itermax ≤ 20 && 10 ≤ r.tole && r.tole ≤ 22

/-- R171: the record is within its limits, its regions lie in its own Granary group and its version record in Tier N. -/
def LRec.ok (r : LRec) (a : Nat) : Bool :=
  r.limits && inTier 2 a 128 && (r.vaddr = 0 || inTier 0 r.vaddr 32) &&
    r.regions.all (fun p => inTier 2 p.lo p.len && groupOf p.lo = groupOf a && groupOf (p.lo + p.len - 1) = groupOf a)

/-! ## Miller arithmetic (R175) -/

abbrev Mat := List (List XVal)

/-- Saturations and under-window events of a piece of work. -/
structure Marks where
  sat : Nat := 0
  uw : Nat := 0
deriving DecidableEq, Repr

def Marks.add (a b : Marks) : Marks := ⟨a.sat + b.sat, a.uw + b.uw⟩
def Marks.sum (l : List Marks) : Marks := l.foldl Marks.add {}

/-- An exact sum (R48). -/
def sumX (l : List XVal) : XVal :=
  if l.any (fun x => !x.finite) then .nan false
  else
    let t := ratSum (l.map XVal.rat)
    if t = 0 then .zero (l != [] && l.all (fun x => x.isZero && x.neg)) else .fin t
/-- An exact product of finite values; a value that is not finite makes NaN. -/
def prodX (l : List XVal) : XVal :=
  let n := l.foldl (fun a x => a != x.neg) false
  if l.any (fun x => !x.finite) then .nan n
  else
    let p := l.foldl (fun a x => a * x.rat) 1
    if p = 0 then .zero n else .fin p
def negX : XVal → XVal
  | .zero n => .zero (!n) | .fin v => .fin (-v) | .inf n => .inf (!n) | .nan n => .nan (!n)
/-- Division by an exact value; by zero, NaN. -/
def divX (x : XVal) (d : Rat) : XVal := if d = 0 then .nan false else prodX [x, .fin (1 / d)]

/-- One rounding of a line (R49, R47, R50). -/
def round1 (f : Flt) (x : XVal) : XVal × Marks :=
  let w := f.write x false false
  ((f.read w.1).1, ⟨w.2.saturated, 0⟩)
def roundV (f : Flt) (l : List XVal) : List XVal × Marks := let r := l.map (round1 f); (r.map (·.1), Marks.sum (r.map (·.2)))
def roundM (f : Flt) (a : Mat) : Mat × Marks := let r := a.map (roundV f); (r.map (·.1), Marks.sum (r.map (·.2)))

/-- A line marked mm (R175): rows by columns, each product times `fac`, with `extra` in the same ledger, the sum times `post`,
rounded once to FP32. `sym`: only the tiles on and above the diagonal are computed (R179). -/
def mm (rows cols : Mat) (fac post : Rat) (extra : Option Mat) (sym : Bool) : Mat × Marks :=
  let rh := rows.map (fun r => intMax? (r.filterMap wideBound))
  let ch := cols.map (fun c => intMax? (c.filterMap wideBound))
  let cell := fun (i j : Nat) =>
    let r := rows.getD i []
    let c := cols.getD j []
    let e := extra.map (fun m => (m.getD i []).getD j (.zero false))
    if r.any (fun x => !x.finite) || c.any (fun x => !x.finite) || (match e with | some x => !x.finite | none => false) then poisonedCell
    else
      let base : Option Int := match (rh[i]?).join, (ch[j]?).join with | some a, some b => some (a + b) | _, _ => none
      let he : Option Int := e.bind wideBound
      let anchor : Option Int := match base, he with | some a, some b => some (max a b) | some a, none => some a | none, b => b
      let cs := List.zipWith (fun (x y : XVal) => let p := mulVal x y; (⟨fac * p.1, p.2, none, none⟩ : Contrib)) r c
      let es := match e with | some x => [(⟨x.rat, x.isZero && x.neg, none, none⟩ : Contrib)] | none => []
      ledger anchor post none (es ++ cs)
  let out := (List.range rows.length).map (fun i => (List.range cols.length).map (fun j =>
    let k := cell i j
    let w := round1 fp32 k.v
    (w.1, if !sym || i / 64 ≤ j / 64 then (⟨w.2.sat, k.under⟩ : Marks) else {})))
  (out.map (·.map (·.1)), Marks.sum (out.flatMap (·.map (·.2))))

/-- Columns of a matrix. -/
def colsOf (n : Nat) (m : Mat) : Mat := crosswise n (.zero false) m

/-! ## Inverse roots (R184 to R187) -/

/-- Result of a refresh: the root and its iterations, or a failure. -/
abbrev Refreshed := Option (Mat × Nat) × Marks

/-- The coupled iteration, from x and y, with `fuel` iterations left after `done` (R184). -/
def newton (s : Nat) (tole : Nat) : (fuel done : Nat) → (x y : Mat) → Marks → Refreshed
  | 0, _, _, _, m => (none, m)
  | fuel + 1, done, x, y, m =>
    let (q, m0) := roundM fp32 ((List.range s).map (fun i => (List.range s).map (fun k =>
      prodX [sumX [if i = k then .fin 5 else .zero false, negX ((y.getD i []).getD k (.zero false))], .fin (pow2 (-2))])))
    let (x', m1) := mm x (colsOf s q) 1 1 none false
    let (q2, m2) := mm q (colsOf s q) 1 1 none false
    let (q4, m3) := mm q2 (colsOf s q2) 1 1 none false
    let (y', m4) := mm q4 (colsOf s y) 1 1 none false
    let m := Marks.sum [m, m0, m1, m2, m3, m4]
    if (x' ++ y').any (fun r => r.any (fun v => !v.finite)) then (none, m)
    else
      let worst := ratMax 0 ((List.range s).flatMap (fun i => (List.range s).map (fun k =>
        ratAbs (((y'.getD i []).getD k (.zero false)).rat - (if i = k then 1 else 0)))))
      if worst ≤ pow2 (-(tole : Int)) then (some (x', done + 1), m) else newton s tole fuel (done + 1) x' y' m

/-- Smallest multiple of 4 with 2^e at or above a positive value. -/
def ceil4 (v : Rat) : Int :=
  let k := floorLog2 v
  let c := if v = pow2 k then k else k + 1
  4 * ((c + 3) / 4)

def identity (s : Nat) : Mat := (List.range s).map (fun i => (List.range s).map (fun k => if i = k then .fin 1 else .zero false))

/-- A refresh of a factor block (R184). A trace that is not positive has no e: the refresh fails (log 26). -/
def refreshBlock (f : Mat) (s : Nat) (bc2 eps : Rat) (itermax tole : Nat) : Refreshed :=
  let (a, m0) := roundM fp32 (f.map (·.map (fun v => divX v bc2)))
  let diag := fun (a : Mat) => (List.range s).map (fun i => (a.getD i []).getD i (.zero false))
  let (tr, m1) := round1 fp32 (sumX (diag a))
  if !tr.finite then (none, m0.add m1)
  else if tr.isZero then (some (identity s, 0), m0.add m1)
  else
    let (delta, m2) := round1 fp32 (prodX [.ofRat eps, tr, .fin (mkRat 1 s)])
    let rows := (List.range s).map (fun i => (List.range s).map (fun k =>
      let v := (a.getD i []).getD k (.zero false)
      if i = k then round1 fp32 (sumX [v, delta]) else (v, {})))
    let a : Mat := rows.map (·.map (·.1))
    let m := Marks.sum ([m0, m1, m2] ++ rows.flatMap (·.map (·.2)))
    let total := sumX (diag a)
    if !total.finite || total.rat ≤ 0 then (none, m)
    else
      let e := ceil4 total.rat
      newton s tole itermax 0 ((identity s).map (·.map (fun v => v.times (pow2 (-(e / 4)))))) (a.map (·.map (fun v => v.times (pow2 (-e))))) m

/-- The diagonal rule (R187). -/
def diagRule (f : List XVal) (bc2 eps : Rat) : List XVal × Marks :=
  let (a, m0) := roundV fp32 (f.map (fun v => divX v bc2))
  let (tr, m1) := round1 fp32 (sumX a)
  let (delta, m2) := round1 fp32 (prodX [.ofRat eps, tr, .fin (mkRat 1 f.length)])
  let (vs, m3) := roundV fp32 (a.map (fun x => sumX [x, delta]))
  (vs.map (fun v => match v with
    | .zero _ => .fin 1
    | .fin q => if q < 0 then .nan false else (fp32.read (fp32.roundRoot 4 (1 / q))).1
    | _ => .nan false), Marks.sum [m0, m1, m2, m3])

def diagMat (d : List XVal) : Mat := (List.range d.length).map (fun i => (List.range d.length).map (fun k => if i = k then d.getD i (.zero false) else .zero false))

/-! ## The update rule (R176, R177, R180) -/

/-- Values of `r` rows of `n` FP32 elements. -/
def State.readMat (s : State) (a r n : Nat) : Mat := (List.range r).map (fun i => (List.range n).map (fun j => (fp32.read (s.readNat (a + 4 * (i * n + j)) 4)).1))
/-- FP32 bytes of a matrix whose values are FP32 values. -/
def matBytes (m : Mat) : List Byte := m.flatten.flatMap (fun v => bytesLE 4 (fp32.write v false false).1)
def Mat.finite (m : Mat) : Bool := m.all (fun r => r.all XVal.finite)

/-- Block status word (Table 06-2). -/
structure BlkStatus where
  valid : Bool
  failed : Bool
  iters : Nat
  age : Nat
deriving DecidableEq, Repr

def BlkStatus.ofNat (v : Nat) : BlkStatus := ⟨bit v 31, bit v 30, bits v 23 16, bits v 15 0⟩
def BlkStatus.toNat (b : BlkStatus) : Nat := pack [(31, 1, b1 b.valid), (30, 1, b1 b.failed), (16, 8, b.iters), (0, 16, b.age)]

/-- Work on one factor block: bytes written, the root in use, and what it adds to the record's counts. -/
structure BlkWork where
  writes : List (Nat × List Byte)
  root : Mat
  fail : Nat := 0
  diag : Nat := 0
  iters : Option Nat := none
  ran : Bool := false
  m : Marks
deriving DecidableEq, Repr

/-- A root refresh, where due, of a block whose factor is `f`, and the root in use (R183, R185, R186). `use`: an update uses
the root. -/
def rootWork (base s : Nat) (f : Mat) (st : BlkStatus) (stored : Mat) (due use : Bool) (bc2 eps : Rat) (itermax tole : Nat) : BlkWork :=
  let put := fun (b : BlkStatus) => (base + statusOff, bytesLE 4 b.toNat)
  let fallback := fun (b : BlkStatus) (m : Marks) (fail : Nat) (ran : Bool) =>
    let (d, m2) := diagRule ((List.range s).map (fun i => (f.getD i []).getD i (.zero false))) bc2 eps
    ({ writes := [put b], root := diagMat d, fail := fail, diag := b1 use, ran := ran, m := if use then m.add m2 else m } : BlkWork)
  let aged := fun (b : BlkStatus) => if use then { b with age := min 0xFFFF (b.age + 1) } else b
  if due || (use && !st.valid) then
    let (r, m) := refreshBlock f s bc2 eps itermax tole
    match r with
    | some (root, n) => { writes := [(base + rootOff, matBytes root), put ⟨true, false, n, 0⟩], root := root, iters := some n, ran := true, m := m }
    | none =>
      if st.valid then { writes := [put (aged { st with failed := true })], root := stored, fail := 1, ran := true, m := m }
      else fallback { st with failed := true } m 1 true
  else { writes := [put (aged st)], root := stored, m := {} }

/-- What an update does: bytes written and the new RO fields; none where a stored value is NaN or infinite (R182). -/
structure Applied where
  writes : List (Nat × List Byte)
  ro : LayerRO
  m : Marks
deriving DecidableEq, Repr

/-- Mask bits of a layer (R174). -/
def State.maskOf (s : State) (r : LRec) : List Bool :=
  if r.masked then (List.range (r.rows * r.cols)).map (fun i => bit (s.readNat (r.kaddr + i / 8) 1) (i % 8)) else List.replicate (r.rows * r.cols) false

/-- The headroom that a block of a layer's gradient had in a step: the tables as they stood before that step's close changed them, so
that the value that reaches the update is unchanged (R160). -/
def Numerics.headIn (n : Numerics) (step layer b : Nat) : Nat :=
  match (n.closedHeads.filter (fun d => d.1 = step)).getLast? with
  | some d => ((((d.2.find? (fun t => t.1 = layer)).map (·.2)).getD []).find? (fun h => h.1.toNat = b)).elim 0 (fun h => h.2.toNat)
  | none => 0

/-- The gradient of a step that the rule uses (R176). -/
def State.gradient (s : State) (r : LRec) (n : Numerics) (step : Nat) (off : List Nat) (reduced : Bool) (mask : List Bool) : Mat × Marks :=
  let nb := ceilDiv r.cols 32
  let g := s.readMat r.gaddr r.rows r.cols
  let rows := (List.range r.rows).map (fun i => (List.range r.cols).map (fun j =>
    let b := i * nb + j / 32
    let x := (g.getD i []).getD j (.zero false)
    if mask.getD (i * r.cols + j) false || off.contains b then (XVal.zero false, ({} : Marks))
    else if reduced then (x, {})
    else round1 fp32 (x.times (pow2 ((n.headIn step r.layer b : Int) - n.now.hdr.lsexp.toNat)))))
  (rows.map (·.map (·.1)), Marks.sum (rows.flatMap (·.map (·.2))))

/-- R177, R180: the update of a layer for a step whose offending blocks of slot 4 are `off`. -/
def State.applyUpdate (s : State) (r : LRec) (n : Numerics) (off : List Nat) (opts lrCode : Nat) (lr : Rat) (step : Nat) : Option Applied :=
  let (rs, cs) := (r.rows, r.cols)
  let mn := rs * cs
  let mask := s.maskOf r
  let wcodes := (List.range mn).map (fun i => s.readNat (r.waddr + 5 * i) 5)
  let ws := wcodes.map (fun k => (mw40.read k).1)
  let ms := s.readMat r.maddr rs cs
  let val := fun (k : Nat) => (fp32.read k).1.rat
  let (be1, be2, eps) := (val r.beta1, val r.beta2, val r.eps)
  let (g, mg) := s.gradient r n step off (bit opts 3) mask
  let t := min 0xFFFFFFFF (r.ro.step.toNat + 1)
  let (p1, m1) := round1 fp32 (.ofRat (be1 * val r.ro.p1.toNat))
  let (p2, m2) := round1 fp32 (.ofRat (be2 * val r.ro.p2.toNat))
  let bc1 := rnd fp32 (1 - p1.rat)
  let bc2 := rnd fp32 (1 - p2.rat)
  let (mnew, m3) := roundM fp32 (List.zipWith (fun mr gr => List.zipWith (fun x y => sumX [prodX [.ofRat be1, x], prodX [.ofRat (1 - be1), y]]) mr gr) ms g)
  let blk := fun (left : Bool) (base0 j0 : Nat) (b : Nat × Nat × Nat) =>
    let base := base0 + b.1 * blockStride
    let sz := b.2.2
    let lines : Mat := if left then (g.drop b.2.1).take sz else ((colsOf cs g).drop b.2.1).take sz
    let old := s.readMat base sz sz
    let st := BlkStatus.ofNat (s.readNat (base + statusOff) 4)
    let stored := s.readMat (base + rootOff) sz sz
    let (f, mf) := mm lines lines (1 - be2) 1 (some (old.map (·.map (fun v => prodX [.ofRat be2, v])))) true
    let sched := (t + (if r.stagger then j0 + b.1 else 0)) % r.refresh = 0
    let w := rootWork base sz f st stored (bit opts 1 || (sched && !bit opts 0)) true bc2 eps r.itermax r.tole
    ((old.finite && (!st.valid || stored.finite)), b, { w with writes := (base, matBytes f) :: w.writes, m := w.m.add mf })
  let rb := blocks1024 rs
  let bl := if r.kind = 0 then rb.map (blk true r.laddr 0) else []
  let br := if r.kind = 0 then (blocks1024 cs).map (blk false r.raddr rb.length) else []
  let lf0 := if r.kind = 0 then [] else (s.readMat r.laddr 1 rs).flatten
  let rf0 := if r.kind = 0 then [] else (s.readMat r.raddr 1 cs).flatten
  if !(ws.all XVal.finite && ms.finite && (bl ++ br).all (·.1) && (lf0 ++ rf0).all XVal.finite) then none
  else
    let sq := fun (v : XVal) => prodX [.ofRat (1 - be2), v, v]
    let (u, wr, mu) : Mat × List (Nat × List Byte) × Marks :=
      if r.kind = 0 then
        let tts := bl.map (fun x => mm x.2.2.root (colsOf cs ((mnew.drop x.2.1.2.1).take x.2.1.2.2)) 1 1 none false)
        let tt : Mat := tts.flatMap (·.1)
        let us := br.map (fun x => mm (tt.map (fun l => (l.drop x.2.1.2.1).take x.2.1.2.2)) (colsOf x.2.1.2.2 x.2.2.root) 1 (1 / bc1) none false)
        let u : Mat := (List.range rs).map (fun i => us.flatMap (fun x => x.1.getD i []))
        (u, (bl ++ br).flatMap (fun x => x.2.2.writes) ++ [(r.saddr + 2 * mn, matBytes tt)],
          Marks.sum ((bl ++ br).map (fun x => x.2.2.m) ++ tts.map (·.2) ++ us.map (·.2)))
      else
        let (lf, ml) := roundV fp32 (List.zipWith (fun x gr => sumX (prodX [.ofRat be2, x] :: gr.map sq)) lf0 g)
        let (rf, mr) := roundV fp32 (List.zipWith (fun x gc => sumX (prodX [.ofRat be2, x] :: gc.map sq)) rf0 (colsOf cs g))
        let (dl, md) := diagRule lf bc2 eps
        let (dr, me) := diagRule rf bc2 eps
        let (u, mv) := roundM fp32 (List.zipWith (fun mr d => List.zipWith (fun x e => divX (prodX [x, d, e]) bc1) mr dr) mnew dl)
        (u, [(r.laddr, matBytes [lf]), (r.raddr, matBytes [rf])], Marks.sum [ml, mr, md, me, mv])
    let wd := val r.wd
    let el := (List.range mn).map (fun i =>
      let w0 := ws.getD i (.zero false)
      if mask.getD i false then (wcodes.getD i 0, s.readNat (r.saddr + 2 * i) 2, ({} : Marks))
      else
        let x := sumX [w0, negX (prodX [.ofRat lr, sumX [(u.getD (i / cs) []).getD (i % cs) (.zero false), prodX [.ofRat wd, w0]]])]
        let w := mw40.write x false false
        let b := bf16.write (mw40.read w.1).1 false false
        (w.1, b.1, ⟨w.2.saturated + b.2.saturated, 0⟩))
    let m := Marks.sum ([mg, m1, m2, m3, mu] ++ el.map (·.2.2))
    let works := (bl ++ br).map (fun x => x.2.2)
    let pad := bytesLE (40 * ceilDiv mn 8 - 5 * mn) 0
    some
      { writes := wr ++ [(r.waddr, el.flatMap (fun x => bytesLE 5 x.1) ++ pad), (r.maddr, matBytes mnew), (r.saddr, el.flatMap (fun x => bytesLE 2 x.2.1))]
        ro := { r.ro with step := BitVec.ofNat 32 t, p1 := BitVec.ofNat 32 (fp32.write p1 false false).1, p2 := BitVec.ofNat 32 (fp32.write p2 false false).1, nextstep := BitVec.ofNat 32 (step + 1), lastlr := BitVec.ofNat 32 lrCode, staged := true, dirty := false, rootfails := satAdd r.ro.rootfails (works.map (·.fail)).sum, diagsteps := satAdd r.ro.diagsteps (works.map (·.diag)).sum, flagged := satAdd r.ro.flagged off.length, underwin := satAdd r.ro.underwin m.uw, lastiters := if works.any (·.ran) then BitVec.ofNat 16 ((works.filterMap (·.iters)).foldl max 0) else r.ro.lastiters, updates := satAdd r.ro.updates 1, saturated := satAdd r.ro.saturated m.sat }
        m := m }

/-! ## Publication (R197, R200) -/

/-- The layer of a stall's table with a version record. -/
def Stall.layerOf (st : Stall) (r : LRec) : Option Nat :=
  match st.layer r.layer with
  | some e => if e.vaddr.toNat = r.vaddr then some r.layer else none
  | none => none

/-- The publication in progress of a version record. -/
def State.pubOf (s : State) (vaddr : Nat) : Option Publication := s.ck.pubs.find? (fun p => p.vaddr = vaddr)
/-- Change the publication of a version record. -/
def State.setPub (s : State) (p : Publication) : State :=
  { s with ck := { s.ck with pubs := s.ck.pubs.map (fun q => if q.vaddr = p.vaddr then p else q) } }
def State.dropPub (s : State) (vaddr : Nat) : State :=
  { s with ck := { s.ck with pubs := s.ck.pubs.filter (fun q => q.vaddr != vaddr) } }

/-- The bays of the conversions of a publication can be switched: none runs a command of another stall, each is in A0 (R339, R400). -/
def State.convFree (s : State) (vaddr : Nat) : Bool :=
  match s.pubStall vaddr with
  | some (j, _) => (maskBits (s.convBays vaddr).toNat 64).all (fun b => !s.bayBusy b j && (s.power b).state = .a0 && (s.power b).entering.isNone)
  | none => true

/-- What keeps step 2 of R197 from a side without pins: its version record became current on this edge, so that a start of the edge
still pins that side (R31, R198), or a parked stall names the record, and its copies have still to come back (R340): where that stall
converts, they come back with the switch of its bays. DEDUCED (log 50). -/
def State.pubHeld (s : State) (vaddr : Nat) : Bool :=
  (s.vers vaddr).flipped = some s.clk.ticks ||
    s.stallsLoaded.any (fun k => k.2.parked.isSome && k.2.layers.any (fun e => e.vaddr.toNat = vaddr) &&
      !((match s.pubStall vaddr with | some (j, _) => j = k.1 | none => false) && s.convFree vaddr))

/-- Step 3 of R197: the conversions start, once the bays of the stall that converts can be switched to it (R339); bays not in A0 are
woken (R400). With no ACTIVE bay the publishing command ends UNIT_FENCED, as a compute command does (R424). -/
def State.startConv (s : State) (x : Cmd) (p : Publication) : State :=
  match s.pubStall p.vaddr with
  | none => s.setPub { p with conv := some (255, 0) }
  | some (j, st, l, e) =>
    let m := s.convBays p.vaddr
    if m = 0 then (s.dropPub p.vaddr).endCmd x.no 0x50 (bayCode ((maskBits st.bays.toNat 64).head?.getD 0))
    else if s.convFree p.vaddr then
      (((s.switchBays j (maskBits m.toNat 64)).convertSide { x with hdr := { x.hdr with stall := BitVec.ofNat 8 j } } st l e
        (s.sideBase p.vaddr (!(s.vers p.vaddr).cur)))).setPub { p with conv := some (j, m) }
    else (((maskBits m.toNat 64).filter (fun b => (s.power b).state != .a0 || (s.power b).entering.isSome)).foldl State.wakeOnDemand s).setPub p

/-- Step 2 of R197: the first switch to a parked stall that converts, VALID of the side that is not current cleared, the staged copy
streamed to it; step 3 follows. -/
def State.streamSide (s : State) (x : Cmd) (p : Publication) : State :=
  let v := s.vers p.vaddr
  let side := !v.cur
  let t := match s.pubStall p.vaddr with | some (j, _) => s.unpark j x.no | none => s
  let t := t.putVers p.vaddr (if side then { v with valid1 := false } else { v with valid0 := false })
  let r := t.layerRec p.lraddr
  let t := t.put x.no (t.sideBase p.vaddr side) (t.readBytes r.saddr (2 * r.rows * r.cols))
  t.startConv x p

/-- The steps that a round has still to issue from a step on and that wait for those already issued: from the first WAIT on all of
them, before it those with FENCE (R348, Table 12-10). -/
def Round.waiters (rd : Round) : (fuel : Nat) → (waits : Bool) → (at_ : Option Nat) → List RStep
  | 0, _, _ => []
  | _, _, none => []
  | n + 1, waits, some i =>
    match rd.steps[i]? with
    | none => []
    | some st =>
      let w := waits || bit st.ctl.toNat 15
      let next := bits st.ctl.toNat 63 48
      (if w || (Header.ofBytes st.packet).fence then [st] else []) ++ rd.waiters n w (if next = 0xFFFF then none else some next)

/-- Those of a running round, with the steps of another iteration, which starts when this one has completed (R348). -/
def Round.behind (rd : Round) (run : RoundRun) : List RStep :=
  if run.stop.isSome then []
  else rd.waiters rd.steps.length false run.next ++
    (if run.iters = 0 || run.iter + 1 - run.startIter != run.iters then rd.waiters rd.steps.length true (some run.first) else [])

/-- Micro-batch `mb` of stall `k` has a command that waits, in round order, for a command: a step still to be issued, an issued one
with FENCE, or one that waits for the ROUND_START that issued it (R200, R348). -/
def State.waitsInRound (s : State) (k : Nat) (mb : Byte) : (fuel : Nat) → Cmd → Bool
  | 0, _ => false
  | n + 1, x =>
    match x.origin with
    | .round r _ =>
      match s.round r with
      | some rd =>
        match rd.run with
        | some run =>
          (rd.behind run).any (fun st => let h := Header.ofBytes st.packet; h.stall.toNat = k && h.mb == mb) ||
            s.ck.cmds.any (fun y => (match y.origin with | .round q _ => q = r | _ => false) && x.no < y.no && y.hdr.fence && y.undispatched && y.stallNo = k && y.hdr.mb == mb) ||
            (match s.cmd run.cmd with | some y => s.waitsInRound k mb n y | none => false)
        | none => false
      | none => false
    | _ => false

/-- R200: a publication waits for a pin whose release depends on it. -/
def State.selfHeld (s : State) (x : Cmd) (vaddr : Nat) (side : Bool) : Bool :=
  s.stallsLoaded.any (fun k => k.2.live.any (fun m => m.pins.contains (vaddr, side) && s.waitsInRound k.1 m.mb 9 x))

/-- Publish the staged copy of a layer (R192, R197): done where nothing is staged, the Miller holding the record from then on (R172);
refused where the wait could not end (R200). -/
def State.publish (s : State) (x : Cmd) (lraddr : Nat) : State :=
  let r := s.layerRec lraddr
  if !r.ro.staged then (s.putLayerRO x.no lraddr r.ro).doneCmd x.no
  else
    match s.stall x.stallNo with
    | none => s
    | some st =>
      match st.layerOf r with
      | none => s.endCmd x.no 0x13 0
      | some l =>
        let v := s.vers r.vaddr
        let side := !v.cur
        let p : Publication := { vaddr := r.vaddr, lraddr := lraddr, cmd := x.no, stall := x.stallNo, layer := l, since := s.now }
        let wait := s.onCmd x.no (fun y => { y with phase := .working })
        if v.pins side = 0 && !s.pubHeld r.vaddr then
          let p := { p with converting := true }
          { wait with ck := { wait.ck with pubs := wait.ck.pubs ++ [p] } }.streamSide x p
        else
          if v.pins side != 0 && s.selfHeld x r.vaddr side then s.endCmd x.no 0x13 0xFFFF
          else
            let t := if v.pins side = 0 then wait else wait.putVers r.vaddr { v with pending := true }
            { t with ck := { t.ck with pubs := t.ck.pubs ++ [p] } }

/-! ## The Miller commands (R181, R182, R183, R189 to R191) -/

/-- The blocks of a step that closed, and whether it was skipped; none while it is open (R156, R157, R176). -/
def Numerics.decided (n : Numerics) (step layer : Nat) : Option (Bool × List Nat) :=
  if n.now.hdr.step.toNat ≤ step then none
  else match (n.decisions.filter (fun d => d.1 = step)).getLast? with
    | some d => some (d.2.1, (d.2.2.filter (fun b => b.1 = layer)).map (·.2))
    | none => some (false, [])

/-- A Miller's command does its writes. -/
def State.putAll (s : State) (c : CmdNo) (ws : List (Nat × List Byte)) : State := ws.foldl (fun t w => t.put c w.1 w.2) s

/-- What a running UPDATE_LAYER does to its layer: none where its step was skipped or its layer is frozen (R181, R182). -/
def State.updateOf (s : State) (x : Cmd) : Option Applied :=
  let r := s.layerRec (x.addr 0)
  match (s.stall x.stallNo).bind (fun st => (st.num.decided (x.p 8 4) r.layer).map (fun d => (st, d))) with
  | some (st, false, off) => if r.freeze || r.ro.dirty || !r.ok (x.addr 0) || x.p 8 4 < r.ro.nextstep.toNat then none else s.applyUpdate r st.num off (x.p 16 2) (x.p 12 4) (fp32.read (x.p 12 4)).1.rat (x.p 8 4)
  | _ => none

/-- A fault is about to stop a command: an update in progress leaves DIRTY set, and some of its writes made (R182, R213). How far it
was is free (log 50). -/
def State.interrupt (s : State) (c : CmdNo) : State :=
  match s.running c 0x0501 with
  | some x =>
    match s.updateOf x with
    | some u =>
      let a := x.addr 0
      let (n, t) := s.fresh 40 c
      (t.putAll c (u.writes.take (n % (u.writes.length + 1)))).putLayerRO c a { (s.layerRec a).ro with dirty := true }
    | none => s
  | none => s

def execUpdateLayer (c : CmdNo) (s : State) : Host.Outcome State Fault Refusal :=
  .next (match s.onMiller c 0x0501 with
    | none => s.stopped c 0x0501
    | some x =>
      let a := x.addr 0
      let step := x.p 8 4
      let r := s.layerRec a
      match s.stall x.stallNo with
      | none => s
      | some st =>
        match st.num.decided step r.layer with
        | none => s
        | some (skipped, off) =>
          let next := BitVec.ofNat 32 (step + 1)
          if step < r.ro.nextstep.toNat then s.endCmd c 0x13 8
          else if r.ro.dirty || !r.ok a then s.endCmd c 0x13 0
          else if r.freeze then (s.putLayerRO c a { r.ro with nextstep := next }).doneCmd c
          else if skipped then ((s.putLayerRO c a { r.ro with nextstep := next }).onCmd c (fun y => { y with skipped := true })).doneCmd c
          else
            match s.applyUpdate r st.num off (x.p 16 2) (x.p 12 4) (fp32.read (x.p 12 4)).1.rat step with
            | none => (s.putLayerRO c a { r.ro with dirty := true }).endCmd c 0x13 0
            | some u =>
              let t := (s.putAll c u.writes).putLayerRO c a u.ro
              let t := t.onCmd c (fun y => { y with inexact := y.inexact || 0 < u.m.uw })
              if bit (x.p 16 2) 2 then t.publish x a else t.doneCmd c)

def execPrecondRefresh (c : CmdNo) (s : State) : Host.Outcome State Fault Refusal :=
  .next (match s.onMiller c 0x0502 with
    | none => s.stopped c 0x0502
    | some x =>
      let a := x.addr 0
      let r := s.layerRec a
      let val := fun (k : Nat) => (fp32.read k).1.rat
      let bc2 := rnd fp32 (1 - val r.ro.p2.toNat)
      let one := fun (base0 : Nat) (b : Nat × Nat × Nat) =>
        let base := base0 + b.1 * blockStride
        let f := s.readMat base b.2.2 b.2.2
        let st := BlkStatus.ofNat (s.readNat (base + statusOff) 4)
        let stored := s.readMat (base + rootOff) b.2.2 b.2.2
        (f.finite && (!st.valid || stored.finite), rootWork base b.2.2 f st stored true false bc2 (val r.eps) r.itermax r.tole)
      let ws := (blocks1024 r.rows).map (one r.laddr) ++ (blocks1024 r.cols).map (one r.raddr)
      if !ws.all (·.1) then (s.putLayerRO c a { r.ro with dirty := true }).endCmd c 0x13 0
      else
        let m := Marks.sum (ws.map (·.2.m))
        let ro := { r.ro with rootfails := satAdd r.ro.rootfails (ws.map (·.2.fail)).sum, underwin := satAdd r.ro.underwin m.uw, saturated := satAdd r.ro.saturated m.sat }
        (((s.putAll c (ws.flatMap (·.2.writes))).putLayerRO c a ro).onCmd c (fun y => { y with inexact := y.inexact || 0 < m.uw })).doneCmd c)

def execMaskSet (c : CmdNo) (s : State) : Host.Outcome State Fault Refusal :=
  .next (match s.onMiller c 0x0503 with
    | none => s.stopped c 0x0503
    | some x =>
      let a := x.addr 0
      let r := s.layerRec a
      let k := x.addr 16
      let t := if x.addr 8 = 0 then s else s.put c k (s.readBytes (x.addr 8) (ceilDiv (r.rows * r.cols) 8))
      let v := t.readNat a 128
      let t := t.put c (a + 92) (bytesLE 6 k)
      let keep := pack [(0, 1, bits v 411 411), (1, 1, b1 (bit (x.p 24 1) 1)), (2, 1, b1 (bit (x.p 24 1) 0)), (3, 2, bits v 415 414)]
      ((t.setLrec a (some r.ro)).put c a (r.ro.bytes keep)).doneCmd c)

end Sys2Proof.Machine
end

