-- ==== Sys2Proof/Machine/Publish.lean ====
section
/-! DEFINITION. Publication of weight versions (chapter 06, R192, R197 to R200). -/

namespace Sys2Proof.Machine

def execWeightPublish (c : CmdNo) (s : State) : Host.Outcome State Fault Refusal :=
  .next (match s.onMiller c 0x0504 with
    | some x => s.publish x (x.addr 0)
    | none => s.stopped c 0x0504)

/-- Step 2 of R197 for a publication that waited; a start latched on the edge pins the current side, not this one (R31, R194). One
that turns out to wait for itself is refused, and its copy stays staged (R200). One whose conversions have not started starts them. -/
def execPublicationResume (vaddr : BitVec 48) (s : State) : Host.Outcome State Fault Refusal :=
  .next (match s.pubOf vaddr.toNat with
    | some p =>
      let v := s.vers p.vaddr
      if !p.converting && v.pins (!v.cur) = 0 then
        match s.cmd p.cmd with
        | some x => if !x.runs || s.pubHeld p.vaddr then s else s.streamSide x { p with converting := true, waitUs := s.sinceNs p.since / 1000 }
        | none => s
      else
        match s.cmd p.cmd with
        | some x =>
          if p.converting then (if p.conv.isNone then s.startConv x p else s)
          else if s.selfHeld x p.vaddr (!v.cur) then ((s.putVers p.vaddr { v with pending := false }).dropPub p.vaddr).endCmd p.cmd 0x13 0xFFFF
          else s
        | none => s
    | none => s)

/-- Step 4 of R197. -/
def execPublicationCommit (vaddr : BitVec 48) (s : State) : Host.Outcome State Fault Refusal :=
  .next (match s.pubOf vaddr.toNat with
    | some p =>
      if p.converting && p.conv.isSome && (s.cmd p.cmd).any Cmd.runs then
        let v := s.vers p.vaddr
        let side := !v.cur
        let tag := v.curver + 1
        let w : Vers := { v with curver := tag, cur := side, pending := false, pubwait := satAdd v.pubwait p.waitUs, pubs := satAdd v.pubs 1, flipped := some s.clk.ticks }
        let w := if side then { w with ver1 := tag, valid1 := true } else { w with ver0 := tag, valid0 := true }
        let t := s.putVers p.vaddr w
        let r := t.layerRec p.lraddr
        ((t.putLayerRO p.cmd p.lraddr { r.ro with staged := false }).dropPub p.vaddr).doneCmd p.cmd
      else s
    | none => s)

/-- The live micro-batches that pin a side of a version record: (stall, micro-batch). -/
def State.pinners (s : State) (vaddr : Nat) (side : Bool) : List (Nat × Byte) :=
  s.stallsLoaded.flatMap (fun k => (k.2.live.filter (fun m => m.pins.contains (vaddr, side))).map (fun m => (k.1, m.mb)))

/-- The completion that ends a micro-batch is latched on this edge. -/
def State.endLatched (s : State) (k : Nat) (mb : Byte) : Bool :=
  s.latched (fun i => match i with
    | .commandComplete c => (match s.cmd c with | some x => x.stallNo = k && x.hdr.mb = mb && x.hdr.mbend | none => false)
    | _ => false)

/-- R200: after 100 ms of waiting, the end of every micro-batch that pins the side not being latched on the edge (R31), one numerics record naming the layer and the micro-batch that pins the side. -/
def execPublicationWaitTimeout (vaddr : BitVec 48) (s : State) : Host.Outcome State Fault Refusal :=
  .next (match s.pubOf vaddr.toNat with
    | some p =>
      let held := s.pinners p.vaddr (!(s.vers p.vaddr).cur)
      if !p.converting && !p.recorded && s.reached (p.since + 100000000) && !held.all (fun h => s.endLatched h.1 h.2) then
        let mb := match held.head? with | some h => h.2.toNat | none => 255
        let r : ErrRec := { cls := 5, code := 2, unit := clerkCode, stall := BitVec.ofNat 8 p.stall
                            syndrome := BitVec.ofNat 128 (pack [(112, 16, p.layer), (104, 8, mb)]) }
        let r := match s.cmd p.cmd with | some x => r.forCmd x 0 | none => r
        (s.note r).setPub { p with recorded := true }
      else s
    | none => s)

end Sys2Proof.Machine
end

