-- ==== Sys2Proof/Machine/Security.lean ====
section
/-! DEFINITION. Images and their verification, attestation, IDE keys, certificates and firmware update (chapter 16, R437 to
R460). Digests are held as the little-endian number of their bytes. -/

namespace Sys2Proof.Machine

/-! ## Flash (R437, R438) -/

/-- The slot of a flash offset has been erased in service (R457). -/
def Flash.erased (f : Flash) (a : Nat) : Bool := (f.wiped0 && 0x400000 ≤ a && a < 0x3400000) || (f.wiped1 && 0x3400000 ≤ a && a < 0x6400000)

/-- A byte of the flash: as programmed in service, else as erased, else as the part left test (log 9). -/
def State.flashByte (s : State) (a : Nat) : Byte :=
  (tget none s.flash.bytes a).getD (if s.flash.erased a then Config.erasedByte a else Config.flashByte a)
def State.readFlash (s : State) (a n : Nat) : List Byte := (List.range n).map (fun i => s.flashByte (a + i))

/-- Program bytes of the flash. -/
def programFlash (m : TMap (Option Byte)) (a : Nat) : List Byte → TMap (Option Byte)
  | [] => m
  | b :: bs => programFlash (tset none m a (some b)) (a + 1) bs

/-- Base of a slot, 2 for the recovery image (Table 16-1). -/
def slotBase (slot : Nat) : Nat := if slot = 0 then 0x400000 else if slot = 1 then 0x3400000 else 0x200000

/-- Erase a slot: nothing that was programmed in it stays (R457). -/
def Flash.eraseSlot (f : Flash) (slot : Nat) : Flash :=
  { f with bytes := f.bytes.filter (fun e => !(slotBase slot ≤ e.1 && e.1 < slotBase slot + 0x3000000)), wiped0 := f.wiped0 || slot = 0, wiped1 := f.wiped1 || slot = 1 }

/-- The copy of the boot pointer block in force: a good CRC and the higher sequence number (R438). -/
def Flash.ptr (f : Flash) : BootPtr :=
  if !f.ptrB.good then f.ptrA else if !f.ptrA.good then f.ptrB else if f.ptrA.seq.toNat < f.ptrB.seq.toNat then f.ptrB else f.ptrA

/-- Write the boot pointer block: the other copy, with the sequence number raised by 1 (R438). -/
def Flash.setPtr (f : Flash) (g : BootPtr → BootPtr) : Flash :=
  let p := f.ptr
  let q := { g p with seq := p.seq + 1, good := true }
  if f.ptrB.good && (!f.ptrA.good || f.ptrA.seq.toNat < f.ptrB.seq.toNat) then { f with ptrA := q } else { f with ptrB := q }

/-- A slot's VALID bit. -/
def BootPtr.valid (p : BootPtr) (slot : Nat) : Bool := if slot = 0 then p.valid0 else p.valid1
def BootPtr.setValid (p : BootPtr) (slot : Nat) (v : Bool) : BootPtr := if slot = 0 then { p with valid0 := v } else { p with valid1 := v }
/-- PENDING names the slot. -/
def BootPtr.pends (p : BootPtr) (slot : Nat) : Bool := match p.pending with | some k => k.val = slot | none => false

/-! ## Images (R450, R451) -/

/-- A SHA-384 digest as the number its field holds. -/
def digest (bs : List Byte) : Nat := natLE (sha384 bs)

/-- A component descriptor (Table 16-6): kind, offset, length, digest. -/
structure Comp where
  kind : Nat
  off : Nat
  len : Nat
  dig : Nat
deriving DecidableEq, Repr

/-- An image as it is read: `rd offset length`. -/
abbrev Reader := Nat → Nat → List Byte

def imgHeader (rd : Reader) : Nat := natLE (rd 0 512)
def imgSvn (rd : Reader) : U32 := BitVec.ofNat 32 (bits (imgHeader rd) 159 128)
def imgFwver (rd : Reader) : U32 := BitVec.ofNat 32 (bits (imgHeader rd) 127 96)
def imgKind (rd : Reader) : Nat := bits (imgHeader rd) 47 40
def imgComps (rd : Reader) : List Comp :=
  (List.range (min 4 (bits (imgHeader rd) 167 160))).map (fun k =>
    let d := bits (imgHeader rd) (767 + 512 * k) (256 + 512 * k)
    ⟨bits d 7 0, bits d 95 64, bits d 127 96, bits d 511 128⟩)

/-- The first check of R451 that an image fails, as (component or 0xFF, check code of Table 16-8). `room`: the bytes the image
may occupy. -/
def imgFails (rd : Reader) (room : Nat) : Option (Nat × Nat) :=
  let h := imgHeader rd
  let cs := imgComps rd
  let tot := bits h 223 192
  let headerOk := bits h 31 0 = 0x0F080B1D && bits h 39 32 = 1 && bits h 63 48 = 0x0804 && bit h 64 && (imgKind rd = 1 || imgKind rd = 2)
  let kindsOk := if imgKind rd = 1 then cs.length = 3 && bits h 167 160 = 3 && [1, 2, 3].all (fun k => cs.any (fun c => c.kind = k)) else cs.length = 1 && bits h 167 160 = 1 && cs.all (fun c => c.kind = 1)
  let inside := fun (c : Comp) => 512 ≤ c.off && c.off + c.len ≤ 512 + tot && c.off % 4096 = 0
  let apart := (List.range cs.length).all (fun i => (List.range cs.length).all (fun j => i = j || match cs[i]?, cs[j]? with | some a, some b => !overlaps a.off a.len b.off b.len | _, _ => true))
  let layoutOk := kindsOk && tot ≤ 50330112 && 512 + tot ≤ room && cs.all inside && apart && (cs.map (·.len)).sum ≤ 40 * 2 ^ 20
  if !headerOk then some (0xFF, 1)
  else if !layoutOk then some (0xFF, 5)
  else
    match Config.chainKey (rd (bits h 2335 2304) (bits h 2367 2336)) with
    | none => some (0xFF, 2)
    | some q =>
      if !verify q (rd 0 416) (bits h 4095 3712) (bits h 3711 3328) then some (0xFF, 3)
      else (cs.findIdx? (fun c => digest (rd c.off c.len) != c.dig)).map (fun i => (i, 4))

/-- The image in a slot. -/
def State.slotReader (s : State) (slot : Nat) : Reader := fun off n => s.readFlash (slotBase slot + off) n
/-- Bytes of a slot, or of the recovery image's place. -/
def slotSize (slot : Nat) : Nat := if slot = 2 then 0x200000 else 0x3000000

/-- The digest of the management component in a slot (R449, Table 16-6). -/
def State.slotMgmt (s : State) (slot : Nat) : Nat := (((imgComps (s.slotReader slot)).find? (fun c => c.kind = 3)).map (·.dig)).getD 0

/-- A security record (Table 16-8). -/
def State.secRecord (s : State) (code : Nat) (fields : List (Nat × Nat × Nat)) : State :=
  s.note { cls := 8, code := BitVec.ofNat 8 code, unit := clerkCode, syndrome := BitVec.ofNat 128 (pack fields) }

/-- A command completes AUTH_FAIL with a security record: the record names the command, and ERRIDX the record (R415, R419, R461). -/
def State.authFail (s : State) (x : Cmd) (code : Nat) (fields : List (Nat × Nat × Nat)) : State :=
  let r : ErrRec := { cls := 8, code := BitVec.ofNat 8 code, unit := clerkCode, syndrome := BitVec.ofNat 128 (pack fields) }
  let (i, t) := s.record (r.forCmd x 0x60)
  t.failCmd x.no 0x60 0 i

/-! ## Measurements (R452) -/

/-- M := SHA-384(M ‖ value). -/
def extend (m : U384) (value : List Byte) : U384 := BitVec.ofNat 384 (digest (bytesLE 48 m.toNat ++ value))

/-- M6 at the completion of FW_STAGE, FW_ACTIVATE or a key setup: opcode, SEQ and outcome. -/
def State.measure (s : State) (x : Cmd) : State :=
  if x.op = 0x0A03 || x.op = 0x0A04 || (x.op = 0x0A01 && x.p 0 1 = 1) then
    { s with boot := { s.boot with m6 := extend s.boot.m6 (bytesLE 2 x.op ++ bytesLE 4 x.hdr.seq.toNat ++ bytesLE 1 x.status.toNat) } }
  else s

/-- The attestation key (Table 16-3). -/
def State.attestKey (s : State) : Nat :=
  privKey (hkdf [] (secretBytes 0) (ascii "FD8 attest" ++ [s.boot.m0, s.boot.m1, s.boot.m2, s.boot.m3, s.boot.m4, s.boot.m5].flatMap (fun m => bytesLE 48 m.toNat)) 56)

/-! ## ATTEST (R453, R455) -/

/-- The report of Table 16-7 before its signature: bytes 0 to 415. -/
def State.reportBody (s : State) (nonce : Nat) (kind m6 : Nat) : List Byte :=
  bytesLE 416 (pack [(2816, 384, m6), (2432, 384, s.boot.m5.toNat), (2048, 384, s.boot.m4.toNat), (1664, 384, s.boot.m3.toNat), (1280, 384, s.boot.m2.toNat),
    (896, 384, s.boot.m1.toNat), (512, 384, s.boot.m0.toNat), (256, 256, nonce), (192, 64, s.clk.time.toNat), (128, 64, modid.toNat), (96, 32, s.boot.svn.toNat),
    (64, 32, s.flash.counter.toNat), (32, 32, s.boot.fwver.toNat), (24, 8, 2), (16, 8, s.boot.slot), (8, 8, kind), (0, 8, 1)])
/-- The signed report, 512 bytes. -/
def State.report (s : State) (nonce : Nat) (kind m6 : Nat) : List Byte :=
  let b := s.reportBody nonce kind m6
  let (r, t) := sign s.attestKey b
  b ++ bytesLE 96 (pack [(48 * 8, 384, r), (0, 384, t)])

def execAttestReport (c : CmdNo) (s : State) : Host.Outcome State Fault Refusal :=
  .next (match s.begins c 0x0A01 with
    | some x =>
      if x.p 0 1 != 0 then s
      else (s.queryResult x (x.addr 16) (s.report (s.readNat (x.addr 8) 32) 0 s.boot.m6.toNat)).doneCmd c
    | none => s.stopped c 0x0A01)

/-- The IDE stream exists in the port's mode (R294, Table 10-2): CXL.io everywhere but in service mode, CXL.cachemem in the
CXL modes. -/
def State.streamExists (s : State) (k : Nat) : Bool := if k = 0 then s.hp.mode ≤ 4 else s.hp.mode ≤ 2

/-- The command comes from a host queue with full rights (R455). -/
def State.hostFull (s : State) (x : Cmd) : Bool :=
  match x.origin with
  | .queue q => ((s.queue q).loc = 1 || (s.queue q).loc = 2) && x.fullRights
  | _ => false

def execIdeKeySetup (c : CmdNo) (s : State) : Host.Outcome State Fault Refusal :=
  .next (match s.begins c 0x0A01 with
    | none => s.stopped c 0x0A01
    | some x =>
      if x.p 0 1 != 1 then s
      else if !s.hostFull x then s.endCmd c 0x11 s.ck.owner.conflict
      else
        let blk := s.readBytes (x.addr 8) 130
        let hk := (blk.drop 32).take 97
        let streams := fieldAt blk 129 1
        let px := natBE (hk.drop 1 |>.take 48)
        let py := natBE (hk.drop 49)
        let want := (List.range 8).filter (fun k => bit streams k)
        if hk.head? != some 4 || !onCurve px py then s.authFail x 8 [(120, 8, 1), (112, 8, 1)]
        else if streams = 0 || want.any (fun k => 1 < k || !s.streamExists k) then s.authFail x 8 [(120, 8, 1), (112, 8, 2)]
        else if s.boot.rngStopped then s.authFail x 8 [(120, 8, 1), (112, 8, 3)]
        else
          let d := privKey (bytesLE 56 (Config.entropy s.freeCtr))
          let s := { s with freeCtr := s.freeCtr + 1 }
          let own := sec1 (pubKey d)
          let z := match ecMul 384 d (some (px, py)) with | some (zx, _) => bytesBE 48 zx | none => bytesBE 48 0
          let h := sha384 (hk ++ own ++ [BitVec.ofNat 8 streams])
          let okm := hkdf (blk.take 32) z (ascii "FD8 IDE" ++ h) (80 * want.length)
          let key := fun (k : Nat) => (okm.drop (80 * ((want.findIdx? (· = k)).getD 0))).take 80
          let t := if want.contains 0 then { s with hp := { s.hp with ide0 := { s.hp.ide0 with inactive := key 0 } } } else s
          let t := if want.contains 1 then { t with hp := { t.hp with ide1 := { t.hp.ide1 with inactive := key 1 } } } else t
          (t.queryResult x (x.addr 16) (t.report (natLE (blk.take 32)) 1 (natLE h) ++ own)).doneCmd c)

/-! ## CERT_READ (R454) -/

/-- The certificates of WHICH, leaf first. -/
def State.certs (s : State) (which : Nat) : List Byte :=
  let att := [s.boot.m0, s.boot.m1, s.boot.m2, s.boot.m3, s.boot.m4, s.boot.m5]
  if which = 0 then Config.certificate 4 0 att ++ Config.certificate 3 0 [] ++ Config.certificate 2 0 [] else Config.certificate 3 (which - 1) [] ++ Config.certificate 2 0 []

def execCertRead (c : CmdNo) (s : State) : Host.Outcome State Fault Refusal :=
  .next (match s.begins c 0x0A02 with
    | some x =>
      let bs := s.certs (x.p 0 1)
      if x.p 16 4 < 4 + bs.length then (s.queryResult x (x.addr 8) (bytesLE 4 bs.length)).endCmd c 0x13 16
      else (s.queryResult x (x.addr 8) (bytesLE 4 bs.length ++ bs)).doneCmd c
    | none => s.stopped c 0x0A02)

/-! ## Firmware update (R457, R458) -/

/-- Steps 1 and 2 of FW_STAGE begin: VALID and PENDING cleared, the slot erased (R457). -/
def Flash.clearSlot (f : Flash) (slot : Nat) : Flash :=
  (f.setPtr (fun p => { p.setValid slot false with pending := if p.pends slot then none else p.pending })).eraseSlot slot

/-- Steps 2 and 3 end: the slot programmed, read back and verified again; VALID is set only then. -/
def State.fwProgram (s : State) (x : Cmd) : State :=
  let slot := x.p 12 1
  let f := { s.flash with bytes := programFlash s.flash.bytes (slotBase slot) (s.readBytes (x.addr 0) (x.p 8 4)) }
  let t := { s with flash := f }
  if (imgFails (t.slotReader slot) (slotSize slot)).isSome then t.endCmd x.no 0x60 0
  else { t with flash := f.setPtr (fun p => p.setValid slot true) }.doneCmd x.no

/-- FW_STAGE: the image verified in memory and the slot erased, and at its second FW_STAGE event the slot programmed: a deadline, a reset or
a loss of power between the two leaves VALID clear (R457, log 9). -/
def execFwStage (c : CmdNo) (s : State) : Host.Outcome State Fault Refusal :=
  .next (match s.cmd c with
    | none => s
    | some y =>
      if y.op = 0x0A03 && y.phase = .working && !s.brd.trip then s.fwProgram y
      else match s.begins c 0x0A03 with
      | none => s.stopped c 0x0A03
      | some x =>
        let len := x.p 8 4
        let slot := x.p 12 1
        let img := s.readBytes (x.addr 0) len
        let rd : Reader := fun off n => slice img off n
        if s.boot.slot = slot then s.endCmd c 0x13 12
        else
          match imgFails rd len with
          | some f => s.authFail x 1 [(120, 8, 3), (112, 8, f.1), (104, 8, f.2)]
          | none =>
            if imgKind rd != 1 then s.authFail x 1 [(120, 8, 3), (112, 8, 0xFF), (104, 8, 1)]
            else if (imgSvn rd).toNat < s.flash.counter.toNat then
              s.authFail x 2 [(120, 8, slot), (72, 32, (imgSvn rd).toNat), (40, 32, s.flash.counter.toNat)]
            else ({ s with flash := s.flash.clearSlot slot } : State).workOn c)

/-- The slot is staged: VALID, and no FW_STAGE that names it is in the command table (R457). -/
def State.staged (s : State) (slot : Nat) (self : CmdNo) : Bool :=
  s.flash.ptr.valid slot && !s.ck.cmds.any (fun y => y.no != self && y.op = 0x0A03 && y.phase != .ended && y.p 12 1 = slot)

/-- The checks of FW_ACTIVATE, then the choice of the slot (R458). -/
def State.activateSlot (s : State) (slot : Nat) (self : CmdNo) : Option State :=
  if !s.staged slot self || (imgSvn (s.slotReader slot)).toNat < s.flash.counter.toNat then none
  else if s.flash.committed.val = slot then some { s with flash := s.flash.setPtr (fun p => { p with pending := none }) }
  else some { s with flash := s.flash.setPtr (fun p => { p with pending := if slot = 0 then some 0 else some 1, tries := 0 }) }

def execFwActivate (c : CmdNo) (s : State) : Host.Outcome State Fault Refusal :=
  .next (match s.running c 0x0A04 with
    | some x =>
      if x.p 1 1 % 2 = 1 then s
      else match s.activateSlot (x.p 0 1) c with
        | some t => t.doneCmd c
        | none => s.endCmd c 0x60 0
    | none => s)

/-- With NOW: refused while a round runs or a micro-batch is live; else DONE, and a module reset within 1 ms. -/
def execFwActivateNow (c : CmdNo) (s : State) : Host.Outcome State Fault Refusal :=
  .next (match s.running c 0x0A04 with
    | some x =>
      if x.p 1 1 % 2 = 0 then s
      else match s.activateSlot (x.p 0 1) c with
        | none => s.endCmd c 0x60 0
        | some t =>
          let rounds := s.ck.rounds.any (fun r => match r.2 with | some rd => rd.run.isSome | none => false)
          if rounds || s.stallsLoaded.any (fun k => k.2.live != []) then s.endCmd c 0x13 0xFFFF
          else ({ t with boot := { t.boot with nowResetAt := some t.now } } : State).doneCmd c
    | none => s)

/-- R456: the generator stops until the next module reset. -/
def execRngHealthFail (s : State) : Host.Outcome State Fault Refusal :=
  .next (if s.boot.rngStopped then s else ({ s with boot := { s.boot with rngStopped := true } } : State).secRecord 10 [])

end Sys2Proof.Machine
end

