-- ==== Sys2Proof/Machine/Checkpoint.lean ====
section
/-! DEFINITION. CHECKPOINT and RESTORE (R166, R167, R356, Table 12-25). The layout inside the sections is not given: log 32. -/

namespace Sys2Proof.Machine

/-! ## The sections of an image -/

/-- The item at the front of a byte string, and the rest. -/
def takeItem (bs : List Byte) : List Byte × List Byte :=
  let n := fieldAt bs 0 8
  ((bs.drop 8).take n, (bs.drop 8).drop n)

/-- Spans of a layer record that MASTER holds: all but GADDR and the staging scratch. -/
def LRec.masterSpans (r : LRec) : List (Nat × Nat) :=
  (r.regions.filter (fun p => !(p.lo = r.gaddr && !p.write && p.len = 4 * (r.rows * r.cols)))).map (fun p => (p.lo, if p.lo = r.saddr && p.len = 6 * (r.rows * r.cols) then 2 * (r.rows * r.cols) else p.len))

/-- One layer of MASTER: the record, then each span. -/
def State.masterItem (s : State) (a : Nat) : List Byte :=
  item (s.readBytes a 128 ++ (s.layerRec a).masterSpans.flatMap (fun p => item (s.readBytes p.1 p.2)))

/-- One layer of VERSIONS: CURVER and the current BF16 copy. -/
def State.versionItem (s : State) (e : LayerEnt) : List Byte :=
  let v := s.vers e.vaddr.toNat
  item (bytesLE 2 v.curver.toNat ++ s.readBytes (s.currentBase e.vaddr.toNat v.cur) (2 * (e.lines.toNat * e.length.toNat)))

/-- A section of an image, by its SEL bit. CONTEXT and ROUNDS are those of the last step close; MASTER and VERSIONS stand as they do
once the updates of the closed steps are done, which the command has waited for. DEDUCED (log 32). -/
def State.section_ (s : State) (k : Nat) (st : Stall) (bit_ : Nat) : List Byte :=
  match bit_ with
  | 0 => match st.atClose with | some y => y.1 | none => st.contextBytes
  | 1 => (st.layers.filter (fun e => e.lraddr != 0)).flatMap (fun e => s.masterItem e.lraddr.toNat)
  | 2 => (st.layers.filter (fun e => e.vaddr != 0)).flatMap s.versionItem
  | 3 => bytesLE 2 st.numcal.toNat ++ bytesLE 4 st.layers.length ++ st.num.closed.region st.numcal.toNat st.layers.length
  | _ => match st.atClose with | some y => y.2 | none => s.roundsBytes k

/-- An image: the header of Table 12-25, then the sections in SEL order. -/
def State.image (s : State) (k : Nat) (st : Stall) (sel : Nat) : List Byte :=
  let body := (maskBits sel 5).flatMap (fun b => item (s.section_ k st b))
  bytesLE 128 (pack [(640, 384, digest body), (576, 64, body.length), (512, 64, s.clk.time.toNat), (480, 32, st.num.closed.hdr.step.toNat), (416, 64, modid.toNat),
    (400, 16, sel), (392, 8, k), (384, 8, 3), (376, 8, 1)]) ++ body

/-- A CHECKPOINT waits for the earlier updates of its stall that consume a closed step (R356). -/
def State.updatesLeft (s : State) (x : Cmd) : Bool :=
  match s.stall x.stallNo with
  | some st => s.ck.cmds.any (fun y => y.no != x.no && y.op = 0x0501 && y.stallNo = x.stallNo && y.p 8 4 < st.num.now.hdr.step.toNat && (y.no < x.no || y.runs))
  | none => false

def execCheckpoint (c : CmdNo) (s : State) : Host.Outcome State Fault Refusal :=
  .next (match s.begins c 0x0B03 with
    | none => s.stopped c 0x0B03
    | some x =>
      match s.stall x.stallNo with
      | none => s
      | some st =>
        if s.updatesLeft x then s
        else
          let img := s.image x.stallNo st (x.p 16 2 % 32)
          let dst := x.p 0 8
          if x.p 8 8 < img.length then s.endCmd c 0x13 8
          else if x.p 18 1 = 1 then (s.storeHost dst img).doneCmd c
          else if s.localGa dst then s.checked x false true (gaAddr dst) img.length (fun t => (t.put c (gaAddr dst) img).doneCmd c)
          else
            (pieces dst img.length 0 img.length).foldl (fun t p => t.memRequest x (dst + p.1) p.2 (some ((img.drop p.1).take p.2)) 0) (s.workOn c))

/-! ## RESTORE -/

/-- The bytes of a section of an image's body, by its SEL bit; none where the image does not hold it. -/
def sectionOf (sel : Nat) (body : List Byte) (bit_ : Nat) : Option (List Byte) :=
  if !bit sel bit_ then none
  else some (takeItem ((maskBits sel 5).foldl (fun bs b => if b < bit_ then (takeItem bs).2 else bs) body)).1

/-- The items of a section. -/
def items : (fuel : Nat) → List Byte → List (List Byte)
  | 0, _ => []
  | n + 1, bs => if bs.length < 8 then [] else (takeItem bs).1 :: items n (takeItem bs).2

/-- A history from its region; an unused calibration entry is zero (R166). The counts of the open step start from zero. -/
def History.ofRegion (numcal lcount : Nat) (bs : List Byte) : History :=
  { hdr := NumHeader.ofNat (fieldAt bs 0 32)
    cal := ((List.range numcal).map (fun i => CalEnt.ofBytes (slice bs (32 + 288 * i) 288))).filter (fun e => e.cmax != 0)
    layers := (List.range lcount).map (fun l => LayerNum.ofNat (fieldAt bs (32 + 288 * numcal + 16 * l) 16)) }

/-- The open step of a history starts with no counts; every other state of the entries stands as it was saved (R166). -/
def History.opened (h : History) : History :=
  { h with cal := h.cal.map (fun e => { e with elems := 0, cands := 0 }), layers := h.layers.map (fun e => { e with blocks := 0, pcand := 0 }) }

/-- A lost history (R167). -/
def History.lose (h : History) : History :=
  { hdr := { h.hdr with lsexp := 16, clean := 0, mode := 1, startleft := h.hdr.startlen }
    cal := h.cal.map (fun e => { e with clip := 0x8000, headroom := [] }), layers := [] }

/-- Apply CONTEXT to a stall, loaded or not. -/
def State.applyContext (s : State) (k : Nat) (bs : List Byte) : State :=
  let (tab, r) := takeItem bs
  let lay := (List.range (tab.length / 32)).map (fun l => LayerEnt.ofNat (fieldAt tab (32 * l) 32))
  let ws := (List.range 16).foldl (fun m j => let w := Window.ofNat (fieldAt r (16 * j) 16); tset {} m j (if w.valid then w else {})) ([] : TMap Window)
  let (f, t) := s.fresh 9 k
  let old : Stall := (s.stall k).getD { numaddr := BitVec.ofNat 48 f, num := loadedNumerics 64 }
  (if (s.stall k).isSome then s else t).setStall k (some { old with
    layers := lay, windows := ws, seed := BitVec.ofNat 64 (fieldAt r 256 8), bays := BitVec.ofNat 64 (fieldAt r 264 8)
    budget := BitVec.ofNat 16 (fieldAt r 272 2), numcal := BitVec.ofNat 16 (fieldAt r 274 2), atClose := none })

/-- Bytes that MASTER writes: (address, bytes), records first. -/
def masterWrites (lraddrs : List Nat) (its : List (List Byte)) : List (Nat × List Byte) :=
  (lraddrs.zip its).flatMap (fun y =>
    let v := natLE (y.2.take 128)
    let rec_ := bytesLE 128 (pack [(410, 614, v >>> 410), (0, 409, v)])
    let r : LRec := { waddr := bits v 1023 976, maddr := bits v 975 928, laddr := bits v 927 880, raddr := bits v 879 832, gaddr := bits v 831 784, kaddr := bits v 783 736
                      saddr := bits v 735 688, vaddr := bits v 687 640, rows := bits v 639 616, cols := bits v 615 592, beta1 := 0, beta2 := 0, eps := 0, wd := 0, refresh := 0
                      itermax := 0, tole := 0, layer := 0, kind := bits v 415 414, freeze := false, masked := bit v 412, stagger := false, ro := {} }
    (y.1, rec_) :: (r.masterSpans.map (·.1)).zip (items r.masterSpans.length (y.2.drop 128)))

/-- Write MASTER: DIRTY clear in each record, and the Miller takes the record's RO fields as its own (R172, R356). -/
def State.applyMaster (s : State) (x : Cmd) (lraddrs : List Nat) (ws : List (Nat × List Byte)) : State :=
  let t := ws.foldl (fun t w => t.put x.no w.1 w.2) s
  lraddrs.foldl (fun t a => t.setLrec a (some (LayerRO.ofNat (t.readNat a 128)))) t

/-- Apply ROUNDS: each program is loaded, and starts next at its iteration count. -/
def State.applyRounds (s : State) (its : List (List Byte)) : State :=
  its.foldl (fun t b =>
    let r := fieldAt b 0 1 % 8
    t.setRound r (some { mark := fieldAt b 1 1 = 1, iter := BitVec.ofNat 32 (fieldAt b 2 4)
                         steps := (List.range ((b.length - 6) / 72)).map (fun i => ⟨slice b (6 + 72 * i) 64, BitVec.ofNat 64 (fieldAt b (70 + 72 * i) 8)⟩) })) s

/-- Apply HISTORY, or lose it where the image holds none, or one of another major version (R166, R167). A storm that stands after it
is new at the next close. DESIGN CHOICE (log 65). -/
def State.applyHistory (s : State) (k : Nat) (sec : Option (List Byte)) (major : Nat) : State :=
  s.onNum k (fun n =>
    match sec with
    | some bs =>
      if major = 3 then
        let h := History.ofRegion (fieldAt bs 0 2) (fieldAt bs 2 4) (bs.drop 6)
        { n with now := h.opened, closed := h, stepFlag := false, groupNf := false, groupNrm := false, offending := [], decisions := [], closedHeads := [], historyLost := false, inStorm := false }
      else let h := n.now.lose.opened; { n with now := h, closed := h, stepFlag := false, offending := [], historyLost := true, inStorm := false }
    | none => let h := n.now.lose.opened; { n with now := h, closed := h, stepFlag := false, offending := [], historyLost := true, inStorm := false })

/-- The record addresses of a stall's trained layers, and the entries of those with weights. -/
def Stall.trained (st : Stall) : List Nat := (st.layers.filter (fun e => e.lraddr != 0)).map (fun e => e.lraddr.toNat)
def Stall.weighted (st : Stall) : List (Nat × LayerEnt) :=
  (List.range st.layers.length).filterMap (fun l => match st.layers[l]? with | some e => if e.vaddr = 0 then none else some (l, e) | none => none)

/-- The numbers of the rounds in a ROUNDS section. -/
def roundNumbers (bs : List Byte) : List Nat := (items 8 bs).map (fun b => fieldAt b 0 1 % 8)

/-- Check the digest, then apply the sections; the layers of VERSIONS are left to be written one by one (R356). A round that runs is
not replaced: REFUSED_STATE before anything changes, as R347 has it of ROUND_LOAD; a RESTORE that does not name HISTORY leaves the
history as it is. DESIGN CHOICE (logs 32, 65). -/
def State.applyImage (s : State) (x : Cmd) (hdr : Nat) (body : List Byte) : State :=
  let k := x.stallNo
  let has := bits hdr 415 400
  let want := x.p 8 2 % 32
  let sec := fun b => if bit want b then sectionOf has body b else none
  if digest body != bits hdr 1023 640 then s.authFail x 9 [(120, 8, k)]
  else if (match sec 4 with | some bs => (roundNumbers bs).any s.roundRunning | none => false) then s.endCmd x.no 0x13 8
  else
    let t := match sec 0 with | some bs => s.applyContext k bs | none => s
    match t.stall k with
    | none => s.endCmd x.no 0x13 8
    | some st =>
      let ws := match sec 1 with | some bs => masterWrites st.trained (items st.trained.length bs) | none => []
      let vs := match sec 2 with | some _ => st.weighted.map (·.1) | none => []
      match ws.find? (fun w => !allowed st.windows false true w.1 w.2.length) with
      | some w => s.windowFault x false true w.1
      | none =>
        let t := if ws = [] then t else t.applyMaster x st.trained ws
        let t := if bit want 3 then t.applyHistory k (sectionOf has body 3) (bits hdr 391 384) else t
        let t := match sec 4 with | some bs => t.applyRounds (items 8 bs) | none => t
        if vs = [] then (t.onCmd x.no (fun y => { y with result := [] })).doneCmd x.no
        else t.onCmd x.no (fun y => { y with phase := .working, stage := 3, left := vs, result := bytesLE 128 hdr ++ body })

/-- RESTORE reads the image (from another module by parts: the header, then LENGTH bytes), then applies it. -/
def execRestore (c : CmdNo) (s : State) : Host.Outcome State Fault Refusal :=
  .next (match s.cmd c with
    | none => s
    | some x =>
      let src := x.p 0 8
      if x.op != 0x0B04 || !x.runs then s
      else if s.ab.xfers.any (fun y => y.cmd = c) || 3 ≤ x.stage then s
      else if x.p 10 1 = 1 then let h := natLE (s.readHost src 128); s.applyImage x h (s.readHost (src + 128) (bits h 639 576))
      else if s.localGa src then
        s.checked x true false (gaAddr src) 128 (fun t =>
          let h := t.readNat (gaAddr src) 128
          t.checked x true false (gaAddr src + 128) (bits h 639 576) (fun t => t.applyImage x h (t.readBytes (gaAddr src + 128) (bits h 639 576))))
      else if x.stage = 0 then ((s.workOn c).onCmd c (fun y => { y with stage := 1 })).memRequest x src 128 none 0
      else
        let h := natLE (x.result.take 128)
        let n := bits h 639 576
        if x.stage = 1 && n != 0 then
          (pieces (src + 128) n 0 n).foldl (fun t p => t.memRequest x (src + 128 + p.1) p.2 none (128 + p.1)) (s.onCmd c (fun y => { y with stage := 2 }))
        else s.applyImage x h (x.result.drop 128))

/-- A layer of VERSIONS waits until both sides are free of pins; a publication of it that waits for pins is refused (R356). -/
def State.cancelPub (s : State) (vaddr : Nat) : State :=
  match s.pubOf vaddr with
  | some p => if p.converting then s else ((s.dropPub vaddr).putVers vaddr { s.vers vaddr with pending := false }).endCmd p.cmd 0x13 0xFFFF
  | none => s

/-- Write the next layer of VERSIONS whose pins are 0: the copy to side 0 with its derived copies, then the new current side. -/
def execRestoreLayerWrite (c : CmdNo) (s : State) : Host.Outcome State Fault Refusal :=
  .next (match s.cmd c with
    | none => s
    | some x =>
      match (s.stall x.stallNo) with
      | none => s
      | some st =>
        if x.op != 0x0B04 || x.stage != 3 || !x.runs then s
        else
          match x.left with
          | [] => s
          | l :: rest =>
            match st.layer l with
            | none => s
            | some e =>
              let a := e.vaddr.toNat
              let s := s.cancelPub a
              let v := s.vers a
              if v.pins0 != 0 || v.pins1 != 0 || (s.pubOf a).isSome then s
              else
                let i := (indexOf l (st.weighted.map (·.1))).getD 0
                let it := (items st.layers.length ((sectionOf (bits (fieldAt x.result 0 128) 415 400) (x.result.drop 128) 2).getD [])).getD i []
                let base := s.currentBase a false
                let tag := BitVec.ofNat 16 (fieldAt it 0 2)
                s.checked x false true base e.sideBytes (fun t =>
                  let t := (t.put c base (it.drop 2)).convertSide x st l e base
                  let t := t.putVers a { t.vers a with ver0 := tag, curver := tag, valid0 := true, valid1 := false, cur := false, pending := false }
                  let t := t.onCmd c (fun y => { y with left := rest })
                  if rest = [] then (t.onCmd c (fun y => { y with result := [] })).doneCmd c else t))

/-- A RESTORE has still to write a version record: a start that would pin it is held (R196, R356). -/
def State.restoring (s : State) (vaddr : Nat) : Bool :=
  s.ck.cmds.any (fun y => y.op = 0x0B04 && y.runs && (match s.stall y.stallNo with
    | some st => y.left.any (fun l => match st.layer l with | some e => e.vaddr.toNat = vaddr | none => false)
    | none => false))

end Sys2Proof.Machine
end

