-- ==== Sys2Proof/Machine/Collective.lean ====
section
/-! DEFINITION. Collectives (chapter 09, R268 to R279): reduce-scatter, all-reduce, all-gather, all-to-all and barriers.
Every message is one command of the block, its flits reassembled; the places of the data in the payload are not given
(log 21). -/

namespace Sys2Proof.Machine

/-! ## Messages (R252, R253, R278) -/

/-- The bytes of a collective header (Table 09-8). -/
def collBytes (h : CollHdr) : List Byte :=
  bytesLE 32 (pack [(224, 32, h.group.toNat), (192, 32, h.inst.toNat), (184, 8, h.op.toNat), (168, 16, h.rank.toNat), (164, 4, h.wire.toNat), (162, 2, h.clk.toNat),
    (161, 1, b1 h.nf), (160, 1, b1 h.nrm), (144, 16, h.chunk.toNat), (128, 16, h.segment.toNat), (64, 64, h.arrival.toNat), (48, 16, h.nthr.toNat),
    (32, 16, h.laterank.toNat), (31, 1, b1 h.abort), (30, 1, b1 h.arrived)])

/-- The clock state of the bays of a command's stall (R277, R364). -/
def State.clkOf (s : State) (x : Cmd) : Nat := match s.stall x.stallNo with | some st => s.stallClock st.bays | none => 0

/-- A header of a member's message, with its clock state and sending time (R277). -/
def State.hdr (s : State) (x : Cmd) (group inst : U32) (op rank wire chunk segment : Nat) : CollHdr :=
  { group := group, inst := inst, op := BitVec.ofNat 8 op, rank := BitVec.ofNat 16 rank, wire := BitVec.ofNat 4 wire, clk := BitVec.ofNat 2 (s.clkOf x)
    nf := false, nrm := false, chunk := BitVec.ofNat 16 chunk, segment := BitVec.ofNat 16 segment, arrival := s.clk.time, nthr := 0, laterank := 0
    abort := false, arrived := false }

/-- Send a collective message to a member, on behalf of a command: with no route the command fails (R264); E5M2 data does not
leave on an Abond 1.2 link, every flit of it counted (R248). Answers the message's tag. -/
def State.sendColl (s : State) (c : CmdNo) (dst : Fid) (h : CollHdr) (data : List Byte) : Option (BitVec 24) × State :=
  let tag := s.ab.nextTag
  let t := { s with ab := { s.ab with nextTag := tag + 1 } }
  match s.egressOf dst with
  | none => (none, t.endCmd c 0x41 0xFFFF)
  | some e =>
    let x := s.port e
    if x.nbr.ver = 1 && h.wire = 0 && 1 ≤ h.op.toNat && h.op.toNat ≤ 3 then
      (none, (t.setPort e { x with ctrs := { x.ctrs with verdrop := satAdd x.ctrs.verdrop (max 1 (ceilDiv (32 + data.length) 232)) } }).endCmd c 0x10 0x0301)
    else
      let h := if x.nbr.ver = 1 then hdrOn12 h else h
      match t.sendMsg 9 (if h.op = 6 || h.op = 7 then 0 else 3) dst 0 tag (collBytes h ++ data) (.coll dst h data) with
      | some (p, u) => (some tag, { u with ab := { u.ab with xfers := u.ab.xfers ++ [⟨tag, dst, some p, c, false, 0, 0⟩] } })
      | none => (none, t.endCmd c 0x41 0xFFFF)

/-- A header as a receiver reads it on its link (R248). -/
def State.hdrOn (s : State) (p : Nat) (h : CollHdr) : CollHdr :=
  if (s.port p).nbr.ver = 1 then { h with clk := 0, arrival := s.clk.time, nthr := 0, laterank := 0 } else h

/-- The group descriptor that a collective or a step close names (R268). -/
def Cmd.groupAddr (x : Cmd) : Option Nat :=
  if 0x0601 ≤ x.op && x.op ≤ 0x0605 then some (x.addr 0)
  else if x.op = 0x0403 && x.p 0 1 = 1 && x.addr 16 != 0 then some (x.addr 16) else none

/-- A command that takes part in collectives of a group: a collective, or a step close that names one. One whose group is not known yet, its
descriptor still to be written, may be of any group (log 46). -/
def Cmd.usesGroup (x : Cmd) (g : U32) : Bool := x.phase != .ended && x.groupAddr.isSome && (match x.grp with | some y => y.1 = g | none => true)

/-- The receiver's running or pending collectives use a group (R279). -/
def State.usesGroup (s : State) (g : U32) : Bool := s.ck.cmds.any (fun x => x.usesGroup g)

/-- R279: a message of a group that nothing uses is discarded and counted in PROTERR. -/
def State.forGroup (s : State) (p : Nat) (h : CollHdr) (k : State → State) : State :=
  if s.usesGroup h.group then k s else s.protErr p

/-- The collective of an instance in progress, while its command runs. -/
def State.collOf (s : State) (h : CollHdr) : Option (Coll × Cmd) :=
  match s.ab.colls.find? (fun c => c.group = h.group && c.inst = h.inst) with
  | some c => (s.cmd c.cmd).bind (fun x => if x.runs then some (c, x) else none)
  | none => none
def State.setColl (s : State) (c : Coll) : State :=
  { s with ab := { s.ab with colls := s.ab.colls.map (fun d => if d.cmd = c.cmd then c else d) } }
def State.barrierOf (s : State) (h : CollHdr) : Option (Barrier × Cmd) :=
  match s.ab.barriers.find? (fun b => b.group = h.group && b.inst = h.inst) with
  | some b => (s.cmd b.cmd).bind (fun x => if x.runs then some (b, x) else none)
  | none => none
def State.setBarrier (s : State) (b : Barrier) : State :=
  { s with ab := { s.ab with barriers := s.ab.barriers.map (fun d => if d.cmd = b.cmd then b else d) } }

/-- Hold a message until the collective of its instance starts (R269, R279). -/
def State.holdMsg (s : State) (h : CollHdr) : State :=
  let g := s.group h.group.toNat
  s.setGroup h.group.toNat { g with held := g.held.filter (fun y => !(y.op = h.op && y.inst = h.inst && y.rank = h.rank && y.chunk = h.chunk && y.segment = h.segment)) ++ [h] }

/-! ## The wire (R159, R160, R270) -/

/-- Elements of a segment (R269). -/
def segLen : Nat := 16384
/-- Elements of segment `g` of a chunk of `n`. -/
def segSize (n g : Nat) : Nat := min segLen (n - segLen * g)

/-- Block of a gradient output that a source address lies in: layer and block index (R113, R159). -/
def Numerics.blockAt (n : Numerics) (a : Nat) : Option (Nat × Nat) :=
  (n.gradAt.find? (fun g => g.2.1 ≤ a && a < g.2.1 + 4 * (g.2.2.1 * g.2.2.2))).map (fun g =>
    let i := (a - g.2.1) / 4
    (g.1, i / g.2.2.2 * ceilDiv g.2.2.2 32 + i % g.2.2.2 / 32))

/-- The blocks of a source's elements, numbered from that of its first: the gradient output's own blocks, of 32 consecutive elements of
an output line, or 32 elements each where the source is no gradient output of this stall (R113, R159, log 21). -/
def Numerics.ordinal (n : Numerics) (a i : Nat) : Nat :=
  match n.blockAt a, n.blockAt (a + 4 * i) with
  | some b, some c => c.2 - b.2
  | _, _ => i / 32

/-- The offending blocks among the first `len` elements of a source, by those numbers (R159, R272). -/
def Numerics.offendingIn (n : Numerics) (a len : Nat) : List Nat :=
  match n.special, n.blockAt a with
  | true, some b => (List.range (n.ordinal a (len - 1) + 1)).filter (fun o => n.offending.contains (b.1, b.2 + o))
  | _, _ => []

/-- Headroom of the block at a source address. -/
def Numerics.headAt (n : Numerics) (a : Nat) : Nat := if n.special then (match n.blockAt a with | some b => n.headroom b.1 b.2 | none => 0) else 0

/-- FP32 elements at an address, in blocks of the wire, the headroom of each element's own block undone (R160). -/
def State.wireSource (s : State) (n : Numerics) (a len : Nat) : List (List (XVal × Bool)) :=
  (List.range (ceilDiv len 32)).map (fun k =>
    (List.range (min 32 (len - 32 * k))).map (fun j =>
      let at_ := a + 128 * k + 4 * j
      let v := fp32.read (s.readNat at_ 4)
      (v.1.times (pow2 (n.headAt at_)), v.2)))

/-- A segment quantised for the wire with the bitmap of its offending blocks, and the events of the quantiser (R270, R272). -/
def State.wireSeg (s : State) (n : Numerics) (a len wire : Nat) : SegData × Cnt :=
  let bs := s.wireSource n a len
  let marked := n.offendingIn a len
  if wire = 0 then
    let qs := bs.map (quantBlock { tag := 3 })
    (⟨qs.map (fun q => BitVec.ofNat 32 q.rec_), qs.flatMap (fun q => (q.codes.take 32).map (BitVec.ofNat 16)), marked⟩, Cnt.sum (qs.map (·.cnt)))
  else
    let ws := bs.flatten.map (fun v => bf16.write v.1 v.2 false)
    (⟨[], ws.map (fun w => BitVec.ofNat 16 w.1), marked⟩, Cnt.sum (ws.map (·.2)))

/-- The bytes a segment's data takes on the wire: records, codes, the bitmap of marked blocks, a bit for each block of 32 and for
each further block up to the last marked one (log 21). -/
def segDataBytes (d : SegData) (wire len : Nat) : List Byte :=
  d.records.flatMap (fun r => bytesLE 4 r.toNat) ++ d.codes.flatMap (fun k => bytesLE (if wire = 0 then 1 else 2) k.toNat) ++
    bytesLE (ceilDiv (d.marked.foldl (fun n b => max n (b + 1)) (ceilDiv len 32)) 8) (pack (d.marked.map (fun b => (b, 1, 1))))

/-- The wire value of element `i` (R55, R272). -/
def segValue (d : SegData) (wire i : Nat) : XVal :=
  if wire = 0 then ((blkOf 3 true false 32 ((d.records.getD (i / 32) 0).toNat) (fun j => (d.codes.getD (i / 32 * 32 + j) 0).toNat) []).elem (i % 32)).1
  else (bf16.read (d.codes.getD i 0).toNat).1

/-- Count the quantiser's events in an engine (Table 09-15). -/
def State.engineWire (s : State) (e : Nat) (c : Cnt) : State :=
  let g := s.engine e
  s.setEngine e { g with ctrs := { g.ctrs with nonfinite := satAdd g.ctrs.nonfinite c.nonfinite, flushedIn := satAdd g.ctrs.flushedIn c.flushedIn, flushedOut := satAdd g.ctrs.flushedOut c.flushedOut } }

/-! ## Accumulators (R271, R272, R275) -/

/-- 2^146 times a wire value. -/
def wireUnits (v : Rat) : Int := (v * pow2 146).num

/-- Latch one contribution. -/
def AccSlot.add (a : AccSlot) (rank wire : Nat) (d : SegData) : AccSlot :=
  let vs : List XVal := (List.range a.sums.length).map (segValue d wire)
  { a with sums := (List.zip a.sums vs).map (fun (p : Int × XVal) => p.1 + wireUnits p.2.rat)
           negs := (List.range vs.length).filter (fun i => (a.ranks = [] || a.negs.contains i) && (match vs[i]? with | some v => v.isZero && v.neg | none => false))
           nans := a.nans ++ ((List.range vs.length).filter (fun i => match vs[i]? with | some v => !v.finite && !a.nans.contains i | none => false))
           marked := a.marked ++ d.marked.filter (fun b => !a.marked.contains b), ranks := a.ranks ++ [rank] }

/-- One result element: code, event, and whether it is NaN; +0 in a marked block, −0 where every contribution is −0 (R48, R271, R272).
`block` numbers the elements' blocks. -/
def AccSlot.result (a : AccSlot) (f : Flt) (block : Nat → Nat) (lsexp : Nat) (i : Nat) : Nat × Cnt × Bool :=
  if a.marked.contains (block i) then (0, {}, false)
  else if a.nans.contains i then (f.nan, { nonfinite := 1, nf := true }, true)
  else
    let r := f.write (if a.negs.contains i then .zero true else XVal.ofRat ((a.sums.getD i 0 : Rat) * pow2 (-146 - (lsexp : Int)))) false false
    (r.1, r.2, false)

/-- Parameter offsets by opcode: the chunk table, its count, the wire. -/
def Cmd.chunkTable (x : Cmd) : Nat × Nat :=
  if x.op = 0x0601 then (x.addr 24, x.p 32 4) else if x.op = 0x0602 then (x.addr 16, x.p 24 4) else (x.addr 8, x.p 16 4)
def Cmd.wire (x : Cmd) : Nat := if x.op = 0x0601 then x.p 36 1 else x.p 28 1
def Cmd.outBf16 (x : Cmd) : Bool := x.op = 0x0601 && x.p 37 1 % 2 = 1

/-- Bytes of a gathered element: FP32 or BF16 of an all-reduce, bytes of the others (R274). -/
def Cmd.gatherWidth (x : Cmd) : Nat := if x.op = 0x0601 then (if x.outBf16 then 2 else 4) else 1
/-- WIRE of gathered data (Table 09-8). -/
def Cmd.gatherWire (x : Cmd) : Nat := if x.op = 0x0601 then (if x.outBf16 then 1 else 2) else 3

/-- Where segment `g` of chunk `k` lies at this member, and its elements: the chunk's DEST, or its offset in the output of
an all-reduce, or the block of a rank. -/
def Coll.place (cl : Coll) (x : Cmd) (k g : Nat) : Nat × Nat :=
  let ch := cl.chunks.getD k (0, 0, 0, 0)
  if x.op = 0x0601 then ((x.desc 16).daddr + x.gatherWidth * (ch.2.2.1 + segLen * g), segSize ch.2.2.2 g)
  else if x.op = 0x0602 then (ch.1 + 4 * (segLen * g), segSize ch.2.2.2 g)
  else if x.op = 0x0603 then (ch.1 + segLen * g, segSize ch.2.2.2 g)
  else ((x.desc 16).daddr + x.p 24 8 * k + segLen * g, segSize (x.p 24 8) g)

/-! ## Sending (R269, R270, R274) -/

/-- The chunk's owner. -/
def Coll.owner (cl : Coll) (k : Nat) : Nat := (cl.chunks.getD k (0, 0, 0, 0)).2.1
/-- The segment travels for the reduction, to the chunk's owner. -/
def Coll.reduces (cl : Coll) (x : Cmd) (peer k : Nat) : Bool := (x.op = 0x0601 || x.op = 0x0602) && cl.owner k = peer && cl.rank != peer

/-- Where a member's data for segment `g` of a chunk begins: its source of a reduction. -/
def Coll.source (cl : Coll) (x : Cmd) (k g : Nat) : Nat := (x.desc 8).daddr + 4 * ((cl.chunks.getD k (0, 0, 0, 0)).2.2.1 + segLen * g)

/-- What a member reads to send a segment: its source, its own place, or its block for the peer of an all-to-all. -/
def Coll.sendSpan (cl : Coll) (x : Cmd) (peer k g : Nat) : Nat × Nat :=
  if cl.reduces x peer k then (cl.source x k g, 4 * segSize (cl.chunks.getD k (0, 0, 0, 0)).2.2.2 g)
  else if x.op = 0x0605 then ((x.desc 8).daddr + x.p 24 8 * peer + segLen * g, (cl.place x k g).2)
  else ((cl.place x k g).1, x.gatherWidth * (cl.place x k g).2)

/-- Send a granted segment to a peer; what it reads is checked as it is read (R209, R219). -/
def State.sendSeg (s : State) (cl : Coll) (x : Cmd) (n : Numerics) (peer k g : Nat) : State :=
  let dst := cl.members.getD peer 0
  let cl := { cl with toSend := cl.toSend.erase (peer, k, g), granted := cl.granted.erase (peer, k, g) }
  let done := fun (r : Option (BitVec 24) × State) => match r.1 with | some tag => r.2.setColl { cl with unackd := cl.unackd ++ [tag] } | none => r.2.setColl cl
  let span := cl.sendSpan x peer k g
  s.checked x true false span.1 span.2 (fun s =>
    if cl.reduces x peer k then
      let (d, c) := s.wireSeg n span.1 (span.2 / 4) x.wire
      done ((s.engineWire cl.engine c).sendColl x.no dst (s.hdr x cl.group cl.inst 1 cl.rank x.wire k g) (segDataBytes d x.wire (span.2 / 4)))
    else
      done (s.sendColl x.no dst (s.hdr x cl.group cl.inst (if x.op = 0x0605 then 3 else 2) cl.rank x.gatherWire k g) (s.readBytes span.1 span.2)))

/-- Grant a segment to a peer (R269). -/
def State.grantSeg (s : State) (cl : Coll) (x : Cmd) (peer k g : Nat) : State :=
  (s.sendColl x.no (cl.members.getD peer 0) (s.hdr x cl.group cl.inst 8 cl.rank 0 k g) []).2

/-- A collective with nothing left to do completes (R273, R274). -/
def State.collCheck (s : State) (c : CmdNo) : State :=
  match s.ab.colls.find? (fun d => d.cmd = c) with
  | some cl => if cl.need = [] && cl.toSend = [] && cl.unackd = [] && cl.toWrite = [] then s.doneCmd c else s
  | none => s

/-- Write a segment whose last contribution is latched, free its slot, and send it to the members that already granted it. -/
def State.finishSlot (s : State) (c : CmdNo) (k g : Nat) : State :=
  match s.ab.colls.find? (fun d => d.cmd = c), s.cmd c with
  | some cl, some x =>
    match s.ab.slots.find? (fun a => a.group = cl.group && a.inst = cl.inst && a.chunk = k && a.segment = g), s.stall x.stallNo with
    | some a, some st =>
      let f := if x.outBf16 then bf16 else fp32
      let p := cl.place x k g
      let src := cl.source x k g
      let rs := (List.range a.sums.length).map (a.result f (st.num.ordinal src) st.num.now.hdr.lsexp.toNat)
      let cnt := Cnt.sum (rs.map (·.2.1))
      let listed := match st.num.blockAt src with | some b => a.marked.map (fun o => (b.1, b.2 + o)) | none => []
      let w := if x.outBf16 then 2 else 4
      s.checked x false true p.1 (w * rs.length) (fun s =>
      let t := s.put c p.1 (rs.flatMap (fun r => bytesLE w r.1))
      let e := t.engine cl.engine
      let t := t.setEngine cl.engine { e with ctrs := { e.ctrs with elems := satAdd e.ctrs.elems rs.length, nonfinite := satAdd e.ctrs.nonfinite cnt.nonfinite, saturated := satAdd e.ctrs.saturated cnt.saturated, flushedOut := satAdd e.ctrs.flushedOut cnt.flushedOut, zeroed := satAdd e.ctrs.zeroed a.marked.length } }
      let t := t.flag c { nf := cnt.nf, saturated := cnt.saturated } false
      let t := t.onNum x.stallNo (fun n => { n with offending := n.offending ++ listed.filter (fun b => !n.offending.contains b) })
      let cl' := { cl with toWrite := cl.toWrite.erase (k, g) }
      let t := ({ t with ab := { t.ab with slots := t.ab.slots.erase a } }).setColl cl'
      (cl'.granted.filter (fun y => y.2.1 = k && y.2.2 = g)).foldl (fun t y =>
        match t.ab.colls.find? (fun d => d.cmd = c) with | some d => t.sendSeg d x st.num y.1 k g | none => t) t)
    | _, _ => s
  | _, _ => s

/-- Slots of an engine in use. -/
def State.slotsUsed (s : State) (e : Nat) : Nat :=
  (s.ab.slots.filter (fun a => s.ab.colls.any (fun c => c.group = a.group && c.inst = a.inst && c.engine = e))).length

/-- An earlier instance of the group, still to start or with segments not yet granted (R269). -/
def State.grantsWait (s : State) (group : U32) (c : CmdNo) : Bool :=
  s.ck.cmds.any (fun y => y.no < c && y.phase != .ended && 0x0601 ≤ y.op && y.op ≤ 0x0605 && y.op != 0x0604 &&
    (match y.grp with | some g => g.1 = group | none => false) &&
    (match s.ab.colls.find? (fun d => d.cmd = y.no) with | some d => d.toGrant != [] | none => true))

/-- The segment is one of this member's own chunks of a reduction, which takes a slot. -/
def Coll.takesSlot (cl : Coll) (x : Cmd) (k : Nat) : Bool := (x.op = 0x0601 || x.op = 0x0602) && cl.owner k = cl.rank

/-- Grant the next segments of a collective in order of chunk and segment, after those of earlier instances of the group: a gathered one
to the member that sends it; for one to be reduced here a slot is reserved while the engine has one free (25), the owner's own
contribution is latched, and every other member gets its grant (R269, R270, R275). -/
def State.reserve (c : CmdNo) : Nat → State → State
  | 0, s => s
  | n + 1, s =>
    match s.ab.colls.find? (fun d => d.cmd = c), s.cmd c with
    | some cl, some x =>
      match cl.toGrant, s.stall x.stallNo with
      | (k, g) :: rest, some st =>
        if s.grantsWait cl.group c then s
        else if !cl.takesSlot x k then
          let m := if x.op = 0x0605 then k else cl.owner k
          State.reserve c n ((s.setColl { cl with toGrant := rest }).grantSeg { cl with toGrant := rest } x m k g)
        else if 25 ≤ s.slotsUsed cl.engine then s
        else
          let len := segSize (cl.chunks.getD k (0, 0, 0, 0)).2.2.2 g
          match s.badElem x true false (cl.source x k g) (4 * len) with
          | some b => s.failAccess x.wins x b
          | none =>
          let (d, cnt) := s.wireSeg st.num (cl.source x k g) len x.wire
          let a : AccSlot := { group := cl.group, inst := cl.inst, chunk := k, segment := g, sums := List.replicate len 0, negs := [], nans := [], marked := [], ranks := [] }
          let t := (s.engineWire cl.engine cnt).setColl { cl with toGrant := rest }
          let e := t.engine cl.engine
          let t := t.setEngine cl.engine { e with ctrs := { e.ctrs with contribs := satAdd e.ctrs.contribs len } }
          let t := { t with ab := { t.ab with slots := t.ab.slots ++ [a.add cl.rank x.wire d] } }
          let t := ((List.range cl.members.length).filter (· != cl.rank)).foldl (fun t m => t.grantSeg cl x m k g) t
          State.reserve c n (if cl.members.length = 1 then t.finishSlot c k g else t)
      | _, _ => s
    | _, _ => s

/-- Reservations and grants of every collective in progress, in issue order (R269). -/
def State.reserveAll (s : State) : State :=
  (s.ck.cmds.filterMap (fun y => s.ab.colls.find? (fun d => d.cmd = y.no))).foldl (fun t cl => State.reserve cl.cmd cl.toGrant.length t) s

/-! ## Starting -/

/-- The (chunk, segment) pairs of chunks by owner. -/
def segsOf (chunks : List (Nat × Nat × Nat × Nat)) (own : Nat → Bool) : List (Nat × Nat) :=
  (List.range chunks.length).flatMap (fun k => let ch := chunks.getD k (0, 0, 0, 0)
    if own ch.2.1 then (List.range (ceilDiv ch.2.2.2 segLen)).map (fun g => (k, g)) else [])

/-- A grant that has come: send, or keep it until the segment is rounded (R274). -/
def State.takeGrant (s : State) (cl : Coll) (x : Cmd) (h : CollHdr) : State :=
  let e := (h.rank.toNat, h.chunk.toNat, h.segment.toNat)
  if !cl.toSend.contains e then s
  else if x.op = 0x0601 && cl.owner e.2.1 = cl.rank && cl.toWrite.contains (e.2.1, e.2.2) then
    s.setColl { cl with granted := if cl.granted.contains e then cl.granted else cl.granted ++ [e] }
  else match s.stall x.stallNo with
    | some st => s.sendSeg cl x st.num e.1 e.2.1 e.2.2
    | none => s

/-- Start a collective with data: its work lists, its grants, and the grants held for it. -/
def State.startColl (s : State) (x : Cmd) : State :=
  match x.grp, (if s.ab.fidValid then indexOf s.ab.fid (s.groupDesc (x.addr 0)).members else none) with
  | some (group, inst), some r =>
    let ms := (s.groupDesc (x.addr 0)).members
    let others := (List.range ms.length).filter (· != r)
    let chunks := if x.op = 0x0605 then [] else (s.chunks x.chunkTable.1 x.chunkTable.2).map (fun c => (c.dest, c.owner, c.off, c.len))
    let mine := segsOf chunks (· = r)
    let blocks := List.range (ceilDiv (x.p 24 8) segLen)
    let grants := if x.op = 0x0605 then others.flatMap (fun m => blocks.map (fun g => (m, g)))
      else segsOf chunks (fun o => if x.op = 0x0601 then true else if x.op = 0x0602 then o = r else o != r)
    let theirs := (segsOf chunks (· != r)).map (fun y => ((chunks.getD y.1 (0, 0, 0, 0)).2.1, y.1, y.2))
    let toAll := mine.flatMap (fun y => others.map (fun m => (m, y.1, y.2)))
    let red := x.op = 0x0601 || x.op = 0x0602
    let (e, s) := s.fresh 7 0
    let e := if (s.unit (0x4000 + e % 4)).clerk = .fenced then (e % 4) ^^^ 1 else e % 4
    let cl : Coll := { group := group, inst := inst, cmd := x.no, members := ms, rank := r, engine := e, chunks := chunks
                       toGrant := grants, toWrite := if red then mine else []
                       toSend := if x.op = 0x0605 then others.flatMap (fun m => blocks.map (fun g => (m, r, g))) else (if red then theirs else []) ++ (if x.op = 0x0602 then [] else toAll)
                       need := if x.op = 0x0605 then others.flatMap (fun m => blocks.map (fun g => (m, m, g))) else (if red then toAll else []) ++ (if x.op = 0x0602 then [] else theirs) }
    let t := { s with ab := { s.ab with colls := s.ab.colls ++ [cl] } }.workOn x.no
    let t := if x.op = 0x0605 then t.put x.no ((x.desc 16).daddr + x.p 24 8 * r) (t.readBytes ((x.desc 8).daddr + x.p 24 8 * r) (x.p 24 8)) else t
    let t := t.reserveAll
    let left := match t.ab.colls.find? (fun d => d.cmd = x.no) with | some d => (d.toGrant.filter (fun y => d.takesSlot x y.1)).length | none => 0
    let en := t.engine cl.engine
    let t := t.setEngine cl.engine { en with ctrs := { en.ctrs with slotwait := satAdd en.ctrs.slotwait left } }
    let g := t.group group.toNat
    let hs := g.held.filter (fun h => h.inst = inst && h.op = 8)
    let t := t.setGroup group.toNat { g with held := g.held.filter (fun h => !(h.inst = inst && h.op = 8)) }
    let t := hs.foldl (fun t h => match t.ab.colls.find? (fun d => d.cmd = x.no) with | some d => t.takeGrant d x h | none => t) t
    t.collCheck x.no
  | _, _ => s.endCmd x.no 0x13 0

def execCollAllreduce (c : CmdNo) (s : State) : Host.Outcome State Fault Refusal :=
  .next (match s.begins c 0x0601 with | some x => s.startColl x | none => s.stopped c 0x0601)
def execCollRedscatter (c : CmdNo) (s : State) : Host.Outcome State Fault Refusal :=
  .next (match s.begins c 0x0602 with | some x => s.startColl x | none => s.stopped c 0x0602)
def execCollAllgather (c : CmdNo) (s : State) : Host.Outcome State Fault Refusal :=
  .next (match s.begins c 0x0603 with | some x => s.startColl x | none => s.stopped c 0x0603)
def execCollAlltoall (c : CmdNo) (s : State) : Host.Outcome State Fault Refusal :=
  .next (match s.begins c 0x0605 with | some x => s.startColl x | none => s.stopped c 0x0605)

/-! ## Data (R269 to R274, R463) -/

/-- Receive a collective message, of its flits together (R253, R278). -/
def State.deliverColl (s : State) (p : Nat) (f : Flit) (h : CollHdr) (data : List Byte) (k : State → State) : State :=
  s.deliver p f k (collBytes h ++ data) (f.kindOk && collVcOk f h.op.toNat)

def execSegGrant (p : Idx64) (f : Flit) (h : CollHdr) (s : State) : Host.Outcome State Fault Refusal :=
  .next (s.deliverColl p.val f h [] (fun t => t.forGroup p.val h (fun t =>
    match t.collOf h with
    | some (cl, x) => (t.takeGrant cl x h).collCheck x.no
    | none => t.holdMsg h)))

/-- A contribution latched in its slot, acknowledged to its sender; the last one of a segment writes the result. -/
def execRedscatterData (p : Idx64) (f : Flit) (h : CollHdr) (d : SegData) (s : State) : Host.Outcome State Fault Refusal :=
  .next (s.deliverColl p.val f h (segDataBytes d h.wire.toNat d.codes.length) (fun t => t.forGroup p.val h (fun t =>
    match t.collOf h with
    | none => t
    | some (cl, x) =>
      let e := (h.rank.toNat, h.chunk.toNat, h.segment.toNat)
      match t.ab.slots.find? (fun a => a.group = cl.group && a.inst = cl.inst && a.chunk = e.2.1 && a.segment = e.2.2) with
      | none => t
      | some a =>
        if !cl.need.contains e then t
        else
          let a' := a.add e.1 h.wire.toNat d
          let t := { t with ab := { t.ab with slots := t.ab.slots.map (fun y => if y = a then a' else y) } }.setColl { cl with need := cl.need.erase e }
          let g := t.engine cl.engine
          let t := t.setEngine cl.engine { g with ctrs := { g.ctrs with contribs := satAdd g.ctrs.contribs a.sums.length } }
          let t := t.sendResp f.src f.tag false 0 0 []
          let t := if a'.ranks.length = cl.members.length then (t.finishSlot x.no e.2.1 e.2.2).reserveAll else t
          t.collCheck x.no)))

/-- R463: the last byte of a chunk of 2 × ROWS × COLS bytes at the SADDR of a layer record of a loaded stall stages it. -/
def State.stageReplica (s : State) (c : CmdNo) (dest len : Nat) : State :=
  let hit := (s.stallsLoaded.flatMap (fun k => k.2.layers.map (fun e => e.lraddr.toNat))).eraseDups.filter (fun a =>
    a != 0 && (s.layerRec a).saddr = dest && 2 * (s.layerRec a).rows * (s.layerRec a).cols = len)
  hit.foldl (fun t a => t.putLayerRO c a { (t.layerRec a).ro with staged := true }) s

/-- Take a gathered segment: written unchanged, acknowledged. -/
def State.takeData (s : State) (f : Flit) (h : CollHdr) (data : List Byte) : State :=
  match s.collOf h with
  | none => s
  | some (cl, x) =>
    let e := (h.rank.toNat, h.chunk.toNat, h.segment.toNat)
    if !cl.need.contains e then s
    else
      let p := cl.place x e.2.1 e.2.2
      let left := cl.need.erase e
      s.checked x false true p.1 (x.gatherWidth * p.2) (fun s =>
      let t := (s.put x.no p.1 (slice data 0 (x.gatherWidth * p.2))).setColl { cl with need := left }
      let ch := cl.chunks.getD e.2.1 (0, 0, 0, 0)
      let t := if x.op = 0x0603 && !left.any (fun y => y.2.1 = e.2.1) then t.stageReplica x.no ch.1 ch.2.2.2 else t
      (t.sendResp f.src f.tag false 0 0 []).collCheck x.no)

def execAllgatherData (p : Idx64) (f : Flit) (h : CollHdr) (data : List Byte) (s : State) : Host.Outcome State Fault Refusal :=
  .next (s.deliverColl p.val f h data (fun t => t.forGroup p.val h (fun t => t.takeData f h data)))
def execAlltoallData (p : Idx64) (f : Flit) (h : CollHdr) (data : List Byte) (s : State) : Host.Outcome State Fault Refusal :=
  .next (s.deliverColl p.val f h data (fun t => t.forGroup p.val h (fun t => t.takeData f h data)))

/-! ## Barriers (R276, R277) -/

/-- Children of a rank in a group of `n`. -/
def childrenOf (r n : Nat) : List Nat := (List.range 16).filterMap (fun k => if 16 * r + k + 1 < n then some (16 * r + k + 1) else none)
def parentOf (r : Nat) : Nat := (r - 1) / 16

/-- The combination of R277. -/
def combineHdr (a b : CollHdr) : CollHdr :=
  let later := decide (a.arrival.toNat < b.arrival.toNat)
  let tie := decide (a.arrival = b.arrival)
  { a with nf := a.nf || b.nf, nrm := a.nrm || b.nrm, clk := BitVec.ofNat 2 (max a.clk.toNat b.clk.toNat), nthr := satAdd a.nthr b.nthr.toNat
           arrival := if later then b.arrival else a.arrival
           laterank := if later then b.laterank else if tie then BitVec.ofNat 16 (min a.laterank.toNat b.laterank.toNat) else a.laterank }

/-- Send a combination of a barrier to ranks, as an ARRIVE (4) or a RELEASE (5). -/
def State.sendBarrier (s : State) (b : Barrier) (op : Nat) (h : CollHdr) (abort : Bool) (ranks : List Nat) : State :=
  ranks.foldl (fun t m => (t.sendColl b.cmd (b.members.getD m 0) { h with group := b.group, inst := b.inst, op := BitVec.ofNat 8 op, rank := BitVec.ofNat 16 b.rank, wire := 0, chunk := 0, segment := 0, abort := abort, arrived := false } []).2) s

/-- A member latches the root's combination: COLL_BARRIER is done, a step close goes on to its processing (R150, R390). -/
def State.released (s : State) (b : Barrier) (x : Cmd) (h : CollHdr) : State :=
  let g := s.group b.group.toNat
  let t := s.setGroup b.group.toNat { g with lastRelease := s.clk.time }
  let t := { t with ab := { t.ab with barriers := t.ab.barriers.filter (fun d => d.cmd != b.cmd) } }
  if x.op = 0x0403 then
    let t := match t.stall x.stallNo with | some st => t.pace st.bays b.group h.clk.toNat b.own h.arrival g.lastRelease | none => t
    (t.onNum x.stallNo (fun n => { n with groupNf := h.nf, groupNrm := h.nrm })).onCmd x.no (fun y => { y with stage := 1 })
  else t.doneCmd x.no

/-- A barrier whose children have all arrived goes up, or at the root comes down: this member's own clock state is the one at sending
(R277). -/
def State.advance (s : State) (b : Barrier) (x : Cmd) : State :=
  let kids := childrenOf b.rank b.members.length
  let clk := s.clkOf x
  let comb := { b.comb with clk := BitVec.ofNat 2 (max b.comb.clk.toNat clk), nthr := satAdd b.comb.nthr (if clk = 2 then 1 else 0) }
  if b.sentUp || !kids.all (fun k => b.arrivals.contains k) then s.setBarrier b
  else if b.rank = 0 then ((s.setBarrier b).sendBarrier b 5 comb false kids).released b x comb
  else
    let b := { b with sentUp := true, comb := comb }
    (s.setBarrier b).sendBarrier b 4 comb false [parentOf b.rank]

/-- A barrier that fails: PEER_LOST, and ABORT in both directions. -/
def State.abortBarrier (s : State) (b : Barrier) (detail : U16) : State :=
  let t := s.sendBarrier b 5 b.comb true (childrenOf b.rank b.members.length)
  let t := if b.rank = 0 then t else t.sendBarrier b 4 b.comb true [parentOf b.rank]
  { t with ab := { t.ab with barriers := t.ab.barriers.filter (fun d => d.cmd != b.cmd) } }.endCmd b.cmd 0x41 detail

/-- Latch an ARRIVE, a RELEASE or an ABORT at a barrier. -/
def State.takeBarrier (s : State) (b : Barrier) (x : Cmd) (h : CollHdr) : State :=
  if h.abort then s.abortBarrier b 0xFFFF
  else if h.op = 4 then
    let r := h.rank.toNat
    if b.arrivals.contains r || !(childrenOf b.rank b.members.length).contains r then s
    else s.advance { b with arrivals := b.arrivals ++ [r], comb := combineHdr b.comb h, polled := b.polled.filter (fun y => y.1 != r) } x
  else if h.op = 5 then
    if b.rank != 0 && h.rank.toNat = parentOf b.rank && b.sentUp then (s.sendBarrier b 5 h false (childrenOf b.rank b.members.length)).released b x h else s
  else s

/-- A member arrives at a barrier of a command, with its flags (R276, R277). -/
def State.startBarrier (s : State) (x : Cmd) (ga : Nat) (nf nrm : Bool) : State :=
  match x.grp, (if s.ab.fidValid then indexOf s.ab.fid (s.groupDesc ga).members else none) with
  | some (group, inst), some r =>
    let h := { s.hdr x group inst 4 r 0 0 0 with nf := nf, nrm := nrm, clk := 0, laterank := BitVec.ofNat 16 r }
    let b : Barrier := { group := group, inst := inst, cmd := x.no, members := (s.groupDesc ga).members, rank := r, comb := h, arrivals := [], own := s.clk.time, lastPoll := s.now }
    let g := s.group group.toNat
    let hs := g.held.filter (fun m => m.group = group && m.inst = inst && m.op != 8)
    let t := s.setGroup group.toNat { g with held := g.held.filter (fun m => !(m.group = group && m.inst = inst && m.op != 8)) }
    let t := ({ t with ab := { t.ab with barriers := t.ab.barriers ++ [b] } }.workOn x.no).advance b x
    hs.foldl (fun t m => match t.barrierOf m with | some (d, y) => t.takeBarrier d y m | none => t) t
  | _, _ => s.endCmd x.no 0x13 0

def execCollBarrier (c : CmdNo) (s : State) : Host.Outcome State Fault Refusal :=
  .next (match s.begins c 0x0604 with | some x => s.startBarrier x (x.addr 0) false false | none => s.stopped c 0x0604)

/-- A barrier message: latched, or held while its barrier has not started (R279). -/
def State.barrierMsg (s : State) (p : Nat) (h : CollHdr) : State :=
  s.forGroup p h (fun t =>
    let h := t.hdrOn p h
    match t.barrierOf h with
    | some (b, x) => t.takeBarrier b x h
    | none =>
      if t.ck.cmds.any (fun x => x.undispatched && x.grp = some (h.group, h.inst)) || t.ck.cmds.any (fun x => x.phase = .running && x.grp = some (h.group, h.inst)) ||
          (t.group h.group.toNat).nextInst.toNat ≤ h.inst.toNat then t.holdMsg h else t)

def execArrive (p : Idx64) (f : Flit) (h : CollHdr) (s : State) : Host.Outcome State Fault Refusal :=
  .next (s.deliverColl p.val f { h with op := 4, abort := false } [] (fun t => t.barrierMsg p.val { h with op := 4, abort := false }))
def execRelease (p : Idx64) (f : Flit) (h : CollHdr) (s : State) : Host.Outcome State Fault Refusal :=
  .next (s.deliverColl p.val f { h with op := 5, abort := false } [] (fun t => t.barrierMsg p.val { h with op := 5, abort := false }))
def execAbort (p : Idx64) (f : Flit) (h : CollHdr) (s : State) : Host.Outcome State Fault Refusal :=
  .next (s.deliverColl p.val f { h with abort := true } [] (fun t => t.barrierMsg p.val { h with abort := true }))

/-- POLLINT with its limits, in ns (Table 09-7). -/
def State.pollNs (s : State) : Nat := 1000 * min 1000 (max 10 s.ab.pollInt.toNat)

/-- The members a barrier waits for: children that have not arrived, and the parent after the own ARRIVE. -/
def Barrier.waitsFor (b : Barrier) : List Nat :=
  (childrenOf b.rank b.members.length).filter (fun k => !b.arrivals.contains k) ++ (if b.sentUp then [parentOf b.rank] else [])

def execPollSend (group : U32) (s : State) : Host.Outcome State Fault Refusal :=
  .next ((s.ab.barriers.filter (fun b => b.group = group && s.reached (b.lastPoll + s.pollNs))).foldl (fun t b =>
    match t.cmd b.cmd with
    | some x =>
      if !x.runs then t
      else
        let u := b.waitsFor.foldl (fun t m => (t.sendColl b.cmd (b.members.getD m 0) (t.hdr x b.group b.inst 6 b.rank 0 0 0) []).2) t
        u.setBarrier { b with lastPoll := t.now, polled := b.polled ++ (b.waitsFor.filter (fun m => !b.polled.any (fun y => y.1 = m))).map (fun m => (m, t.now)) }
    | none => t) s)

/-- The rank of this member in the group that a command names. -/
def State.rankIn (s : State) (x : Cmd) : Nat := (x.groupAddr.bind (fun a => indexOf s.ab.fid (s.groupDesc a).members)).getD 0

/-- This member has arrived at the barrier of an instance: the barrier has started, or is past (R276). -/
def State.hasArrived (s : State) (group inst : U32) : Bool :=
  s.ab.barriers.any (fun b => b.group = group && b.inst = inst) ||
    (inst.toNat < (s.group group.toNat).nextInst.toNat && s.ck.cmds.all (fun y => y.grp != some (group, inst) || y.stage = 1 || (y.phase = .ended && y.disp)))

/-- Answer a POLL with the present clock state and whether this member has arrived (R276, R278, R364): for the collective of that instance, else
any that uses the group. -/
def execPoll (p : Idx64) (f : Flit) (h : CollHdr) (s : State) : Host.Outcome State Fault Refusal :=
  .next (s.deliverColl p.val f { h with op := 6 } [] (fun t => t.forGroup p.val h (fun t =>
    match t.ck.cmds.find? (fun x => x.grp = some (h.group, h.inst)) <|> t.ck.cmds.find? (fun x => x.usesGroup h.group) with
    | none => t
    | some x => (t.sendColl x.no f.src { t.hdr x h.group h.inst 7 (t.rankIn x) 0 0 0 with arrived := t.hasArrived h.group h.inst } []).2)))

def execPollAns (p : Idx64) (f : Flit) (h : CollHdr) (s : State) : Host.Outcome State Fault Refusal :=
  .next (s.deliverColl p.val f { h with op := 7 } [] (fun t => t.forGroup p.val h (fun t =>
    match t.barrierOf h with
    | some (b, _) => t.setBarrier { b with polled := b.polled.filter (fun y => b.members.getD y.1 0 != f.src) }
    | none => t)))

/-- A polled member whose 3 µs have passed, unless its answer is latched on this edge (R31). -/
def State.overdue (s : State) (b : Barrier) : Option Nat :=
  (b.polled.find? (fun y => s.reached (y.2 + 3000) &&
    !s.latched (fun i => match i with | .pollAns _ f h => h.group = b.group && h.inst = b.inst && f.src = b.members.getD y.1 0 | _ => false))).map (·.1)

/-- A polled member has not answered within 3 µs: lost. -/
def execPollTimeout (group : U32) (s : State) : Host.Outcome State Fault Refusal :=
  .next (match s.ab.barriers.find? (fun b => b.group = group && (s.overdue b).isSome) with
    | some b =>
      let lost := (s.overdue b).getD 0
      let port := match s.egressOf (b.members.getD lost 0) with | some e => BitVec.ofNat 16 e | none => 0xFFFF
      s.abortBarrier b port
    | none => s)

/-! ## STEP_CLOSE (R150) -/

/-- A close waits for every GRAD command issued before it; then the barrier of its group, or its processing at once. -/
def execStepClose (c : CmdNo) (s : State) : Host.Outcome State Fault Refusal :=
  .next (match s.modeCmd c 1 with
    | none => s
    | some (x, st) =>
      let waits := s.ck.cmds.any (fun y => y.no < c && y.stallNo = x.stallNo && y.isGrad)
      let s := if waits then s else s.onNum x.stallNo (fun n => { n with arrived := s.stallClock st.bays })
      if waits then s
      else if x.addr 16 = 0 then (s.workOn c).onCmd c (fun y => { y with stage := 1 })
      else s.startBarrier x (x.addr 16) st.num.stepFlag (st.num.now.hdr.mode = 0))

end Sys2Proof.Machine
end

