-- ==== Sys2Proof/Machine/Faults.lean ====
section
/-! DEFINITION. Errors of memory and units, capsules, unit states, the Farrier and shoeing (chapter 07, R217 to R222; chapter
15, R410 to R432). -/

namespace Sys2Proof.Machine

def hour24 : Nat := 86400000000000

/-! ## Error records in memory (R415, Table 15-2) -/

def crcBits : (n : Nat) → Nat → Nat
  | 0, c => c
  | n + 1, c => crcBits n (if c % 2 = 1 then (c / 2) ^^^ 0x82F63B78 else c / 2)
/-- CRC-32C of bytes (log 28). -/
def crc32c (bs : List Byte) : Nat := (bs.foldl (fun c b => crcBits 8 (c ^^^ b.toNat)) 0xFFFFFFFF) ^^^ 0xFFFFFFFF

/-- The 128 bytes of a record. -/
def ErrRec.bytes (r : ErrRec) : List Byte :=
  let body := (bytesLE 128 (pack [(992, 32, r.index.toNat), (928, 64, r.time.toNat), (864, 64, modid.toNat), (848, 16, r.fid.toNat), (840, 8, r.cls.toNat),
    (832, 8, r.code.toNat), (816, 16, r.unit.toNat), (800, 16, r.pattern.toNat), (784, 16, r.opcode.toNat), (752, 32, r.seq.toNat), (744, 8, r.stall.toNat),
    (736, 8, r.origin.toNat), (728, 8, r.status.toNat), (720, 8, r.temp.toNat), (704, 16, r.vrail.toNat), (688, 16, r.freq.toNat), (686, 2, r.clk.toNat),
    (685, 1, b1 r.stress), (684, 1, b1 r.nocaps), (683, 1, b1 r.fidv), (678, 2, r.verdict.toNat), (676, 2, r.ustate.toNat), (624, 48, r.addr.toNat),
    (576, 48, r.capsule.toNat), (544, 32, r.related.toNat), (416, 128, r.syndrome.toNat)])).drop 4
  bytesLE 4 (crc32c body) ++ body

/-- Record `i` of the log: the newest 8,192 (R418). -/
def State.logged (s : State) (i : U32) : Option ErrRec := s.mg.log.find? (fun r => r.index = i)

/-! ## Memory (R217 to R222) -/

/-- A memory record of a stack. -/
def stackRecord (code k addr : Nat) (syn : Nat) : ErrRec :=
  { cls := 2, code := BitVec.ofNat 8 code, unit := stackCode k, pattern := 0xE000, addr := BitVec.ofNat 48 addr, syndrome := BitVec.ofNat 128 (pack [(124, 4, 0xE), (116, 8, k), (0, 64, syn)]) }

/-- Spare rows of a bank (Table 07-3). -/
def spareRows (k : Nat) : Nat := if k < 16 then 2 else 4
/-- Rows of a bank that are spared: those of the test record, and those spared in service, of which the field repair list holds stack,
bank, row and spare (R221, Table 16-2). -/
def State.sparedIn (s : State) (k bank : Nat) : Nat :=
  (s.flash.repairList.filter (fun e => e.getD 0 48 = k && e.getD 1 0 = bank)).length + ((s.stack k).unlisted.filter (· = bank)).length +
    ((s.stack k).testRows.filter (· = bank)).length

/-- A row takes a spare of its bank, or the stack is DEGRADED (R221). -/
def State.spareRow (s : State) (k bank row addr : Nat) : State :=
  let x := s.stack k
  if s.sparedIn k bank < spareRows k then
    let n := s.sparedIn k bank + 1
    let full := decide (6144 ≤ s.flash.repairList.length)
    let t := s.setStack k { x with fieldRows := satAdd x.fieldRows 1, rowsUsed := BitVec.ofNat 16 (max x.rowsUsed.toNat n), rowHits := x.rowHits.filter (fun h => !(h.1 = bank && h.2.1 = row)), unlisted := if full then x.unlisted ++ [bank] else x.unlisted }
    ({ t with flash := { t.flash with repairList := if full then t.flash.repairList else t.flash.repairList ++ [[k, bank, row, n - 1]] } }).note (stackRecord 4 k (if full then 0 else addr) 0)
  else if x.degraded then s
  else (s.setStack k { x with degraded := true }).note (stackRecord 6 k addr 0)

/-- A corrected read: counted, and the row spared on its third occasion within 24 hours (R218, R221). -/
def State.corrected (s : State) (addr bank row : Nat) : State :=
  match stackOf addr with
  | none => s
  | some k =>
    let x := s.stack k
    let hits := (x.rowHits.filter (fun h => !s.reached (h.2.2 + hour24))) ++ [(bank, row, s.now)]
    let t := s.setStack k { x with corr := satAdd x.corr 1, rowHits := hits }
    if 3 ≤ (hits.filter (fun h => h.1 = bank && h.2.1 = row)).length then t.spareRow k bank row addr else t

/-- The management controller counts a unit's detections by pattern class over 24 hours; those of a unit that is SUSPECT already count as one with
the first (R416, R428). -/
def State.counted (s : State) (unit pattern : U16) : State :=
  { s with mg := { s.mg with history := (s.mg.history.filter (fun h => !s.reached (h.2.2 + hour24))) ++ [(unit, pattern, s.now)] } }

/-- An uncorrectable read: counted, the line poisoned, a memory record written (R219), which names the line, or the first line that the
command which consumed it did not write (R213); the line's check syndrome is free. DEDUCED (log 66). -/
def State.poisonLine (s : State) (addr : Nat) (x : Option Cmd) : U32 × State :=
  match stackOf addr with
  | none => (0xFFFFFFFF, s)
  | some k =>
    let y := s.stack k
    let t := s.setStack k { y with uncorr := satAdd y.uncorr 1 }
    let t := if t.poison.contains (addr / 64) then t else { t with poison := t.poison ++ [addr / 64] }
    let r := stackRecord 2 k ((x.bind Cmd.firstUnwritten).getD (addr / 64 * 64)) (Config.free s.freeCtr 41 addr)
    (t.counted (stackCode k) r.pattern).record (match x with | some c => r.forCmd c 0x21 | none => r)

/-- The first byte of the store of bay `b` (R204), and the bay whose store holds an address. -/
def storeBase (b : Nat) : Nat := 0xF0000000000 + b * 2 ^ 25
def storeBay (a : Nat) : Option Nat :=
  if storeBase 0 ≤ a && a < storeBase 64 && (a - storeBase 0) % 2 ^ 25 < 3 * 2 ^ 23 then some ((a - storeBase 0) / 2 ^ 25) else none

/-- Corrected words of a unit's SRAM are counted (R218). -/
def State.sramCorrected (s : State) (u n : Nat) : State := s.setUnit u { s.unit u with corr := satAdd (s.unit u).corr n }

/-- The address is a line of a tier or of an activation store, whose SRAM follows the same rules (R218). -/
def execDramReadCorrected (addr : BitVec 48) (bank row : Nat) (s : State) : Host.Outcome State Fault Refusal :=
  .next (match storeBay addr.toNat with
    | some b => s.sramCorrected (0x1000 + b) 1
    | none => s.corrected addr.toNat bank row)

def execUncorrectableRead (addr : BitVec 48) (c : Option CmdNo) (s : State) : Host.Outcome State Fault Refusal :=
  .next (let x := c.bind s.cmd
    let u := (x.map (fun y => s.interrupt y.no)).getD s
    let (i, t) := u.poisonLine addr.toNat (c.bind u.cmd)
    match x, stackOf addr.toNat with
    | some y, some k => t.failCmd y.no 0x21 (stackCode k) i
    | _, _ => t)

/-- The sub-unit of a unit's SRAM, and the pattern class of one of its 64-bit words and a failing bit (Table 15-4). -/
def sramSub (u : Nat) : Nat := match unitKind u with | 1 => 6 | 2 => 9 | 3 => 0xB | 4 => 0xB | _ => 0xD
def sramPattern (u word bit : Nat) : U16 := BitVec.ofNat 16 (pack [(12, 4, sramSub u), (4, 8, bits word 21 14), (0, 4, bit / 8)])

/-- The module address of a word of a unit's SRAM: only the activation stores have one (R204, R225). -/
def sramAddr (u word : Nat) : Nat := if unitKind u = 1 then storeBase (unitIndex u) + 8 * (word % (3 * 2 ^ 20)) else 0

/-- R414: a memory record, and the unit falls due for its next shoeing slice. The first correction of a word that has no module address
is an event of its own to no row: it is counted with the second (R218). DESIGN CHOICE (log 60). -/
def execSramSecondCorrection (unit : U16) (word : Nat) (s : State) (bit : Nat := 0) (syn : Byte := 0) : Host.Outcome State Fault Refusal :=
  .next (let u := unit.toNat
    let p := sramPattern u word bit
    let t := s.sramCorrected u (if unitKind u = 1 then 1 else 2)
    let t := (if (s.unit u).before s.clk.ticks = .suspect then t else t.counted unit p).note
      { cls := 2, code := 3, unit := unit, pattern := p, addr := BitVec.ofNat 48 (sramAddr u word), stress := (s.unit u).testing.isSome, ustate := BitVec.ofNat 2 (s.unit u).clerk.code
        syndrome := BitVec.ofNat 128 (pack [(124, 4, sramSub u), (0, 8, syn.toNat)]) }
    let x := t.unit unit.toNat
    if x.due then t else t.setUnit unit.toNat { x with due := true, dueSince := s.now })

/-- Lines of a stack (Table 07-3). -/
def stackLines (k : Nat) : Nat := (if k < 16 then 48 else if k < 24 then 128 else 96) * 2 ^ 24

/-- R220: `bad` erroneous symbols found in a line; the pass ends with the last line of the stack, and pauses in
self-refresh (R405). -/
def execScrubRead (addr : BitVec 48) (bank row : Nat) (bad : Nat) (s : State) : Host.Outcome State Fault Refusal :=
  .next (match stackOf addr.toNat with
    | none => s
    | some k =>
      if (s.stack k).selfRefresh then s else
      let t := if bad = 0 then s else if bad = 1 then s.corrected addr.toNat bank row else (s.poisonLine addr.toNat none).2
      let x := t.stack k
      if x.scrubNext + 1 < stackLines k then t.setStack k { x with scrubNext := x.scrubNext + 1 }
      else t.setStack k { x with scrubNext := 0, scrubTime := t.clk.time })

def execRefreshRateChange (k : Fin 48) (temp : Int) (s : State) : Host.Outcome State Fault Refusal :=
  .next (let x := s.stack k.val
    s.setStack k.val { x with temp := BitVec.ofInt 8 temp, hotref := if 85 < temp then true else if temp < 82 then false else x.hotref })

/-- POISONED of a stack: its poisoned lines, and those of channels that are out, which read as poisoned (R221, R222). -/
def State.poisonedLines (s : State) (k : Nat) : Nat :=
  (s.poison.filter (fun l => stackOf (l * 64) = some k && !s.deadLine l)).length + (s.stack k).tsvOut.length * (stackLines k / channels k)

/-- The health record of a stack (Table 07-7). -/
def State.healthRecord (s : State) (k : Nat) : List Byte :=
  let x := s.stack k
  let bad := s.poisonedLines k
  bytesLE 32 (pack [(224, 32, x.corr.toNat), (192, 32, x.uncorr.toNat), (176, 16, x.fieldRows.toNat), (160, 16, spareRows k - x.rowsUsed.toNat), (152, 8, x.tsvSpared.toNat),
    (144, 8, x.tsvLeft.toNat), (136, 8, x.temp.toNat), (128, 8, k), (64, 64, x.scrubTime.toNat), (32, 32, bad), (1, 1, b1 x.hotref), (0, 1, b1 x.degraded)])

/-! ## Unit states (R421 to R424) -/

/-- The compute die of a unit. -/
def dieOf (u : Nat) : Nat :=
  let i := unitIndex u
  match unitKind u with
  | 1 => i / 16 | 2 => i / 2 | 3 => i / 16 | 4 => i
  | 5 => if i < 16 then i / 4 else if i < 24 then (i - 16) / 2 else (i - 24) / 6
  | _ => 0

/-- Loaded stalls whose bay set holds a bay and has no ACTIVE bay left. -/
def State.strandedBy (s : State) (b : Nat) : Nat :=
  (s.stallsLoaded.filter (fun k => k.2.bays.toNat.testBit b && !(maskBits k.2.bays.toNat 64).any s.bayActive)).length

/-- The dispatched commands that name a tensor kept in bay `b` end with UNIT_FENCED (R133). -/
def State.endReaders (s : State) (b : Nat) : State :=
  (s.ck.cmds.filter (fun x => x.runs && s.readsBay x b)).foldl (fun t x => t.endCmd x.no 0x50 (bayCode b)) s

/-- The dispatched commands of stalls left with no ACTIVE bay end with UNIT_FENCED (R226, R424). -/
def State.endStranded (s : State) : State :=
  (s.ck.cmds.filter (fun x => x.runs && s.noBay x)).foldl (fun t x => t.endCmd x.no 0x50 (bayCode (s.lowestBay x))) s

/-- The commands of a fenced Miller that have not begun end with UNIT_FENCED. A publication that waits or converts is the Clerk's work,
and goes on (R170, R197). -/
def State.endMiller (s : State) (g : Nat) : State :=
  (s.ck.cmds.filter (fun x => x.phase = .running && millerOf x = some g)).foldl (fun t x => t.endCmd x.no 0x50 (millerCode g)) s

/-- The engine of die d xor 1 takes over the accumulation of a fenced reduction engine (R424). -/
def State.moveEngine (s : State) (d : Nat) : State :=
  { s with ab := { s.ab with colls := s.ab.colls.map (fun c => if c.engine = d then { c with engine := d ^^^ 1 } else c) } }

/-- A unit becomes FENCED in both views, with the effects of its kind (R133, R170, R424, R409, R391, R434). -/
def State.fence (s : State) (u : Nat) : State :=
  if (s.unit u).clerk = .fenced then s.setUnitState u .fenced
  else
    let i := unitIndex u
    let t := (s.setUnitState u .fenced).leaveActive u
    match unitKind u with
    | 1 =>
      let t := ((t.fencedBayOff i).endReaders i).endStranded
      (List.range (t.strandedBy i)).foldl (fun t _ => t.pinPlace) t
    | 2 => (t.endMiller i).remapMsg 3
    | 4 => t.moveEngine i
    | 3 => (t.setPort i { t.port i with fenced := true }).portDown i none
    | _ => t

/-- A unit returns to ACTIVE in both views. -/
def State.activate (s : State) (u : Nat) : State :=
  let t := s.setUnitState u .active
  match unitKind u with
  | 3 =>
    let i := unitIndex u
    let t := t.setPort i { t.port i with fenced := false }
    if t.portCanTrain i then t.startTraining i else t
  | _ => t.checkBayCount

def execUnitFence (c : CmdNo) (s : State) : Host.Outcome State Fault Refusal :=
  .next (match s.running c 0x0903 with
    | some x => if x.p 2 1 != 0 then s else if hasState (x.p 0 2) then (s.fence (x.p 0 2)).doneCmd c else s.endCmd c 0x13 0
    | none => s)

def execUnitReturn (c : CmdNo) (s : State) : Host.Outcome State Fault Refusal :=
  .next (match s.running c 0x0903 with
    | some x =>
      let u := x.p 0 2
      let y := s.unit u
      if x.p 2 1 != 1 then s
      else if !hasState u || y.clerk != .fenced || y.last != 1 || s.flash.fenceList.any (fun e => e.1.toNat = u) then s.endCmd c 0x13 0
      else (s.activate u).doneCmd c
    | none => s)

/-! ## Detections and capsules (R413, R416, R417) -/

def State.capsule (s : State) (i : Nat) : Option Capsule := tget none s.capsules i
def State.setCapsule (s : State) (i : Nat) (v : Option Capsule) : State := { s with capsules := tset none s.capsules i v }

/-- The pattern class of a compute record, from its code and syndrome (R416, Tables 15-3 and 15-4). For a reduction engine the
syndrome's row is the accumulator slot and its column the lane group. DESIGN CHOICE (log 60). -/
def residuePattern (code syn : Nat) : U16 :=
  let sub := bits syn 127 124
  let row := bits syn 123 108
  let col := bits syn 107 92
  let place := if sub ≤ 2 then row / 8 * 16 + col / 8 else if sub ≤ 5 then row / 2 else if sub = 7 || sub = 8 then row / 8 * 8 + col / 8 else if sub = 0xA then row * 8 + col else 0
  let sig := if sub ≤ 5 || sub = 7 || sub = 8 || sub = 0xA then pack [(3, 1, b1 (code = 2)), (0, 3, (bits syn 64 62 + 14 - bits syn 67 65) % 7)] else 0
  BitVec.ofNat 16 (pack [(12, 4, sub), (4, 8, place), (0, 4, sig)])

/-- A comparison of residues that fires: at a point of the unit's kind and of the sub-unit named, with predicted and actual residues modulo
7 that differ (R411, Tables 15-3 and 15-4). Anything else is no detection (log 60). -/
def residueFires (u code syn : Nat) : Bool :=
  let sub := bits syn 127 124
  let pred := bits syn 67 65
  let got := bits syn 64 62
  (pred != got && pred < 7 && got < 7) &&
    (match unitKind u with
    | 1 => (1 ≤ code && code ≤ 2 && sub ≤ 2) || (3 ≤ code && code ≤ 5 && sub = code)
    | 2 => code = 7 && (sub = 7 || sub = 8)
    | 4 => code = 6 && sub = 0xA
    | _ => false)

/-- A residue check fires, or the unit's SRAM yields an uncorrectable word (code 0) (R413, R417). The record of an activation store's word
names its address (R204), another's the first line that the stopped command did not write (R213). The capsule of an SRAM word is the word
as read and its address, a module address where the store has one, else the byte's place in the SRAM; that of a datapath is what the event
brings. DESIGN CHOICE (log 60). -/
def State.detect (s : State) (unit : U16) (code : Byte) (word bit : Nat) (syn : BitVec 128) (data : List Byte) (c : Option CmdNo) : State :=
  let u := unit.toNat
  let s := (c.map s.interrupt).getD s
  let x := s.unit u
  let first := x.before s.clk.ticks = .active
  let mem := code = 0
  let status : Byte := if mem then 0x21 else 0x22
  let held := unitKind u = 1 && (s.holder 2 (unitIndex u)).isSome
  let full := (List.range 64).all (fun i => match s.capsule i with | some k => k.judged.isNone | none => false)
  let nocaps := held || full
  let t := s.suspect u false
  let pattern := if mem then sramPattern u word bit else residuePattern code.toNat syn.toNat
  let syn := if mem then BitVec.ofNat 128 (pack [(124, 4, sramSub u), (0, 8, syn.toNat)]) else syn
  let line := ((c.bind s.cmd).bind Cmd.firstUnwritten).getD 0
  let data := if mem then slice data 0 8 ++ bytesLE 6 (if unitKind u = 1 then sramAddr u word else 8 * word) else data
  let a := if mem && unitKind u = 1 then sramAddr u word else line
  let r : ErrRec := { cls := if mem then 2 else 1, code := if mem then 1 else code, unit := unit, pattern := pattern, addr := BitVec.ofNat 48 a, nocaps := nocaps, stress := x.testing.isSome
                      syndrome := syn, ustate := BitVec.ofNat 2 (t.unit u).clerk.code }
  let y := c.bind s.cmd
  let (i, t) := t.record (match y with | some y => r.forCmd y status | none => r)
  let t := if first && hasState u then (t.setUnit u { t.unit u with detIdx := i, detPattern := pattern, frozen := if nocaps then x.frozen else some data }).counted unit pattern else t
  match y with | some y => t.failCmd y.no status unit i | none => t

def execResidueDetection (unit : U16) (code : Byte) (word : Nat) (syndrome : BitVec 128) (capsule : List Byte) (c : Option CmdNo) (s : State) (bit : Nat := 0) : Host.Outcome State Fault Refusal :=
  .next (if code = 0 || residueFires unit.toNat code.toNat syndrome.toNat then s.detect unit code word bit syndrome capsule c else s)

/-- A parity error in control state (Table 15-1). -/
def execParityError (unit : U16) (s : State) : Host.Outcome State Fault Refusal :=
  .next (let first := (s.unit unit.toNat).before s.clk.ticks = .active && hasState unit.toNat
    let t := s.suspect unit.toNat true
    let (i, t) := t.record { cls := 6, code := 3, unit := unit, stress := (s.unit unit.toNat).testing.isSome, ustate := BitVec.ofNat 2 (t.unit unit.toNat).clerk.code, syndrome := BitVec.ofNat 128 (pack [(124, 4, if unitKind unit.toNat = 3 then 0xC else 0xD)]) }
    if first then t.setUnit unit.toNat { t.unit unit.toNat with detIdx := i, detPattern := 0 } else t)

/-- The slot a new capsule takes: the lowest free one, else the one judged earliest (R417). -/
def State.capsuleSlot (s : State) : Option Nat :=
  match (List.range 64).find? (fun i => (s.capsule i).isNone) with
  | some i => some i
  | none => ((List.range 64).foldl (fun (b : Option (Nat × Nat)) i => match (s.capsule i).bind (·.judged) with
      | some j => (match b with | some (_, k) => if j < k then some (i, j) else b | none => some (i, j))
      | none => b) none).map (·.1)

/-- The frozen capsule is copied to a slot of the store, and its address entered in the record; the addresses of the store
are not given (log 5). -/
def execCapsuleCopy (unit : U16) (s : State) : Host.Outcome State Fault Refusal :=
  .next (let x := s.unit unit.toNat
    match x.frozen, s.capsuleSlot with
    | some data, some i =>
      let (v, t) := s.fresh 30 i
      let at_ := fun (r : ErrRec) => if r.index = x.detIdx then { r with capsule := BitVec.ofNat 48 v } else r
      let t := (t.setUnit unit.toNat { x with frozen := none }).setCapsule i (some { unit := unit, record := x.detIdx, data := data.take 524288 })
      { t with mg := { t.mg with log := t.mg.log.map at_, kept := t.mg.kept.map at_ } }
    | _, _ => s)

def execCapsuleRelease (slot : Idx64) (s : State) : Host.Outcome State Fault Refusal :=
  .next (match (s.capsule slot.val).bind (·.judged) with
    | some j => if s.reached (j + hour24) then s.setCapsule slot.val none else s
    | none => s)

/-! ## The two views (R421) -/

/-- A unit's ALIVE is low at some Ostler. -/
def State.aliveLow (s : State) (u : Nat) : Bool :=
  s.ostlers.any (fun x => match aliveAt u x.1 with | some slot => tget false x.2.masked slot | none => false)

/-- The unit is in a power-state entry, below A0, or waking. -/
def State.powering (s : State) (u : Nat) : Bool :=
  match powerIndex u with
  | some i => let x := s.power i; x.entering.isSome || x.waking || x.state != .a0
  | none => false

/-- The views of a unit disagree. -/
def State.viewsDiffer (s : State) (u : Nat) : Bool :=
  let x := s.unit u
  x.clerk != x.mgmt || (x.clerk = .active && s.aliveLow u && !s.powering u)

/-- Every unit with a state, in the order of its codes. -/
def stateUnits : List Nat :=
  (List.range 64).map (0x1000 + ·) ++ (List.range 8).map (0x2000 + ·) ++ (List.range 64).map (0x3000 + ·) ++ (List.range 4).map (0x4000 + ·)

/-- The management controller reports each change of a stack's DEGRADED and POISONED to the management network (R222), here as a CHANGE
message at its next comparison. DESIGN CHOICE (log 61). -/
def State.healthChanges (s : State) : State :=
  (List.range 48).foldl (fun t k =>
    let now := (t.poisonedLines k, (t.stack k).degraded)
    if now = tget (0, false) t.mg.health k then t
    else ({ t with mg := { t.mg with health := tset (0, false) t.mg.health k now } } : State).changeMsg (stackCode k) (t.healthRecord k)) s

def execViewCompare (s : State) : Host.Outcome State Fault Refusal :=
  .next (stateUnits.foldl (fun t u =>
    let x := t.unit u
    if t.viewsDiffer u then (if x.disagreeAt.isSome then t else t.setUnit u { x with disagreeAt := some t.now })
    else (if x.disagreeAt.isNone then t else t.setUnit u { x with disagreeAt := none })) s.healthChanges)

/-- 100 µs of a disagreement; what clears it, latched on this edge, comes before (R31, R421). -/
def execViewDisagreement (unit : U16) (s : State) : Host.Outcome State Fault Refusal :=
  .next (let u := unit.toNat
    match (s.unit u).disagreeAt with
    | some t0 =>
      let clears := s.latched (fun i => match i with
        | .mgmtMailboxWord _ _ _ (.unitState v) => v = unit
        | .aliveRise o slot _ => aliveAt u o.val = some slot.val
        | _ => false)
      if hasState u && s.reached (t0 + 100000) && s.viewsDiffer u && !clears then
        let t := (s.setUnitState u .suspect).leaveActive u
        let (i, t) := t.record { cls := 6, code := 4, unit := unit, ustate := 1, syndrome := BitVec.ofNat 128 (pack [(124, 4, 0xD)]) }
        t.setUnit u { t.unit u with queuedTest := true, detIdx := i, detPattern := 0, disagreeAt := none }
      else s
    | none => s)

/-! ## The Farrier (R425 to R430) -/

/-- The tests chosen by a FARRIER_RUN (R430). -/
def State.runTests (s : State) (x : Cmd) : Nat :=
  if x.p 2 1 = 0 then 6 + b1 ((List.range 64).any (fun i => match s.capsule i with | some k => k.record.toNat = x.p 4 4 | none => false)) else x.p 2 1

/-- The tests of a unit about to be tested: FARRIER_RUN's, else replay where a capsule exists, march and stress (R425). -/
def State.testsOf (s : State) (u : Nat) : Nat :=
  match ((s.unit u).run).bind s.cmd with
  | some x => s.runTests x
  | none => 6 + b1 ((List.range 64).any (fun i => match s.capsule i with | some k => k.record = (s.unit u).detIdx && k.unit.toNat = u | none => false))

/-- Units of a die under test. -/
def State.testsOn (s : State) (d : Nat) : Nat := (s.units.filter (fun x => dieOf x.1 = d && x.2.testing.isSome)).length

/-- A unit waits for its test. -/
def UnitState.waits (x : UnitState) : Bool := x.queuedTest && x.testing.isNone

/-- The Farrier wakes a unit that it tests from BG or BO (R409, R431). -/
def State.powerForTest (s : State) (u : Nat) : State :=
  match powerIndex u with
  | some i => if unitKind u ≤ 2 && ((s.power i).state = .bg || (s.power i).state = .bo) then
      let t := (s.setPState i .a0).aliveRises [i]
      if unitKind u = 1 then t.updateDi (i / 16) else t
    else s
  | none => s

/-- R425: at most four tests at once on a die, in order of detection; a port only while its entry is not UP. -/
def execFarrierTest (unit : U16) (s : State) : Host.Outcome State Fault Refusal :=
  .next (let u := unit.toNat
    let x := s.unit u
    let earlier := s.units.any (fun y => y.1 != u && dieOf y.1 = dieOf u && y.2.waits && y.2.detIdx.toNat < x.detIdx.toNat && !(unitKind y.1 = 3 && s.portUp (unitIndex y.1)))
    if x.waits && s.testsOn (dieOf u) < 4 && !earlier && !(unitKind u = 3 && s.portUp (unitIndex u)) then
      (s.setUnit u { x with testing := some (s.clk.time.toNat, BitVec.ofNat 4 (s.testsOf u)), queuedTest := false }).powerForTest u
    else s)

def execFarrierRun (c : CmdNo) (s : State) : Host.Outcome State Fault Refusal :=
  .next (match s.begins c 0x0901 with
    | none => s.stopped c 0x0901
    | some x =>
      let u := x.p 0 2
      if u = 0x6000 then s
      else
        let t := s.makeSuspect u true
        let y := t.unit u
        let det : U32 := if bit (s.runTests x) 0 then BitVec.ofNat 32 (x.p 4 4) else y.detIdx
        let pat := if bit (s.runTests x) 0 then (match s.mg.kept.find? (fun r => r.index = det) with | some r => r.pattern | none => y.detPattern) else y.detPattern
        (t.setUnit u { y with run := some c, queuedTest := y.queuedTest || y.testing.isNone, detIdx := det, detPattern := pat }).workOn c)

/-- R430: unit code 0x6000 marks every unit due for shoeing. -/
def execFarrierRunMarkDue (c : CmdNo) (s : State) : Host.Outcome State Fault Refusal :=
  .next (match s.begins c 0x0901 with
    | some x =>
      if x.p 0 2 = 0x6000 then
        (stateUnits.foldl (fun t u => let y := t.unit u; if y.due then t else t.setUnit u { y with due := true, dueSince := s.now }) s).doneCmd c
      else s
    | none => s.stopped c 0x0901)

/-- The verdict (1 TRANSIENT, 2 LASTING, 3 UNRESOLVED), its UNRES and PATRULE (R428). -/
def verdictOf (r : TestResult) (tests : BitVec 4) (pcount : Nat) (listed : Bool) : Nat × Nat × Bool :=
  let failed := r.failed != 0 || 0 < r.replayFail.toNat || 0 < r.marchFail.toNat
  let short := (tests &&& ~~~r.ran &&& 7) != 0 || r.interrupted
  let unsel := !(tests.getLsbD 1 && tests.getLsbD 2)
  if failed then (2, 0, false)
  else if 3 ≤ pcount then (2, 0, true)
  else if r.stressHeldOff then (3, 1, false)
  else if r.ownPath then (3, 3, false)
  else if short then (3, 2, false)
  else if unsel then (3, 5, false)
  else if listed then (3, 4, false)
  else (1, 0, false)

/-- Unit state after a verdict (Table 15-6); stacks and other units have none. -/
def stateAfter (x : UnitState) (v : Nat) : UState :=
  match x.clerk with
  | .suspect => if v = 1 then .active else .fenced
  | .active => if v = 1 then .active else .fenced
  | .fenced => if v = 1 && x.fromUnres then .active else .fenced

/-- Time the module has spent in MS, in ns. -/
def State.msTime (s : State) : Nat := ((s.power 140).counted s.clk.ticks).tdeep.toNat

/-- The states of both views, DROPS and the thresholds (R419); their places in the payload are not given (log 21). -/
def State.unitStatePayload (s : State) : List Byte :=
  stateUnits.map (fun u => BitVec.ofNat 8 ((s.unit u).clerk.code + 16 * (s.unit u).mgmt.code)) ++ bytesLE 4 s.mg.drops.toNat ++ bytesLE 2 s.mg.throttleLimit.toNat ++ bytesLE 1 s.mg.bayLimit.toNat

def execVerdict (unit : U16) (r : TestResult) (s : State) : Host.Outcome State Fault Refusal :=
  .next (let u := unit.toNat
    let x := s.unit u
    match x.testing with
    | none => s
    | some (t0, tests) =>
      let pcount := if x.detPattern = 0 then 0 else (s.mg.history.filter (fun h => h.1 = unit && h.2.1 = x.detPattern && !s.reached (h.2.2 + hour24))).length
      let onList := s.flash.fenceList.any (fun e => e.1 = unit)
      let (v, unres, patrule) := verdictOf r tests pcount onList
      let st := if hasState u then stateAfter x v else .active
      let forRun := fun (e : ErrRec) => match x.run.bind s.cmd with | some y => e.forCmd y y.normalStatus | none => e
      let e : ErrRec := { cls := 9, code := r.ran.zeroExtend 8, unit := unit, stress := true, verdict := BitVec.ofNat 2 v, ustate := BitVec.ofNat 2 st.code, related := x.detIdx
                          syndrome := BitVec.ofNat 128 (pack [(96, 32, x.detIdx.toNat), (80, 16, r.replayFail.toNat), (64, 16, min 0xFFFF r.marchFail.toNat)]) }
      let (i, t) := s.record (forRun e)
      let t := if st = .fenced && hasState u then (if unitKind u = 1 then (t.fence u).fencedBayOff (unitIndex u) else t.fence u) else if hasState u && x.clerk != .active then t.activate u else t
      let row := if v = 3 then x.unresRow + 1 else 0
      let t := t.setUnit u { t.unit u with testing := none, run := none, shoeing := false, last := v, unresRow := row, fromUnres := st = .fenced && v = 3 && row ≤ 3, detIdx := 0xFFFFFFFF, detPattern := 0, due := if x.shoeing then false else (t.unit u).due, cool := if x.shoeing then !r.reached95 else x.cool, lastSlice := if x.shoeing then s.now else x.lastSlice, msAtSlice := if x.shoeing then s.msTime else x.msAtSlice }
      let lists := v = 2 && hasState u && !onList && t.flash.fenceList.length < 256
      let t := if lists then { t with flash := { t.flash with fenceList := t.flash.fenceList ++ [(unit, i)] } } else t
      let t := { t with capsules := t.capsules.map (fun e => (e.1, e.2.map (fun k => if k.unit = unit && k.judged.isNone then { k with judged := some s.now } else k))) }
      let t : State := if unitKind u = 5 && v = 2 then
          let a := ((s.logged x.detIdx).map (·.addr.toNat)).getD 0
          let (b, t) := t.fresh 31 u
          let (w, t) := t.fresh 32 u
          t.spareRow (unitIndex u) b w a
        else t
      let t := if unitKind u = 1 then t.unclaim 3 (unitIndex u) 6 else t
      let caps := if tests.getLsbD 3 then r.captured.take 8 else []
      let (cap, t) := if caps = [] then (0, t) else t.fresh 30 64
      let t := caps.foldl (fun t d => match t.capsuleSlot with
        | some k => t.setCapsule k (some { unit := unit, record := i, data := d.take 524288, judged := some s.now })
        | none => t) t
      let t := t.mgmtSend 2 0 t.unitStatePayload
      match x.run with
      | none => t
      | some c =>
        match t.cmd c with
        | none => t
        | some y =>
          let rec_ := bytesLE 64 (pack [(480, 32, i.toNat), (448, 32, x.detIdx.toNat), (384, 64, t0), (320, 64, s.clk.time.toNat), (304, 16, u), (302, 2, v), (300, 2, st.code),
            (299, 1, b1 (!r.ran.getLsbD 0)), (298, 1, b1 (x.shoeing && !r.reached95)), (297, 1, b1 (onList || lists)), (296, 1, b1 patrule), (292, 4, r.ran.toNat), (288, 4, r.failed.toNat),
            (272, 16, r.replays.toNat), (256, 16, r.replayFail.toNat), (224, 32, r.marchFail.toNat), (208, 16, pcount), (200, 8, r.tj.toNat), (184, 16, r.vstress.toNat),
            (168, 16, r.fstress.toNat), (160, 8, caps.length), (112, 48, cap), (104, 8, unres)])
          (t.put c (y.addr 8) rec_).doneCmd c)

/-! ## Shoeing (R431, R432) -/

/-- 24 hours after the last hot slice, time in MS apart, or 1 hour after a COOL one (R431). -/
def execShoeingDue (unit : U16) (s : State) : Host.Outcome State Fault Refusal :=
  .next (let x := s.unit unit.toNat
    let gap := if x.cool then 3600000000000 else hour24
    if hasState unit.toNat && !x.due && s.reached (x.lastSlice + gap + (s.msTime - x.msAtSlice)) then s.setUnit unit.toNat { x with due := true, dueSince := s.now } else s)

/-- The unit has been idle for 10 µs, nothing holds its arrays or trace buffer, and it may be tested (R431). -/
def State.sliceReady (s : State) (u : Nat) : Bool :=
  let x := s.unit u
  let busy := match powerIndex u with
    | some i => s.ck.cmds.any (fun y => s.cmdUses y i) || !s.reached ((s.power i).idleFrom + 10000)
    | none => false
  let claimed := unitKind u = 1 && (s.bayClaim (unitIndex u)).isSome
  x.due && x.testing.isNone && !x.queuedTest && !busy && !claimed && !(unitKind u = 3 && s.portUp (unitIndex u)) &&
    (x.clerk = .active || (x.clerk = .fenced && x.fromUnres))

/-- A slice begins: STRESS claimed, the unit woken, tests without a capsule (R431). -/
def execShoeingSlice (unit : U16) (tj : Int) (s : State) : Host.Outcome State Fault Refusal :=
  .next (let u := unit.toNat
    if hasState u && s.sliceReady u && decide (tj < 115) then
      let x := s.unit u
      let t := s.setUnit u { x with shoeing := true, testing := some (s.clk.time.toNat, 6), detIdx := 0xFFFFFFFF, detPattern := 0 }
      (if unitKind u = 1 then t.claim 3 (unitIndex u) 6 0xFF else t).powerForTest u
    else s)

/-- R432: a dispatch that needs a unit ends its slice, unless it is 24 hours overdue. -/
def State.sliceHolds (s : State) (u : Nat) : Bool :=
  let x := s.unit u
  x.shoeing && s.reached (x.dueSince + hour24)
def State.endSlice (s : State) (u : Nat) : State :=
  let x := s.unit u
  if x.shoeing then
    let t := s.setUnit u { x with shoeing := false, testing := none }
    if unitKind u = 1 then
      let t := t.unclaim 3 (unitIndex u) 6
      if x.clerk = .fenced then t.fencedBayOff (unitIndex u) else t
    else t
  else s

/-! ## ERRLOG_READ (R418, R222) -/

/-- Indices from FIRST upward. -/
def indicesFrom : (n : Nat) → U32 → List U32
  | 0, _ => []
  | n + 1, i => i :: indicesFrom n (nextIndex i)

def execErrlogRead (c : CmdNo) (s : State) : Host.Outcome State Fault Refusal :=
  .next (match s.begins c 0x0902 with
    | some x =>
      if x.p 16 1 != 0 then s
      else (s.queryResult x (x.addr 0) ((indicesFrom (x.p 12 4) (BitVec.ofNat 32 (x.p 8 4))).flatMap (fun i => match s.logged i with
        | some r => r.bytes
        | none => bytesLE 124 0 ++ bytesLE 4 0xFFFFFFFF))).doneCmd c
    | none => s.stopped c 0x0902)

def execErrlogReadHealth (c : CmdNo) (s : State) : Host.Outcome State Fault Refusal :=
  .next (match s.begins c 0x0902 with
    | some x =>
      if x.p 16 1 != 1 then s
      else (s.queryResult x (x.addr 0) ((maskBits (x.addr 24) 48).flatMap s.healthRecord)).doneCmd c
    | none => s.stopped c 0x0902)

/-! ## The Yard and its crossings (R30, R412) -/

/-- The statuses with which a command can fail after its receipt (R321). -/
def failStatuses : List Byte := [0x13, 0x20, 0x21, 0x22, 0x40, 0x41, 0x50]
/-- What DETAIL holds for one of them where the unit of the loss is known (Table 12-4). -/
def lossDetail (st : Byte) (unit : U16) : U16 := if st = 0x21 || st = 0x22 || st = 0x50 then unit else if st = 0x13 || st = 0x41 then 0xFFFF else 0

/-- R30: a crossing loses a transfer in flight: it returns undelivered, the unit that issued it writes a control record, and its command
fails. R30 names no status: which of those that a failed command can have is a free value (log 5). -/
def execCrossingLoss (c : CmdNo) (unit : U16) (crossing : Nat) (s : State) : Host.Outcome State Fault Refusal :=
  let r : ErrRec := { cls := 6, code := 1, unit := unit, syndrome := BitVec.ofNat 128 (pack [(124, 4, 0xD), (0, 124, crossing)]) }
  .next (match s.cmd c with
    | some x =>
      if x.runs then
        let (v, s) := (s.interrupt c).fresh 3 unit.toNat
        let st := failStatuses.getD (v % 7) 0x22
        let y := (s.cmd c).getD x
        let (i, t) := s.record { ErrRec.forCmd r x st with addr := BitVec.ofNat 48 (y.firstUnwritten.getD 0) }
        t.failCmd c st (lossDetail st unit) i
      else s.note r
    | none => s.note r)

/-- The ring of compute dies (R412): edge e joins its places e and e + 1. -/
def ring : List Nat := [0, 1, 3, 2]
def ringPlace (d : Nat) : Nat := if d = 3 then 2 else if d = 2 then 3 else d
/-- The edges from one place of the ring on, one way round. -/
def ringEdges (from_ n : Nat) : List Nat := (List.range n).map (fun i => (from_ + i) % 4)

/-- The edges that carry a transfer between two dies: the shorter way round the ring that has no withdrawn edge, either where they are
equal (R412, Table 01-4). -/
def State.yardRoute (s : State) (a b : Nat) : Option (List Nat) :=
  let n := (ringPlace b + 4 - ringPlace a) % 4
  let ways := [ringEdges (ringPlace a) n, (ringEdges (ringPlace b) (4 - n)).reverse]
  let open_ := ways.filter (fun w => w.all (fun e => !s.ab.edgesOut.contains e))
  if n = 0 then some [] else if n ≤ 2 then open_.head? else open_.getLast?

/-- Latency that the Yard adds between two dies, in ns: 40 for each edge crossed (Table 01-4). -/
def State.yardLatency (s : State) (a b : Nat) : Option Nat := (s.yardRoute a b).map (fun w => 40 * w.length)

/-- The Yard's clock (R27, Table 01-5), in MHz. -/
def yardMHz : Nat := 2000

def execYardEdgeWithdraw (e : Fin 4) (s : State) : Host.Outcome State Fault Refusal :=
  .next (if s.ab.edgesOut.contains e.val then s
    else (({ s with ab := { s.ab with edgesOut := s.ab.edgesOut ++ [e.val] } }).note { cls := 6, code := 7, syndrome := BitVec.ofNat 128 (pack [(124, 4, 0xF), (0, 124, e.val)]) }).remapMsg 3)

end Sys2Proof.Machine
end

