-- ==== Sys2Proof/Machine/Regions.lean ====
section
/-! DEFINITION. The regions of a command (R209, R212, R493): what it names directly, and what its descriptors, layer records,
extended block, chunk tables and index lists give, in parameter order. -/

namespace Sys2Proof.Machine

def reads (a n : Nat) : List Region := if n = 0 then [] else [{ lo := a, len := n, rd := true, wr := false }]
def writes (a n : Nat) : List Region := if n = 0 then [] else [{ lo := a, len := n, rd := false, wr := true }]
/-- A span that must lie in windows with R and W, and that is only written (R354). -/
def keeps (a n : Nat) : List Region := if n = 0 then [] else [{ lo := a, len := n, rd := true, wr := true, unread := true }]
def updates (a n : Nat) : List Region := if n = 0 then [] else [{ lo := a, len := n, rd := true, wr := true }]

/-- Parameter offsets of tensor descriptors (Tables 12-17, 12-19, 12-21). -/
def descOffs (op : Nat) : List Nat :=
  if op = 0x0301 || op = 0x0302 then [0, 8, 16]
  else if op = 0x0303 || op = 0x0305 then [0, 8, 16, 24]
  else if op = 0x0304 then [0, 8, 16, 24, 32, 40, 48, 56]
  else if op = 0x0306 then [0, 8, 16, 24, 32, 48]
  else if op = 0x0401 || op = 0x0402 then [0, 8]
  else if op = 0x0601 || op = 0x0605 then [8, 16]
  else if op = 0x0602 then [8]
  else []

/-- Those of outputs. -/
def outOffs (op : Nat) : List Nat :=
  if op = 0x0301 || op = 0x0302 then [16]
  else if op = 0x0303 || op = 0x0305 then [24]
  else if op = 0x0304 then [40, 48, 56]
  else if op = 0x0306 then [32, 48]
  else if op = 0x0401 || op = 0x0402 then [8]
  else if op = 0x0601 || op = 0x0605 then [16]
  else []

/-- The windows that check a command: its stall's, or for STALL_LOAD those it carries (R207, R209). -/
def State.windowsFor (s : State) (x : Cmd) : TMap Window := if x.op = 0x0101 then x.loadWindows else s.windowsOf x.stallNo

/-- The command can read contents at an address: covered by a window and not poisoned (R493). -/
def State.readable (s : State) (x : Cmd) (a n : Nat) : Bool := allowed (s.windowsFor x) true false a n && !s.poisoned a n

/-- Contents that a command reads to learn more regions, and those regions where the contents can be read. -/
def State.contents (s : State) (x : Cmd) (a n : Nat) (more : List Region) : List Region :=
  reads a n ++ (if s.readable x a n then more else [])

/-- The output of a product is read too where it accumulates, and records at a destination where they are carried or supplied. -/
def Cmd.outReads (x : Cmd) (d : Desc) : Bool := d.carry || (x.op = 0x0302 && bit (x.p 30 2) 0) || (x.op = 0x0402 && bit (x.p 16 2) 0)

/-- Regions of a descriptor named at a parameter offset, none for address 0 (R344); in INT32-accumulate mode a tensor is its data
alone (R88). -/
def State.descRegions (s : State) (x : Cmd) (off : Nat) : List Region :=
  let a := x.addr off
  if a = 0 then []
  else
    let d := s.desc a
    let out := (outOffs x.op).contains off
    s.contents x a 64 (if 0x0601 ≤ x.op then [] else
      (if x.op = 0x0301 && bit (x.p 26 2) 0 then [(d.daddr, d.dataBytes)] else s.tensorSpans x.stallNo d).flatMap (fun p => if out then (if x.outReads d then updates p.1 p.2 else writes p.1 p.2) else reads p.1 p.2)
        ++ (if d.ftag = 9 && d.saddr != 0 then reads d.saddr 4 else []))

/-- What is written of a side: its derived copies, and the BF16 copy before them where that is given (R193, R197). -/
def LayerEnt.sideWrites (e : LayerEnt) (base : Nat) (whole : Bool) : List Region :=
  ((if whole then [Copy.bf16] else []) ++ e.derived).flatMap (fun c => (e.copy 0 base c).parts.flatMap (fun p => writes p.1 p.2))

/-- The BF16 copy of a side, read. -/
def LayerEnt.sideReads (e : LayerEnt) (base : Nat) : List Region := reads base (2 * (e.lines.toNat * e.length.toNat))

/-- Regions of a side, which the version record gives. -/
def State.sideRegion (s : State) (x : Cmd) (e : LayerEnt) (rs : List Region) : List Region :=
  if e.vaddr = 0 then [] else s.contents x e.vaddr.toNat 32 rs

/-- Regions of the copy that WLAYER reads. -/
def State.weightRegions (s : State) (x : Cmd) : List Region :=
  match s.stall x.stallNo with
  | none => []
  | some st =>
    let go := fun (layer : Nat) (d : Desc) => match st.layer layer with
      | some e => if e.vaddr = 0 then [] else s.contents x e.vaddr.toNat 32 (d.parts.flatMap (fun p => reads p.1 p.2))
      | none => []
    if x.op = 0x0301 && bit (x.p 26 2) 3 then go (x.p 24 2) (s.forwardWeight st x (x.p 24 2))
    else if x.op = 0x0302 && bit (x.p 30 2) 1 then go (x.p 28 2) (s.backwardWeight st x)
    else []

/-- The entry of the stall's table whose layer a record belongs to. -/
def Stall.entryOf (st : Stall) (vaddr : Nat) : Option LayerEnt := st.layers.find? (fun e => vaddr != 0 && e.vaddr.toNat = vaddr)

/-- Regions of a publication: the version record, the side that is not current (R197). -/
def State.publishRegions (s : State) (x : Cmd) (r : LRec) : List Region :=
  match (s.stall x.stallNo).bind (fun st => st.entryOf r.vaddr) with
  | some e => s.sideRegion x e (e.sideWrites (s.sideBase r.vaddr (!(s.vers r.vaddr).cur)) true)
  | none => []

/-- Regions of a Miller command: the record, and what it names. Each Miller command checks that every region of the record lies in
the stall's windows, also those it does not access (R171); these are addresses read from memory, checked access by access (R209). -/
def State.millerRegions (s : State) (x : Cmd) : List Region :=
  let a := x.addr 0
  let r := s.layerRec a
  let mn := r.rows * r.cols
  let far := fun (rs : List Region) => rs.map (fun y => { y with each := true })
  let check := far (r.regions.map (fun p => { lo := p.lo, len := p.len, rd := false, wr := false }))
  updates a 128 ++ (if !s.readable x a 128 then [] else
    if x.op = 0x0501 then (if r.freeze then check else far (r.regions.map (fun p => { lo := p.lo, len := p.len, rd := true, wr := p.write })))
    else if x.op = 0x0502 then check ++ far (updates r.laddr (factorBytes r.kind r.rows) ++ updates r.raddr (factorBytes r.kind r.cols))
    else if x.op = 0x0503 then check ++
      (if x.addr 8 = 0 then [] else reads (x.addr 8) (ceilDiv mn 8)) ++
      [{ lo := x.addr 16, len := ceilDiv mn 8, rd := false, wr := x.addr 8 != 0 }]
    else check ++ far (reads r.saddr (2 * mn)))

/-- Regions of a group descriptor (R354). -/
def State.groupRegions (s : State) (x : Cmd) (a : Nat) : List Region :=
  s.contents x a 8 (reads (a + 8) (2 * min (s.readNat (a + 4) 4) 65536))

/-- Regions of a collective (R268 to R274); what its group descriptor, its tensor descriptors and its chunk table do not give, because
they cannot be read, is no region (R493). -/
def State.collRegions (s : State) (x : Cmd) : List Region :=
  let known := s.readable x (x.addr 0) 8 && s.readable x (x.addr 0) (8 + 2 * min (s.readNat (x.addr 0 + 4) 4) 65536)
  let me := (indexOf s.ab.fid (s.groupDesc (x.addr 0)).members).getD 0
  let n := if known then (s.groupDesc (x.addr 0)).members.length else 0
  let tabled := s.readable x x.chunkTable.1 (16 * x.chunkTable.2)
  let cs := if x.op = 0x0604 || x.op = 0x0605 || !known || !tabled then [] else s.chunks x.chunkTable.1 x.chunkTable.2
  let reads := fun (a n : Nat) => if s.readable x (x.addr 8) 64 || x.op = 0x0603 then reads a n else []
  let src := (s.desc (x.addr 8)).daddr
  let dst := (s.desc (x.addr 16)).daddr
  let hasDst := s.readable x (x.addr 16) 64
  let table := Sys2Proof.Machine.reads x.chunkTable.1 (16 * x.chunkTable.2)
  s.groupRegions x (x.addr 0) ++
    (if x.op = 0x0604 then []
    else if x.op = 0x0605 then s.descRegions x 8 ++ s.descRegions x 16 ++ reads src (x.p 24 8 * n) ++ (if hasDst then writes dst (x.p 24 8 * n) else [])
    else if x.op = 0x0603 then table ++ cs.flatMap (fun c => if c.owner = me then reads c.dest c.len else writes c.dest c.len)
    else
      s.descRegions x 8 ++ cs.flatMap (fun c => reads (src + 4 * c.off) (4 * c.len)) ++ table ++
        (if x.op = 0x0601 then s.descRegions x 16 ++ (if hasDst then cs else []).flatMap (fun c => updates (dst + x.gatherWidth * c.off) (x.gatherWidth * c.len)) else []) ++
        cs.flatMap (fun c => if c.owner = me && x.op = 0x0602 then writes c.dest (4 * c.len) else []))

/-- The least and greatest of a list of indices. -/
def indexSpan (is : List Nat) : Nat × Nat := (is.foldl min (is.getD 0 0), is.foldl max 0)

/-- Regions of a copy, of its local ends (R226, R493). -/
def State.copyRegions (s : State) (x : Cmd) : List Region :=
  let part := fun (ga n : Nat) (wr : Bool) => if !s.localGa ga then [] else if wr then writes (gaAddr ga) n else reads (gaAddr ga) n
  if x.op = 0x0201 then part (x.p 0 8) (x.p 16 8) false ++ (if x.p 24 1 = 0 then part (x.p 8 8) (x.p 16 8) true else [])
  else
    let n := x.p 24 4
    let e := x.p 28 4
    let sp := indexSpan ((List.range n).map (s.indexAt (x.addr 16)))
    let whole := fun (ga : Nat) (wr : Bool) => part (ga + sp.1 * e) ((sp.2 - sp.1 + 1) * e) wr
    s.contents x (x.addr 16) (4 * n) (if x.op = 0x0202 then whole (x.p 0 8) false ++ writes (x.addr 8) (n * e)
      else reads (x.addr 0) (n * e) ++ whole (x.p 8 8) true)

/-- Sides and park area of a stall (R340). -/
def State.parkRegions (s : State) (x : Cmd) (area : Nat) : List Region :=
  match s.stall x.stallNo with
  | some st => (parkPlaces area st.layers).flatMap (fun p => writes p.2 p.1.sideBytes ++ s.sideRegion x p.1 (reads (s.sideBase p.1.vaddr.toNat (s.vers p.1.vaddr.toNat).cur) p.1.sideBytes))
  | none => []

/-- Regions of a STALL_LOAD: the table, the numerics region, and the first versions it writes (R193, R343). -/
def State.loadRegions (s : State) (x : Cmd) : List Region :=
  let n := x.p 32 4
  s.contents x (x.addr 0) (32 * n) ((s.layerTable (x.addr 0) n).flatMap (fun e =>
    if e.vaddr = 0 || s.namedElsewhere x.stallNo e.vaddr.toNat then [] else let b := s.sideBase e.vaddr.toNat false; s.sideRegion x e (e.sideReads b ++ e.sideWrites b false))) ++
  keeps (x.addr 24) (regionBytes (x.p 36 2) n)

/-- Where a query result goes: written only for a host queue (R335). -/
def Cmd.local_ (s : State) (x : Cmd) : Bool := match x.origin with | .queue q => (s.queue q).loc != 3 | .attach _ => false | .round _ _ => true

/-- Regions of a CHECKPOINT or RESTORE: the image where it lies in local memory, and what its sections hold (R356). -/
def State.imageRegions (s : State) (x : Cmd) : List Region :=
  match s.stall x.stallNo with
  | none => []
  | some st =>
    let save := x.op = 0x0B03
    let sel := if save then x.p 16 2 else x.p 8 2
    let use := fun (a n : Nat) => if save then reads a n else updates a n
    let host := if save then x.p 18 1 = 1 else x.p 10 1 = 1
    let ga := x.p 0 8
    (if host || !s.localGa ga then []
      else if save then (let n := (s.image x.stallNo st sel).length; if x.p 8 8 < n then [] else writes (gaAddr ga) n)
      else s.contents x (gaAddr ga) 128 (reads (gaAddr ga + 128) (bits (s.readNat (gaAddr ga) 128) 639 576))) ++
    (if bit sel 1 then st.trained.flatMap (fun a => use a 128 ++ (if s.readable x a 128 then (s.layerRec a).masterSpans.flatMap (fun p => use p.1 p.2) else [])) else []) ++
    (if bit sel 2 && save then st.weighted.flatMap (fun y => s.sideRegion x y.2 (y.2.sideReads (s.currentBase y.2.vaddr.toNat (s.vers y.2.vaddr.toNat).cur))) else [])

/-- Regions of version sides that pins keep apart: those that WLAYER reads, and those that a publication or a RESTORE writes
once no micro-batch pins them (R194, R196, R197, R356). -/
def State.sidesOf (s : State) (x : Cmd) : List Region :=
  let a := x.addr 0
  match x.op with
  | 0x0501 => if bit (x.p 16 2) 2 && s.readable x a 128 && !(s.layerRec a).freeze then s.publishRegions x (s.layerRec a) else []
  | 0x0504 => if s.readable x a 128 then s.publishRegions x (s.layerRec a) else []
  | 0x0B04 => if bit (x.p 8 2) 2 then (match s.stall x.stallNo with | some st => st.weighted.flatMap (fun y => s.sideRegion x y.2 (y.2.sideWrites (s.currentBase y.2.vaddr.toNat false) true)) | none => []) else []
  | _ => s.weightRegions x

/-- The other regions of a command at the present contents of memory (R493). -/
def State.plainRegions (s : State) (x : Cmd) : List Region :=
  let dest := fun (a n : Nat) => if Cmd.local_ s x then writes a n else []
  let st := s.stall x.stallNo
  (match x.op with
  | 0x0001 => dest (x.addr 0) (128 + 4 * 130)
  | 0x0101 => s.loadRegions x
  | 0x0103 => if x.p 0 1 = 1 then s.parkRegions x (x.addr 8) else []
  | 0x0303 => reads (x.addr 32) 0 ++ (let d := s.desc (x.addr 0); if s.readable x (x.addr 0) 64 then writes (x.addr 32) (8 * d.lines) else [])
  | 0x0304 => (let d := s.desc (x.addr 0); if s.readable x (x.addr 0) 64 then reads (x.addr 64) (8 * d.lines) else [])
  | 0x0306 => writes (x.addr 40) 32
  | 0x0401 => (let d := s.desc (x.addr 0)
      if x.addr 16 = 0 || !s.readable x (x.addr 0) 64 then [] else writes (x.addr 16) d.rangeLen)
  | 0x0403 => if x.p 0 1 != 1 then [] else
      (if x.addr 16 = 0 then [] else s.groupRegions x (x.addr 16)) ++ (match st with | some st => keeps st.numaddr.toNat (regionBytes st.numcal.toNat st.layers.length) | none => [])
  | 0x0405 => writes (x.addr 8) (s.numericsStats x).length
  | 0x0704 => dest (x.addr 0) 640
  | 0x0802 => dest (x.addr 0) s.powerReport.length
  | 0x0901 => if x.p 0 2 = 0x6000 then [] else writes (x.addr 8) 128
  | 0x0902 => dest (x.addr 0) (if x.p 16 1 = 1 then (s.healthRecord 0).length * (maskBits (x.addr 24) 48).length else 128 * x.p 12 4)
  | 0x0A01 => reads (x.addr 8) (if x.p 0 1 = 0 then 32 else 130) ++ dest (x.addr 16) (if x.p 0 1 = 0 then 512 else 609)
  | 0x0A02 => dest (x.addr 8) (if x.p 16 4 < 4 + (s.certs (x.p 0 1)).length then 4 else 4 + (s.certs (x.p 0 1)).length)
  | 0x0A03 => reads (x.addr 0) (x.p 8 4)
  | 0x0B01 => reads (x.addr 8) (72 * x.p 16 2)
  | 0x0B03 => s.imageRegions x
  | 0x0B04 => s.imageRegions x
  | _ => []) ++
  (if 0x0201 ≤ x.op && x.op ≤ 0x0203 then s.copyRegions x
  else if 0x0501 ≤ x.op && x.op ≤ 0x0504 then s.millerRegions x
  else if 0x0601 ≤ x.op && x.op ≤ 0x0605 then s.collRegions x
  else (descOffs x.op).flatMap (s.descRegions x))

/-- The regions of a command at the present contents of memory (R493). -/
def State.regionsOf (s : State) (x : Cmd) : List Region := s.plainRegions x ++ s.sidesOf x

/-- The regions that are contents: what the command reads to learn its other regions, and tables that checks read (R493). -/
def State.contentsOf (s : State) (x : Cmd) : List (Nat × Nat) :=
  (descOffs x.op).filterMap (fun o => if x.addr o = 0 then none else some (x.addr o, 64)) ++
  (if 0x0501 ≤ x.op && x.op ≤ 0x0504 then [(x.addr 0, 128)]
  else if x.op = 0x0202 || x.op = 0x0203 then [(x.addr 16, 4 * x.p 24 4)]
  else if 0x0601 ≤ x.op && x.op ≤ 0x0605 then
    let n := min (s.readNat (x.addr 0 + 4) 4) 65536
    [(x.addr 0, 8 + 2 * n)] ++ (if x.op = 0x0604 || x.op = 0x0605 then [] else [(x.chunkTable.1, 16 * x.chunkTable.2)])
  else if x.op = 0x0101 then [(x.addr 0, 32 * x.p 32 4)]
  else [])

/-! ## Conflicts (R212, R493) -/

/-- Two regions overlap and one is written. -/
def Region.clash (a b : Region) : Bool := overlaps a.lo a.len b.lo b.len && (a.wr || b.wr)

/-- Some regions of two lists clash. -/
def clashes (xs ys : List Region) : Bool := xs.any (fun a => ys.any (Region.clash a))

/-- The extended block that a packet names: contents that the command reads, once, at its receipt (R317, R493). -/
def Cmd.extRegion (x : Cmd) : List Region := if x.hdr.ext then reads (fieldAt x.area 0 6) (fieldAt x.area 8 4) else []

/-- The regions of a command: as its last judgement found them once it is dispatched, else at the present contents (R493). -/
def State.plainOf (s : State) (x : Cmd) : List Region := if x.disp then x.rgs else x.extRegion ++ s.plainRegions x
def State.sidesNow (s : State) (x : Cmd) : List Region := if x.disp then x.sides else s.sidesOf x

/-- Two commands conflict. Sides that pins keep apart do not hold back their readers, or a publication that waits for pins
would hold back the commands that release them (R194, R197, R200); two commands that write a side do conflict on it. -/
def State.conflict (s : State) (x y : Cmd) : Bool :=
  let xs := s.plainOf x
  let ys := s.plainOf y
  let sx := s.sidesNow x
  let sy := s.sidesNow y
  clashes xs ys || clashes xs sy || clashes sx ys || clashes (sx.filter (·.wr)) (sy.filter (·.wr))

/-- An earlier-issued command that has not completed writes the contents of a command. -/
def State.contentsPending (s : State) (x : Cmd) : Bool :=
  let cs := s.contentsOf x
  s.ck.cmds.any (fun y => y.no < x.no && (s.plainOf y ++ s.sidesNow y).any (fun r => r.wr && cs.any (fun c => overlaps r.lo r.len c.1 c.2)))

end Sys2Proof.Machine
end

