-- ==== Sys2Proof/Machine/Cost.lean ====
section
/-! DEFINITION. What a command costs (R96, R118, R141, R201, R226), its energy estimate and grant (R370, R374), and what the
Tallyman charges to it. Counts that no rule gives are free (log 33). -/

namespace Sys2Proof.Machine

/-- Activity of a command: counts in the order of Table 13-2, clocks of its bays, and time on units of fixed frequency. -/
structure Work where
  counts : List (Nat × Nat) := []
  clocks : Nat := 0
  ns : Nat := 0
deriving DecidableEq, Repr

def Work.count (w : Work) (c : Nat) : Nat := (w.counts.filter (fun y => y.1 = c)).foldl (fun n y => n + y.2) 0

/-! ## Products (R89, R96, R118) -/

/-- Which blocks of each line take the 4-bit path: FP4, or INT4 with ZPOINT at most 15 (R68). -/
def Tensor.fourBit (t : Tensor) : List (List Bool) := t.blks.map (fun l => l.map (fun b => b.tag = 0 || (b.tag = 1 && b.z ≤ 15)))

/-- Block index `k` takes the 4-bit path in every line of a tile (R96). -/
def tileFour (ls : List (List Bool)) (u k : Nat) : Bool := ((ls.drop (128 * u)).take 128).all (fun l => l.getD k true)

/-- The tiles of a p × q output, row by row (R67). -/
def tilePlaces (p q : Nat) : List (Nat × Nat) := (List.range (ceilDiv p 128)).flatMap (fun u => (List.range (ceilDiv q 128)).map (fun v => (u, v)))

/-- The runs in which the tiles go to arrays, a tile whole to one array, in equal lengths. DESIGN CHOICE (log 33). -/
def tileRuns (ts : List α) (arrays : Nat) : List (List α) :=
  let n := ceilDiv ts.length (max 1 arrays)
  (List.range (max 1 arrays)).map (fun a => (ts.drop (a * n)).take n)

/-- The largest sum of clocks of a run. -/
def busiest (runs : List (List Nat)) : Nat := runs.foldl (fun m r => max m r.sum) 0

/-- Cell × block pairs by path, and the clocks of the busiest of `arrays` F-arrays (R96). -/
def fWork (x w : Tensor) (arrays : Nat) : Nat × Nat × Nat :=
  let fx := x.fourBit
  let fw := w.fourBit
  let nb := x.d.nb
  let four := (List.range nb).foldl (fun n k => n + (fx.filter (fun l => l.getD k false)).length * (fw.filter (fun l => l.getD k false)).length) 0
  let clocks := (tilePlaces fx.length fw.length).map (fun t => ((List.range nb).map (fun k => if tileFour fx t.1 k && tileFour fw t.2 k then 8 else 32)).sum)
  (four, fx.length * fw.length * nb - four, busiest (tileRuns clocks arrays))

/-- Tiles of an output. -/
def tilesOf (p q : Nat) : Nat := ceilDiv p 128 * ceilDiv q 128

/-- Clocks of one tile of a B-array product, and what is paid once (R118). -/
def bTile (k : Nat) (anyT anyWide : Bool) : Nat :=
  let ke := if anyT then 128 * ceilDiv k 128 else 32 * ceilDiv k 32
  if anyWide then ke / 2 else ke / 4
def bOnce (anyT accum : Bool) : Nat := 280 + (if anyT then 128 else 0) + (if accum then 128 else 0)

/-- Work of a B-array product of p × q outputs over k, on `bays` bays. -/
def bWork (p q k bays : Nat) (anyT anyWide accum : Bool) : Work :=
  let c := bTile k anyT anyWide
  { counts := [(3, p * q * c)], clocks := bOnce anyT accum + ceilDiv (tilesOf p q) (max 1 bays) * c }

/-- Clocks in which a bay computes the bound entries of `n` output lines of an operand that names no vector: its records at 16 in a
clock, a BF16 operand's data at 128 elements in a clock (R73, R106). -/
def vecClocks (d : Desc) (flags n : Nat) : Nat :=
  if d.ftag = 6 then ceilDiv (n * (if orientT flags then d.lines else d.inner)) 128
  else if orientT flags then ceilDiv (ceilDiv n 32 * d.lines) 16 else ceilDiv (n * d.nb) 16

/-- Clocks that the bound entries of both operands add to the busiest bay of a p × q output: each bay computes the lines that its own
tiles read (R73, R106). -/
def boundClocks (p q bays : Nat) (left right : Nat → Nat) : Nat :=
  let lines := fun (n : Nat) (us : List Nat) => (us.eraseDups.map (fun u => min 128 (n - 128 * u))).sum
  (tileRuns (tilePlaces p q) bays).foldl (fun m mine => max m (left (lines p (mine.map (·.1))) + right (lines q (mine.map (·.2))))) 0

/-- The bound entries of an operand that a product names no vector for: none to compute where it names one. -/
def needClocks (d : Desc) (flags : Nat) (named : Bool) : Nat → Nat := fun n => if named && d.baddr != 0 then 0 else vecClocks d flags n

/-- Rows and contraction of a B-array operand read with flags. -/
def rowsOf (d : Desc) (flags : Nat) : Nat := if orientT flags then d.inner else d.lines
def depthOf (d : Desc) (flags : Nat) : Nat := if orientT flags then d.lines else d.inner
def isWide (d : Desc) : Bool := d.ftag = 6

/-! ## Work of each command -/

/-- A pass of the Assayer over `n` elements of `l` lines, with `p` inner positions of a cross vector (Table 05-1). -/
def assayWork (n l p bays passes : Nat) : Work :=
  let b := max 1 bays
  { counts := [(6, n * passes)], clocks := passes * ceilDiv n (128 * b) + 64 + ceilDiv (ceilDiv l b) 64 + ceilDiv (if p = 0 then 0 else p) 64 }

/-- tri(s) of R201. -/
def tri (s : Nat) : Nat := let t := ceilDiv s 64; t * (t + 1) / 2

/-- Miller clocks and multiply-accumulates of an update, or of refreshing every block (R201); `its`: iterations of a refresh. -/
def millerWork (r : LRec) (refresh update : Bool) (its : Nat) : Work :=
  let m := r.rows
  let n := r.cols
  let bs := blocks1024 m
  let cs := blocks1024 n
  let cmat := bs.foldl (fun t b => t + tri b.2.2 * n + ceilDiv b.2.2 64 * ceilDiv n 64 * b.2.2) 0 + cs.foldl (fun t c => t + tri c.2.2 * m + ceilDiv m 64 * ceilDiv c.2.2 64 * c.2.2) 0
  let ref := (bs ++ cs).foldl (fun t b => let s := b.2.2; t + 2048 + its * (4 * ceilDiv s 64 * ceilDiv s 64 * s + 2 * ceilDiv (s * s) 256)) 0
  let mat := if r.kind = 1 then 0 else cmat
  let vec := (if r.kind = 1 then 12 else 8) * ceilDiv (m * n) 256
  let mem := ceilDiv (32 * m * n) 375
  let up := if update then max mat (max vec mem) else 0
  let re := if refresh && r.kind = 0 then ref else 0
  { counts := [(9, 4096 * ((if update then mat else 0) + re)), (10, 256 * (if update then vec else 0))], ns := (512 + up + re) * 10 / 16 }

/-- Bytes of a command's regions that lie in a tier. -/
def State.tierBytes (s : State) (x : Cmd) (t : Nat) : Nat :=
  (s.regionsOf x).foldl (fun n r => if tierOf r.lo = some t then n + r.len else n) 0

/-- The rotation and conversion of a narrow or rotated output. -/
def outWork (d : Desc) : List (Nat × Nat) :=
  (if d.rot then [(7, d.lines * ceilDiv d.len 128)] else []) ++ (if narrow d.ftag then [(6, d.lines * d.inner)] else [])

/-- The work of a command but for its memory accesses; descriptors are those read at dispatch. -/
def State.unitWork (s : State) (x : Cmd) : Work :=
  let bays := (maskBits x.bays.toNat 64).length
  let k := x.stallNo
  let fre := fun (c : Nat) => Config.free s.freeCtr 10 (128 * x.no + c)
  match s.stall k, x.op with
  | some st, 0x0301 =>
    let xd := s.stored k (x.desc 0)
    let wd := if bit (x.p 26 2) 3 then s.forwardWeight st x (x.p 24 2) else s.stored k (x.desc 8)
    let out := outWork (x.desc 16)
    if bit (x.p 26 2) 0 then
      let four := fun (r : Nat) => decide (bits r 11 8 = 1) && decide (bits r 19 12 ≤ 15)
      let r := if four (x.p 28 4) && four (x.p 32 4) then 4 else 1
      let c := ceilDiv xd.len r
      { counts := (2, xd.lines * wd.lines * c) :: out, clocks := 280 + ceilDiv (tilesOf xd.lines wd.lines) (max 1 (2 * bays)) * c }
    else if st.inFallback (x.p 24 2) || bit (x.p 26 2) 1 || st.num.inStorm then
      let sel := bit (x.p 26 2) 1
      let fx := if sel then x.p 36 2 else 0
      let fb := st.inFallback (x.p 24 2) || st.num.inStorm
      let selW := sel && !(fb && bit (x.p 26 2) 3)
      let fw := if selW then x.p 38 2 else 0
      let (p, q) := (rowsOf xd fx, rowsOf wd fw)
      let w := bWork p q (depthOf xd fx) bays (orientT fx || orientT fw) ((isWide xd || isWide wd) && !fb) false
      { w with counts := w.counts ++ out, clocks := w.clocks + boundClocks p q bays (needClocks xd fx (!sel || bvecFlag fx)) (needClocks wd fw (!selW || bvecFlag fw)) }
    else
      let (four, eight, clk) := fWork (s.tensor xd) (s.tensor wd) (2 * bays)
      { counts := [(0, four), (1, eight)] ++ out
        clocks := 280 + clk + boundClocks xd.lines wd.lines bays (needClocks xd 0 true) (needClocks wd 0 true) }
  | some st, 0x0302 =>
    let a := s.stored k (x.desc 0)
    let b := if bit (x.p 30 2) 1 then s.backwardWeight st x else s.stored k (x.desc 8)
    let fa := x.p 24 2
    let fb := x.p 26 2
    let (p, q) := (rowsOf a fa, rowsOf b fb)
    let w := bWork p q (depthOf a fa) bays (orientT fa || orientT fb) (isWide a || isWide b) (bit (x.p 30 2) 0)
    { w with counts := w.counts ++ outWork (x.desc 16), clocks := w.clocks + boundClocks p q bays (needClocks a fa (bvecFlag fa)) (needClocks b fb (bvecFlag fb)) }
  | _, 0x0303 =>
    let q := x.desc 0
    let kd := x.desc 8
    let v := x.desc 16
    let h := max 1 (x.p 44 2)
    let n := 2 * (q.lines * kd.lines * q.nb) / h + q.lines * v.lines * v.nb / h
    let scores := tilesOf (q.lines / h) (kd.lines / h)
    let tiles := List.replicate (2 * h * scores) (32 * q.nb) ++ List.replicate (h * tilesOf (q.lines / h) (v.lines / h)) (32 * v.nb)
    { counts := [(1, n), (5, fre 5)] ++ outWork (x.desc 24), clocks := 280 + busiest (tileRuns tiles (2 * bays)) }
  | _, 0x0304 => { counts := [(1, fre 1), (3, fre 3), (5, fre 5)], clocks := fre 100 }
  | _, 0x0305 => { counts := (5, fre 5) :: outWork (x.desc 24), clocks := ceilDiv (fre 5) (512 * max 1 bays) }
  | _, 0x0306 =>
    let a := x.desc 0
    let w := x.desc 8
    let y := bWork a.lines w.lines a.inner bays false true false
    { y with clocks := y.clocks + boundClocks a.lines w.lines bays (needClocks a 0 true) (needClocks w 0 true) }
  | _, 0x0401 => let d := x.desc 0; assayWork (d.lines * d.len) d.lines (if (x.desc 8).cross then d.len else 0) bays 1
  | _, 0x0402 => let d := x.desc 0; assayWork (d.lines * d.len) d.lines (if (x.desc 8).cross then d.len else 0) bays (if bit (x.p 16 2) 0 then 1 else 2)
  | _, 0x0501 => let r := s.layerRec (x.addr 0); millerWork r (bit (x.p 16 2) 1) true (fre 9 % (r.itermax + 1))
  | _, 0x0502 => let r := s.layerRec (x.addr 0); millerWork r true false (fre 9 % (r.itermax + 1))
  | _, op =>
    if isCopy op then let n := if op = 0x0201 then x.p 16 8 else x.p 24 4 * x.p 28 4; { clocks := ceilDiv n (256 * max 1 bays) }
    else if 0x0601 ≤ op && op ≤ 0x0605 then { counts := [(15, fre 15), (16, fre 16), (17, fre 17)], ns := fre 101 }
    else {}

/-- Sustained rates of the tiers in bytes per ns, at the normal refresh rate (Table 07-6). -/
def tierRate (t : Nat) : Nat := if t = 0 then 43500 else if t = 1 then 7680 else 4610

/-- The work of a command with its memory accesses; activation store and Yard bytes are free (log 33). -/
def State.workOf (s : State) (x : Cmd) : Work :=
  let w := s.unitWork x
  let mem := (List.range 3).map (fun t => s.tierBytes x t)
  let none_ := w.counts = [] && w.clocks = 0 && w.ns = 0 && mem.all (· = 0)
  if none_ then {}
  else
    { w with counts := w.counts ++ [(8, Config.free s.freeCtr 10 (128 * x.no + 8)), (14, Config.free s.freeCtr 10 (128 * x.no + 14))] ++ (List.range 3).map (fun t => (11 + t, mem.getD t 0))
             ns := (List.range 3).foldl (fun n t => max n (mem.getD t 0 / tierRate t)) w.ns }

/-! ## Pricing (R368, R374) -/

/-- The step of a bay when a grant lowers its adaptive island by `low` (R374). -/
def State.loweredStep (s : State) (b low : Nat) : Nat :=
  let y := s.bay b
  if y.fixed || low = 0 then y.target else min y.target (s.planOf (max low (s.loweredOn b)) 0)

/-- The step of the command's bays on a die when lowered by `low`; fixed islands are not lowered. -/
def State.stepOn (s : State) (bays : U64) (d low : Nat) : Nat :=
  ((dieBays d).filter (fun b => bays.toNat.testBit b)).foldl (fun k b =>
    max k (s.loweredStep b low)) 0

/-- Energy of the counts in fJ, each die's core rail at the voltage given; a die's part is its share of the bays (R368). -/
def price (bays : U64) (w : Work) (volt : Nat → Nat) (c : Nat) : Nat :=
  let n := w.count c
  if onCoreRail c then
    let nb := (maskBits bays.toNat 64).length
    (List.range 4).foldl (fun e d =>
      let here := ((dieBays d).filter (fun b => bays.toNat.testBit b)).length
      let v := volt d
      e + n * here * Config.coef c * v * v / (max 1 nb * 490000)) 0
  else n * Config.coef c

/-- The estimate with the command's bays lowered by `low`: by R359 each rail follows its command's step (R374). -/
def State.priceAt (s : State) (bays : U64) (w : Work) (low c : Nat) : Nat :=
  price bays w (fun d => ((Config.voltage d (s.stepOn bays d low) : Int) + (s.die d).vtrim).toNat) c

def State.energyAt (s : State) (bays : U64) (w : Work) (low : Nat) : Nat := (List.range 18).foldl (fun e c => e + s.priceAt bays w low c) 0

/-- Time in ns: the clocks at the slowest of the command's bays, or the memory's or another unit's time if longer. -/
def State.timeAt (s : State) (bays : U64) (w : Work) (low : Nat) : Nat :=
  let f := (maskBits bays.toNat 64).foldl (fun f b =>
    min f (stepMHz (s.loweredStep b low))) 2350
  max (ceilDiv (w.clocks * 1000) f) w.ns

/-- Power in mW: E / D. -/
def State.powerAt (s : State) (bays : U64) (w : Work) (low : Nat) : Nat :=
  let d := s.timeAt bays w low
  if d = 0 then 0 else s.energyAt bays w low / (d * 1000)

/-- Cap class with the largest share of E: 0 links, 1 memory, 2 compute (R374). -/
def State.classOf (s : State) (bays : U64) (w : Work) : Nat :=
  let e := fun k => (List.range 18).foldl (fun n c => if capClass c = k then n + s.priceAt bays w 0 c else n) 0
  if e 2 ≥ e 1 && e 2 ≥ e 0 then 2 else if e 1 ≥ e 0 then 1 else 0

/-! ## Grants (R374, R375) -/

/-- The power cap in mW. -/
def State.capMw (s : State) : Nat := s.tal.set.capw.toNat * 1000

/-- Withdraw boost, highest step first, until `p` fits (R365, R374). -/
def State.withdrawBoost (p : Nat) : (fuel : Nat) → State → State
  | 0, s => s
  | n + 1, s =>
    if s.reserved + p ≤ s.capMw then s
    else
      match (List.range 64).foldl (fun (m : Option Nat) b => match m with
          | none => if 0 < (s.bay b).boost then some b else none
          | some a => if (s.bay a).boost < (s.bay b).boost then some b else some a) none with
      | some b => State.withdrawBoost p n (s.boostTo b ((s.bay b).boost - 1) (s.bay b))
      | none => s

/-- What of a command's rate its class's cut leaves (Table 13-4), as a fraction: eighths of a Miller's issue, of a tier's beats, of
flit times. -/
def State.rateLeft (s : State) (x : Cmd) (cls : Nat) : Nat :=
  if cls = 2 then (match millerOf x with | some _ => 8 - s.tal.cutMiller | none => 8) else if cls = 1 then 8 - s.tal.cutM else 8 - s.tal.cutL

/-- The work a running command was granted for. -/
def Cmd.work (x : Cmd) : Work :=
  { counts := (List.range 18).map (fun c => (c, x.activity.getD c 0)), clocks := x.activity.getD 18 0, ns := x.activity.getD 19 0 }

/-- Reprice running commands at their bays' present steps and the rate that cuts leave them: what a cut frees. DEDUCED: R374 cuts a
class until the reserved power fits, so its running commands' reservations follow the cut (log 52). -/
def State.repriceAll (s : State) : State :=
  { s with ck := { s.ck with cmds := s.ck.cmds.map (fun x =>
      if x.runs && x.activity != [] then { x with reserved := s.powerAt x.bays x.work 0 * s.rateLeft x (s.classOf x.bays x.work) / 8 } else x) } }

/-- Cut one class toward its floor until `p` fits (R374, Table 13-4). -/
def State.cutFor (p k : Nat) : (fuel : Nat) → State → State
  | 0, s => s
  | n + 1, s =>
    if s.reserved + p ≤ s.capMw then s
    else if s.atFloor k then (if k = 2 then s.pinFmin 64 else s)
    else State.cutFor p k n (s.cutClass k).repriceAll

/-! ## Undoing cuts at a window boundary (R375) -/

/-- The commands that a grant or a cut holds below their islands' step, lowest-stepped first (R375). -/
def State.loweredCmds (s : State) : List Cmd :=
  (List.range 32).flatMap (fun l => s.ck.cmds.filter (fun x => x.runs && x.lowered = 32 - l))

/-- One unit of undoing that the power free now covers: of the highest-ranked class that is cut, and within compute the lowest-stepped
command first. -/
def State.undoOne (s : State) : Option State :=
  let fits := fun (t : State) => if t.repriceAll.reserved ≤ s.capMw then some t.repriceAll else none
  (List.range 3).findSome? (fun i =>
    let k := cutRank s.tal.set.order i
    let cmds := if k = 2 then s.loweredCmds else []
    match cmds.findSome? (fun x => fits (s.onCmd x.no (fun y => { y with lowered := y.lowered - 1 })).replan) with
    | some t => some t
    | none => if s.isCut k then fits (s.undoClass k) else none)

/-- Power free at a boundary goes to undoing cuts, highest-ranked class first, as far as it reaches. -/
def State.undoCuts : (fuel : Nat) → State → State
  | 0, s => s
  | n + 1, s => match s.undoOne with | some t => State.undoCuts n t | none => s

/-- A unit stopped at a bound stands there yet (R392): at FMIN, at FMAX, or every class at its floor. -/
def State.atFminYet (s : State) (u : Nat) : Bool := if u < 64 then (s.bay u).desired ≤ s.fminStep else s.topPlan - s.tal.cutC ≤ s.fminStep
def State.atFmaxYet (s : State) (u : Nat) : Bool := s.fmaxStep ≤ (s.bay u).desired
def State.allAtFloor (s : State) : Bool := (List.range 3).all s.atFloor

/-- What a 50 µs boundary settles before commands are granted again: accounts, the reserve, cuts, settings, the brake
(R372, R373, R375, R376). -/
def State.windowEnd (s : State) (w : WindowCounts) : State :=
  let (e, s) := s.account w
  let allow := s.tal.set.capw.toNat * 50
  let rest := (e - allow) - min (e - allow) (min 20000 s.tal.reserve.toNat)
  let reserve := if e < allow then min 8000000 (s.tal.reserve.toNat + (allow - e)) else s.tal.reserve.toNat - (e - allow - rest)
  let s := { s with tal := { s.tal with reserve := BitVec.ofNat 32 reserve, braked := false, lastWindow := s.clk.time.toNat / 50000
                                        tot := { s.tal.tot with brakes := if s.tal.braked then satAdd s.tal.tot.brakes 1 else s.tal.tot.brakes } } }
  let s := s.applySettings
  let s := if 0 < rest then s.cutLowest else State.undoCuts 400 s
  { s with tal := { s.tal with atFmin := Stops.close s.tal.atFmin s.atFminYet, atFmax := Stops.close s.tal.atFmax s.atFmaxYet
                               atOrder := Stops.close s.tal.atOrder (fun _ => s.allAtFloor) } }

/-- The least lowering of a compute command on adaptive islands that fits, not below FMIN. -/
def State.lowerFor (s : State) (bays : U64) (w : Work) : Option Nat :=
  (List.range 32).find? (fun low => s.reserved + s.powerAt bays w low ≤ s.capMw)

/-- Decide a grant (R374): the reservation in mW and the steps lowered, or a refusal. Under the brake no grant is made
(R372), nor while every class is at its floor (R376). A command that no rule prices needs no power. -/
def State.grant (s : State) (x : Cmd) : Option (Nat × Nat) × State :=
  let w := s.workOf x
  let p := s.powerAt x.bays w 0
  if p = 0 then (some (0, 0), s)
  else if s.tal.braked || s.allAtFloor then (none, s)
  else if s.reserved + p ≤ s.capMw then (some (p, 0), s)
  else
    let s := State.withdrawBoost p 400 s
    let cls := s.classOf x.bays w
    let ranked := [2, 1, 0].map (fun i => cutRank s.tal.set.order i)
    let below := ranked.takeWhile (· != cls)
    let s := below.foldl (fun s k => State.cutFor p k 40 s) s
    let p := s.powerAt x.bays w 0
    if s.reserved + p ≤ s.capMw then (some (p, 0), s)
    else if cls = 2 && (maskBits x.bays.toNat 64).any (fun b => !(s.bay b).fixed) then
      match s.lowerFor x.bays w with
      | some low => (some (s.powerAt x.bays w low, low), s)
      | none => (none, s.pinFmin (((maskBits x.bays.toNat 64).find? (fun b => !(s.bay b).fixed)).getD 64))
    else (none, s)

/-- The counts that a command's completion is charged for, with its clocks and time. -/
def Work.activity (w : Work) : List Nat := (List.range 18).map w.count ++ [w.clocks, w.ns]

/-- ENERGY of a completion in µJ: the command's class energies, on the rails as they stand when it completes, times K (R370). DEDUCED (log 33). -/
def State.cmdEnergy (s : State) (x : Cmd) : Nat :=
  if x.activity = [] then 0
  else
    let w : Work := { counts := (List.range 18).map (fun c => (c, x.activity.getD c 0)) }
    s.charge ((List.range 18).foldl (fun e c => e + price x.bays w (fun d => s.railOf (16 * d)) c) 0)

end Sys2Proof.Machine
end

