-- ==== Sys2Proof/Machine/Reply.lean ====
section
/-! DEFINITION. Where receipts and completions go (R320 to R323, R304, R330, R335, R350). -/

namespace Sys2Proof.Machine

/-- Write a reply at RPI of queue `q`; `loud`: it sets the pending bit of vector q (R323). -/
def State.replyRing (s : State) (q : Nat) (bs : List Byte) (loud : Bool) : State :=
  let qu := s.queue q
  let a := qu.rbase.toNat + 32 * (qu.rpi.toNat % qu.replies)
  let t := if qu.loc = 1 then s.storeHost a bs else s.partialStore a bs
  let t := t.setQueue q { qu with rpi := qu.rpi + 1 }
  if loud then t.signal q else t

/-- A reply of a queue: a peer queue has no ring, and its replies go to ATTFID as RESP flits (R330). -/
def State.replyTo (s : State) (q : Nat) (tag : BitVec 24) (bs : List Byte) (loud : Bool) : State :=
  if (s.queue q).loc = 3 then s.sendResp (s.queue q).attfid tag false (BitVec.ofNat 8 (fieldAt bs 0 1)) (BitVec.ofNat 16 (fieldAt bs 2 2)) bs
  else s.replyRing q bs loud

/-- The result of a query that the fabric asked for follows its completion with the same TAG (R330, R335). -/
def State.sendResult (s : State) (dst : Fid) (x : Cmd) : State :=
  if x.result = [] then s else s.sendResp dst x.tag false x.status x.detail x.result

/-- A receipt: refusals are loud (R321, R323). -/
def State.receipt (s : State) (origin : Origin) (tag : BitVec 24) (seq : U32) (tstart : U64) (status : Byte) (detail : U16) (idx : U32) : State :=
  let bs := replyBytes idx 0 s.clk.time tstart seq detail false false true status
  match origin with
  | .queue q => s.replyTo q tag bs (status != 0x01)
  | .attach f => s.sendResp f tag false status detail bs
  | .round _ _ => s

/-- Write the completion of a command to the place its origin gives it (R322, R330, R350, R304). -/
def State.completionTo (s : State) (x : Cmd) (energy : Nat) : State :=
  let bs := fun rs => replyBytes x.errIdx energy s.clk.time x.tstart x.hdr.seq x.detail x.nf rs false x.status
  match x.origin with
  | .queue q =>
    if x.lost then { s with hp := { s.hp with lostReply := satAdd s.hp.lostReply 1 } }
    else
      let t := s.replyTo q x.tag (bs false) (!x.hdr.quiet)
      if (s.queue q).loc = 3 then t.sendResult (s.queue q).attfid x else t
  | .attach f => (s.sendResp f x.tag false x.status x.detail (bs false)).sendResult f x
  | .round r _ =>
    match s.roundQueue r with
    | some q =>
      let qu := s.queue q
      if (qu.enable || qu.drain) && (qu.loc = 3 || qu.freeReplies > 0) then s.replyTo q x.tag (bs true) (!x.hdr.quiet)
      else { s with ck := { s.ck with dropped := satAdd s.ck.dropped 1 } }
    | none => { s with ck := { s.ck with dropped := satAdd s.ck.dropped 1 } }

end Sys2Proof.Machine
end

