-- ==== Sys2Proof/Machine/Manage.lean ====
section
/-! DEFINITION. The management controller's messages, module failure, watchdogs and the thermal trip (R383, R417, R419, R420,
R433, R434). -/

namespace Sys2Proof.Machine

/-! ## Messages (R419, Table 15-5) -/

def execErrorRecordReport (index : U32) (s : State) : Host.Outcome State Fault Refusal :=
  .next (if s.mg.unsent.contains index then
      match s.mg.kept.find? (fun r => r.index = index) with
      | some r => ({ s with mg := { s.mg with unsent := s.mg.unsent.filter (· != index) } }).mgmtSend 1 index r.bytes
      | none => { s with mg := { s.mg with unsent := s.mg.unsent.filter (· != index) } }
    else s)

/-- One REMAP message for each occurrence of a cause (R434). -/
def execRemap (reason : Nat) (s : State) : Host.Outcome State Fault Refusal :=
  .next (if s.mg.remapDue.contains reason then
      ({ s with mg := { s.mg with remapDue := s.mg.remapDue.erase reason } }).mgmtSend 3 (BitVec.ofNat 32 reason) []
    else s)

/-- Unacknowledged messages sent 100 ms ago or earlier go out again, oldest first; an ACK latched on this edge comes before (R31). -/
def execMgmtResend (s : State) : Host.Outcome State Fault Refusal :=
  .next (if s.mg.collector.isNone then s
    else
      let due := fun (m : MgmtMsg) => s.reached (m.sentAt + 100000000) && !s.latched (fun i => match i with | .ack q => q = m.mseq | _ => false)
      let t := { s with mg := { s.mg with unacked := s.mg.unacked.map (fun m => if due m then { m with sentAt := s.now } else m) } }
      (s.mg.unacked.filter due).foldl (fun t m => t.emit (s.datagram m)) t)

def execAck (mseq : U32) (s : State) : Host.Outcome State Fault Refusal :=
  .next (match s.mg.unacked.find? (fun m => m.mseq = mseq) with
    | some m => { s with mg := { s.mg with unacked := s.mg.unacked.filter (fun y => y.mseq != mseq), lastAcked := if m.kind = 1 then some m.ref else s.mg.lastAcked } }
    | none => s)

/-- The messages waiting go out once a collector is first known. -/
def execSetCollector (sender addr : BitVec 128) (s : State) : Host.Outcome State Fault Refusal :=
  .next (match s.mg.collector with
    | none => s.mg.unacked.foldl (fun t m => t.emit (s.datagram m)) { s with mg := { s.mg with collector := some addr } }
    | some a => if a = sender then { s with mg := { s.mg with collector := some addr } } else s)

/-- R336: a peer's ownership ends at the request of the management network. -/
def execReleaseOwner (s : State) : Host.Outcome State Fault Refusal :=
  .next (match s.ck.owner with | .peer _ => (s.own .nobody).setCause 4 | _ => s)

def execCapsuleReq (index : U32) (s : State) : Host.Outcome State Fault Refusal :=
  .next (match (s.capsules.filterMap (·.2)).find? (fun k => k.record = index) with
    | some k => s.mgmtSend 5 index k.data
    | none => s)

/-- Thresholds within their ranges are taken. -/
def execSetThresholds (throttle : U16) (bays : Byte) (s : State) : Host.Outcome State Fault Refusal :=
  .next (
    let mg := if throttle = 0 then s.mg else { s.mg with throttleLimit := throttle }
    let mg := if 1 ≤ bays.toNat && bays.toNat ≤ 64 then { mg with bayLimit := bays } else mg
    ({ s with mg := mg } : State).checkBayCount)

/-! ## Module failure (R433) -/

/-- The replies of a command go to a reply ring in host memory or Tier M, which a peer's queue has not (R330, R433). -/
def State.hasReplyRing (s : State) (x : Cmd) : Bool :=
  match x.origin with
  | .queue q => (s.queue q).loc != 3
  | .attach _ => false
  | .round r _ => match s.roundQueue r with | some q => (s.queue q).loc != 3 | none => true

/-- The management controller's acts on a failing edge. -/
def State.failModule (s : State) : State :=
  if s.boot.failed then s
  else
    let (i, t) := s.record { cls := 6, code := 6, unit := clerkCode, syndrome := BitVec.ofNat 128 (pack [(124, 4, 0xF)]) }
    let t := t.remapMsg 4
    let t := { t with boot := { t.boot with ready := false, failed := true } }
    let t := (t.ck.cmds.filter s.hasReplyRing).foldl (fun t x => t.completionTo { x with phase := .ended, status := 0x51, detail := 0, errIdx := i } 0) t
    let t := { t with ck := { t.ck with cmds := [] } }
    (List.range 64).foldl (fun t p => if (t.port p).nbr.state = .down then t else t.portDown p none) t

/-- Resets of the management controller within the last second (R420). -/
def State.recentResets (s : State) : List Nat := s.mg.resets.filter (fun t => !s.reached (t + 1000000000))

/-- The causes that the part itself latches are checked against the state; the others are what was found. -/
def execModuleFailure (cause : FailCause) (s : State) : Host.Outcome State Fault Refusal :=
  .next (match cause with
    | .thermalTrip => if s.brd.trip then s.failModule else s
    | .mgmtResets => if 3 ≤ s.recentResets.length then s.failModule else s
    | .clerkMemory => s.failModule
    | .yardStop0 => s.failModule
    | .clerkHeartbeat => s.failModule)

def execClerkWatchdog (missingNs : Nat) (s : State) : Host.Outcome State Fault Refusal :=
  .next (if 500000 ≤ missingNs then s.failModule else s)

/-- R420: the controller is reset and sends every record from its last acknowledged one onward. -/
def execMgmtWatchdog (missingNs : Nat) (s : State) : Host.Outcome State Fault Refusal :=
  .next (if missingNs < 100000 then s
    else
      let after : List ErrRec := match s.mg.lastAcked with
        | some a => match s.mg.kept.findIdx? (fun (r : ErrRec) => r.index = a) with | some k => s.mg.kept.drop (k + 1) | none => s.mg.kept
        | none => s.mg.kept
      let t := { s with mg := { s.mg with resets := s.recentResets ++ [s.now], unsent := after.map (fun (r : ErrRec) => r.index), unacked := s.mg.unacked.filter (fun (m : MgmtMsg) => m.kind != 1) } }
      t.note { cls := 6, code := 5, unit := mgmtCode, syndrome := BitVec.ofNat 128 (pack [(124, 4, 0xF), (0, 124, Config.free s.freeCtr 33 0)]) })

/-- Power leaves the compute dies and the Millers: their units and the dies report BO, their slots are masked, every port is DOWN, and the requests that wait
at the Ostlers are lost and counted in MASKDROP (R239, R383, R409). -/
def State.tripUnits (s : State) : State :=
  let t := s.aliveFalls (List.range 140)
  let t := (List.range 140).foldl (fun t u => t.setPower u { (t.power u).counted t.clk.ticks with state := .bo, entering := none, waking := false, onDemand := false, sequenced := false, lastchg := t.clk.time }) t
  let t := (List.range 64).foldl (fun t p => if (t.port p).nbr.state = .down then t else t.portDown p none) t
  { t with ostlers := t.ostlers.map (fun o =>
      let n := o.2.queue.foldl (fun n q => n + q.2.length) 0
      (o.1, { o.2 with queue := [], ctrs := { o.2.ctrs with maskdrop := satAdd o.2.ctrs.maskdrop n } })) }

/-- R383: a junction at 115 °C: the dies and Millers lose power, THERMTRIP_N is asserted, a power record is written. -/
def execThermalTrip (tj : Int) (s : State) : Host.Outcome State Fault Refusal :=
  .next (if decide (tj < 115) || s.brd.trip then s
    else
      let t := s.note { cls := 4, code := 3, unit := mgmtCode, syndrome := BitVec.ofNat 128 (pack [(120, 8, 3), (88, 32, (tj * 100).toNat)]) }
      let t := { t with tal := { t.tal with limits := t.tal.limits ++ [({ row := 3, acted := s.now, quiet := s.now } : Episode)], tot := { t.tal.tot with safety := satAdd t.tal.tot.safety 1 } } }
      ({ t.tripUnits with brd := { t.brd with trip := true, powered := false } } : State).emit .ibi)

end Sys2Proof.Machine
end

