-- ==== Sys2Proof/Machine/Real.lean ====
section
/-! DEFINITION. Enclosures of real results (exp, ln, square roots, the normal distribution) between two rationals about
2^-300 apart, relative. A result is decided where both ends round alike; where they do not, it is free (log 25). -/

namespace Sys2Proof.Machine

/-- A real number between two rationals. -/
structure Encl where
  lo : Rat
  hi : Rat
deriving DecidableEq, Repr

def Encl.pt (v : Rat) : Encl := ⟨v, v⟩
def Encl.add (a b : Encl) : Encl := ⟨a.lo + b.lo, a.hi + b.hi⟩
def Encl.neg (a : Encl) : Encl := ⟨-a.hi, -a.lo⟩
def Encl.sub (a b : Encl) : Encl := a.add b.neg
def Encl.mul (a b : Encl) : Encl :=
  let ps := [a.lo * b.hi, a.hi * b.lo, a.hi * b.hi]
  ⟨ratMin (a.lo * b.lo) ps, ratMax (a.lo * b.lo) ps⟩
/-- 1 / a for an enclosure that does not reach 0. -/
def Encl.inv (a : Encl) : Encl := ⟨1 / a.hi, 1 / a.lo⟩
def Encl.div (a b : Encl) : Encl := a.mul b.inv
def Encl.sum (l : List Encl) : Encl := l.foldl Encl.add (Encl.pt 0)
/-- Both ends rounded to FP32. -/
def Encl.rnd32 (a : Encl) : Encl := ⟨rnd fp32 a.lo, rnd fp32 a.hi⟩

/-- Working precision in bits. -/
def workBits : Nat := 320

/-- A positive rational cut to the working precision, downward or upward. -/
def cutTo (up : Bool) (v : Rat) : Rat :=
  if v ≤ 0 then v
  else
    let u := pow2 (floorLog2 v - (workBits : Int))
    let q := v / u
    let n := if up then (q.num.natAbs + q.den - 1) / q.den else q.num.natAbs / q.den
    mkRat n 1 * u
/-- A positive enclosure cut to the working precision. -/
def Encl.cut (a : Encl) : Encl := ⟨cutTo false a.lo, cutTo true a.hi⟩

/-- Σ r^k / k! over the first terms, from term `k` with value `t`. -/
def expSeries (r : Rat) : (n k : Nat) → (t acc : Rat) → Rat
  | 0, _, _, acc => acc
  | n + 1, k, t, acc => expSeries r n (k + 1) (t * r / mkRat (k + 1 : Nat) 1) (acc + t)

/-- Square an enclosure `n` times. -/
def squareTimes : Nat → Encl → Encl
  | 0, a => a
  | n + 1, a => squareTimes n (a.mul a).cut

/-- e^x for 0 < x ≤ 400: the series at x / 2^n ≤ 1/2, squared n times. -/
def expPos (x : Rat) : Encl :=
  let n := (floorLog2 x + 2).toNat
  let r := x * pow2 (-(n : Int))
  let s := expSeries r 80 0 1 0
  squareTimes n (Encl.cut ⟨s, s + pow2 (-380)⟩)

/-- e^x; outside ±400 the value at ±400, which rounds in every format as the exact one does. -/
def expE (x : Rat) : Encl :=
  if x = 0 then Encl.pt 1
  else if 0 < x then expPos (if 400 < x then 400 else x)
  else (expPos (if x < -400 then 400 else -x)).inv

/-- Σ z^(2j+1) / (2j+1), j below `n`, from power `p`. -/
def oddSeries (z2 : Rat) : (n j : Nat) → (p acc : Rat) → Rat
  | 0, _, _, acc => acc
  | n + 1, j, p, acc => oddSeries z2 n (j + 1) (p * z2) (acc + p / mkRat (2 * j + 1 : Nat) 1)

/-- 2 × artanh z for |z| ≤ 1/3. -/
def artanh2 (z : Rat) : Encl :=
  let s := 2 * oddSeries (z * z) 120 0 z 0
  let e := ratAbs z * pow2 (-378)
  ⟨s - e, s + e⟩

/-- ln a for a > 0: a = m × 2^k with m from 3/4 to 3/2. -/
def lnE (a : Rat) : Encl :=
  let k := floorLog2 a
  let m := a / pow2 k
  let (k, m) := if 3 / 2 < m then (k + 1, m / 2) else (k, m)
  let l := if m = 1 then Encl.pt 0 else artanh2 ((m - 1) / (m + 1))
  if k = 0 then l else ((artanh2 (1 / 3)).mul (Encl.pt (k : Rat))).add l

/-- √q for q ≥ 0: exact where q is a square. -/
def sqrtE (q : Rat) : Encl :=
  let n := q.num.natAbs
  let d := q.den
  if Nat.sqrt n * Nat.sqrt n = n && Nat.sqrt d * Nat.sqrt d = d then Encl.pt (mkRat (Nat.sqrt n) (Nat.sqrt d))
  else
    let k := floorLog2 q / 2 - (workBits : Int)
    let w := q / (pow2 k * pow2 k)
    let r := Nat.sqrt (w.num.natAbs / w.den)
    ⟨mkRat r 1 * pow2 k, mkRat (r + 1 : Nat) 1 * pow2 k⟩

/-- Alternating series of arctan(1/n), both partial sums. -/
def atanSeries (x2 : Rat) : (n j : Nat) → (p acc : Rat) → Rat
  | 0, _, _, acc => acc
  | n + 1, j, p, acc => atanSeries x2 n (j + 1) (-p * x2) (acc + p / mkRat (2 * j + 1 : Nat) 1)
def atanInv (n : Nat) : Encl :=
  let x : Rat := mkRat 1 n
  ⟨atanSeries (x * x) 80 0 x 0, atanSeries (x * x) 81 0 x 0⟩
/-- π by Machin's formula. -/
def piE : Encl := ((atanInv 5).mul (Encl.pt 16)).sub ((atanInv 239).mul (Encl.pt 4))

/-- Σ x^(2k+1) / (1·3···(2k+1)) for x > 0, terms cut outward. -/
def phiSeries (x2 : Rat) : (n k : Nat) → (t acc : Encl) → Encl
  | 0, _, _, acc => acc
  | n + 1, k, t, acc => phiSeries x2 n (k + 1) ((t.mul (Encl.pt (x2 / mkRat (2 * k + 3 : Nat) 1))).cut) (acc.add t)

/-- Density of the normal distribution. -/
def densE (x : Rat) : Encl := ((expE (-(x * x) / 2)).div (sqrtEncl (piE.mul (Encl.pt 2))))
where sqrtEncl (a : Encl) : Encl := ⟨(sqrtE a.lo).lo, (sqrtE a.hi).hi⟩

/-- Partial sum of Σ (−1)^k (2k − 1)!! / x^(2k), from term `k` with value `t`; `i2` is 1 / x². -/
def tailSeries (i2 : Rat) : (n k : Nat) → (t acc : Rat) → Rat
  | 0, _, _, acc => acc
  | n + 1, k, t, acc => tailSeries i2 n (k + 1) (-t * mkRat (2 * k + 1 : Nat) 1 * i2) (acc + t)

/-- Φ(−x) for x > 16: the density over x times the alternating series, of which an even and an odd partial sum lie on either side.
Above 28 the density itself bounds it from above, and every format rounds all that lies below alike. -/
def tailE (x : Rat) : Encl :=
  let d := (densE x).mul (Encl.pt (1 / x))
  if 28 < x then ⟨d.lo * pow2 (-2000), d.hi⟩
  else let i2 := 1 / (x * x); d.mul ⟨tailSeries i2 120 0 1 0, tailSeries i2 121 0 1 0⟩

/-- Φ(x), the normal distribution. -/
def normalE (x : Rat) : Encl :=
  if x = 0 then Encl.pt (1 / 2)
  else if x < -16 then tailE (-x)
  else if 16 < x then (Encl.pt 1).sub (tailE x)
  else
    let a := ratAbs x
    let s := phiSeries (a * a) 900 0 (Encl.pt a) (Encl.pt 0)
    let p := (densE a).mul ⟨s.lo, s.hi + pow2 (-400)⟩
    if x < 0 then (Encl.pt (1 / 2)).sub p else (Encl.pt (1 / 2)).add p

end Sys2Proof.Machine
end

