-- ==== Sys2Proof/Machine/Vector.lean ====
section
/-! DEFINITION. The vector unit: VECTOR_OP (R42, R134, R135, Table 12-18) and attention, ATTN_FWD and ATTN_BWD (R355). -/

namespace Sys2Proof.Machine

/-! ## Elementwise arithmetic with infinities (R42, R48) -/

def addX (a b : XVal) : XVal :=
  match a, b with
  | .nan _, _ => .nan false
  | _, .nan _ => .nan false
  | .inf m, .inf n => if m = n then .inf m else .nan false
  | .inf m, _ => .inf m
  | _, .inf n => .inf n
  | x, y => if x.rat + y.rat = 0 then .zero (x.isZero && y.isZero && x.neg && y.neg) else .fin (x.rat + y.rat)
def mulX (a b : XVal) : XVal :=
  match a, b with
  | .nan _, _ => .nan false
  | _, .nan _ => .nan false
  | .inf m, y => if y.isZero then .nan false else .inf (m != y.neg)
  | x, .inf n => if x.isZero then .nan false else .inf (x.neg != n)
  | x, y => if x.isZero || y.isZero then .zero (x.neg != y.neg) else .fin (x.rat * y.rat)

/-- The result of an operation before its rounding: an exact value, or a real one. -/
inductive VRes where
  | exact (v : XVal)
  | real (e : Encl)
deriving DecidableEq, Repr

/-- An end of a result as a value; an infinite or undefined result is a NaN with its sign (R42). -/
def VRes.end_ (hi : Bool) : VRes → XVal
  | .exact (.inf n) => .nan n
  | .exact v => v
  | .real e => .ofRat (if hi then e.hi else e.lo)
def VRes.times (f : Rat) : VRes → VRes
  | .exact v => .exact (v.times f)
  | .real e => .real ⟨e.lo * f, e.hi * f⟩
def undefinedRes : VRes := .exact (.nan false)
/-- A sum of values, formed exactly (R42, R48). -/
def sumRow : List XVal → XVal
  | [] => .zero false
  | v :: vs => match vs.foldl addX v with | .nan _ => .nan false | w => w
/-- Minus a value. -/
def minusX : XVal → XVal
  | .zero n => .zero (!n) | .fin v => .fin (-v) | .inf n => .inf (!n) | .nan n => .nan n

/-- What a function needs and gives: IN1, IN2, IN1 is one index per row, one result per row. -/
structure FuncInfo where
  in1 : Bool := false
  in2 : Bool := false
  index : Bool := false
  perRow : Bool := false
deriving DecidableEq, Repr

def funcInfo (f : Nat) : Option FuncInfo :=
  match f with
  | 0x01 => some { in1 := true } | 0x02 => some { in1 := true } | 0x03 => some { in1 := true, in2 := true } | 0x04 => some {}
  | 0x05 => some { in1 := true } | 0x06 => some { in1 := true, in2 := true } | 0x07 => some {} | 0x08 => some {} | 0x09 => some {}
  | 0x0A => some {} | 0x0B => some {} | 0x0C => some {} | 0x0D => some { in1 := true } | 0x0E => some { in1 := true, index := true, perRow := true }
  | 0x0F => some { perRow := true } | 0x11 => some { in1 := true, in2 := true } | 0x12 => some { in1 := true, in2 := true }
  | 0x13 => some { in2 := true } | 0x14 => some { in2 := true } | 0x15 => some { in1 := true, index := true } | _ => none


/-- 1 / (1 + e^-a). -/
def sigmoid (a : Rat) : Encl := ((Encl.pt 1).add (expE (-a))).inv

/-- A sum across a row, formed exactly and rounded once to FP32 (R135), with the flush or saturation of that rounding (R47, R50); a
sum that is not finite is a NaN (R42), which is counted where it is written. -/
def rowSum32 (l : List XVal) : XVal × Cnt :=
  let w := fp32.write (sumRow l) false false
  ((fp32.read w.1).1, { flushedOut := w.2.flushedOut, saturated := w.2.saturated })

/-- The reciprocal square root of a value `q`, with its infinite and its undefined result (R42). -/
inductive Root where
  | real (q : Rat) | infinite | undefined
deriving DecidableEq, Repr
def rootOf : XVal → Root
  | .fin q => if q < 0 then .undefined else .real q
  | .zero _ => .infinite
  | _ => .undefined
/-- A value times a root. -/
def VRes.root (v : XVal) : Root → VRes
  | .undefined => undefinedRes
  | .infinite => .exact (mulX v (.inf false))
  | .real q => match v with | .fin p => .real ((Encl.pt p).mul (sqrtE q).inv) | w => .exact w
/-- The sum of two results; two that are exact are added as values. -/
def VRes.add : VRes → VRes → VRes
  | .exact a, .exact b => .exact (addX a b)
  | .real e, .exact (.fin q) => .real (e.add (Encl.pt q))
  | .real e, .exact (.zero _) => .real e
  | .real _, .exact w => .exact (addX (.zero false) w)
  | .exact (.fin q), .real e => .real ((Encl.pt q).add e)
  | .exact (.zero _), .real e => .real e
  | .exact w, .real _ => .exact (addX w (.zero false))
  | .real a, .real b => .real (a.add b)
def VRes.neg : VRes → VRes
  | .exact v => .exact (minusX v) | .real e => .real e.neg
/-- u × r − w × r³ for a root r. For a real one r² is rational, so the difference is formed as r × (u − w × r²), and a zero one is
exact (R48). -/
def VRes.rootDiff (u w : XVal) : Root → VRes
  | .real q => VRes.root (addX u (minusX (w.times (1 / q)))) (.real q)
  | r => (VRes.root u r).add (VRes.root w r).neg
/-- A result times a value. -/
def VRes.mul (r : VRes) (v : XVal) : VRes :=
  match r, v with
  | .exact a, b => .exact (mulX a b)
  | .real e, .fin q => .real (e.mul (Encl.pt q))
  | .real e, .inf n => if e.lo ≤ 0 && 0 ≤ e.hi then undefinedRes else .exact (.inf (decide (e.hi < 0) != n))
  | .real _, .nan _ => undefinedRes
  | .real e, .zero n => .exact (.zero (decide (e.hi < 0) != n))

/-- The one-operand functions of a finite element (Table 12-18). -/
def unaryFn (f : Nat) (a : Rat) : VRes :=
  match f with
  | 0x08 => if a = 0 then .exact (.zero false) else .real ((Encl.pt a).mul (sigmoid a))
  | 0x09 => if a = 0 then .exact (.zero false) else .real ((Encl.pt a).mul (normalE a))
  | 0x0A => .real (expE a)
  | 0x0B => if a = 0 then .exact (.inf true) else if a < 0 then undefinedRes else if a = 1 then .exact (.zero false) else .real (lnE a)
  | _ => VRes.root (.fin 1) (rootOf (XVal.ofRat a))

/-- A row's mean, its sum rounded to FP32 (R135), and the events of that rounding. -/
def meanX (l : List XVal) : XVal × Cnt := let r := rowSum32 l; (r.1.times (mkRat 1 l.length), r.2)

/-- Mean and reciprocal deviation of LAYERNORM, each row sum rounded to FP32 (R135). -/
def layerStats (as : List XVal) (eps : XVal) : XVal × Root × Cnt :=
  let (mean, c1) := meanX as
  let ds := as.map (fun a => addX a (minusX mean))
  let (var, c2) := meanX (ds.map (fun d => mulX d d))
  (mean, rootOf (addX var eps), c1.add c2)

/-- The index that an operand row gives, if it is a position of the row. -/
def rowIndex (bs : List XVal) (n : Nat) : Option Nat :=
  match bs with
  | .fin v :: _ => if v.den = 1 && 0 ≤ v.num && v.num.toNat < n then some v.num.toNat else none
  | .zero _ :: _ => if 0 < n then some 0 else none
  | _ => none

/-- Functions of a whole row: `as`, `bs`, `cs` are the rows of IN0, IN1, IN2. An operand that is not finite makes a NaN of each result
it enters, with the sign of that result where it has one (R42). With the results, the events of the row sums' roundings (R47). -/
def rowFn (f : Nat) (as bs cs : List XVal) (imm0 : XVal) : List VRes × Cnt :=
  let at_ := fun (l : List XVal) (i : Nat) => l.getD i (.zero false)
  let idx := List.range as.length
  let finite := as.all XVal.finite
  let rats := as.map XVal.rat
  let top := ratMax (rats.getD 0 0) rats
  let exps := rats.map (fun a => expE (a - top))
  let tot := (Encl.sum exps).rnd32
  let squares := fun () => let (q, c) := meanX (as.map (fun a => mulX a a)); (rootOf (addX q imm0), c)
  match f with
  | 0x05 => let (r, c) := squares (); (idx.map (fun i => VRes.root (mulX (at_ as i) (at_ bs i)) r), c)
  | 0x06 =>
    let (m, r, c) := layerStats as imm0
    (idx.map (fun i => (VRes.root (mulX (addX (at_ as i) (minusX m)) (at_ bs i)) r).add (.exact (at_ cs i))), c)
  | 0x07 => (if finite then exps.map (fun e => .real (e.div tot)) else as.map (fun _ => undefinedRes), {})
  | 0x0E => (match (if finite then rowIndex bs as.length else none) with
    | some i => [.real ((⟨(lnE tot.lo).lo, (lnE tot.hi).hi⟩ : Encl).sub (Encl.pt (rats.getD i 0 - top)))]
    | none => [undefinedRes], {})
  | 0x0F => ([.exact (sumRow as)], {})
  | 0x11 =>
    let (r, c1) := squares ()
    let (dot, c2) := rowSum32 (idx.map (fun i => mulX (mulX (at_ cs i) (at_ bs i)) (at_ as i)))
    (idx.map (fun i => VRes.rootDiff (mulX (at_ cs i) (at_ bs i)) ((mulX (at_ as i) dot).times (mkRat 1 as.length)) r), c1.add c2)
  | 0x12 =>
    let (m, r, c1) := layerStats as imm0
    let d := fun (i : Nat) => addX (at_ as i) (minusX m)
    let g := idx.map (fun i => mulX (at_ cs i) (at_ bs i))
    let (gm, c2) := meanX g
    let (gx, c3) := meanX (idx.map (fun i => mulX (at_ g i) (d i)))
    (idx.map (fun i => VRes.rootDiff (addX (at_ g i) (minusX gm)) (mulX (d i) gx) r), (c1.add c2).add c3)
  | 0x15 => (match (if finite then rowIndex bs as.length else none) with
    | some i => idx.map (fun j => (VRes.real (((exps.getD j (Encl.pt 0)).div tot).sub (Encl.pt (if i = j then 1 else 0)))).mul imm0)
    | none => as.map (fun _ => undefinedRes), {})
  | _ => (as.map (fun _ => undefinedRes), {})

/-- A function per row. -/
def isRowFn (f : Nat) : Bool := (0x05 ≤ f && f ≤ 0x07) || f = 0x0E || f = 0x0F || f = 0x11 || f = 0x12 || f = 0x15

/-- An elementwise function (Table 12-18). SELECT passes a NaN with its own sign: the spec calls it no operation on the NaN, and
R42 has the sign of the exact result. DESIGN CHOICE (log 64). -/
def elemFn (f : Nat) (a b c imm0 imm1 : XVal) : VRes :=
  match f with
  | 0x01 => .exact (addX a b)
  | 0x02 => .exact (mulX a b)
  | 0x03 => .exact (addX (mulX a b) c)
  | 0x04 => .exact (addX (mulX a imm0) imm1)
  | 0x0D => match b with | .nan _ => undefinedRes | .zero _ => .exact imm0 | _ => .exact a
  | 0x13 =>
    if !a.finite then undefinedRes
    else let s := sigmoid a.rat; (VRes.real (s.add ((Encl.pt a.rat).mul (s.mul ((Encl.pt 1).sub s))))).mul c
  | 0x14 =>
    if !a.finite then undefinedRes
    else (VRes.real ((normalE a.rat).add ((Encl.pt a.rat).mul (densE a.rat)))).mul c
  | g => if !a.finite then undefinedRes
    else if a.isZero && (g = 0x08 || g = 0x09) then .exact (.zero a.neg) else unaryFn g a.rat

/-- VECTOR_OP on whole inputs: results by row, and the events of the roundings inside them. -/
def vectorOp (f : Nat) (a b c : List (List XVal)) (imm0 imm1 : XVal) : List (List VRes) × Cnt :=
  let rows := (List.range a.length).map (fun l =>
    let ra := a.getD l []
    let rb := b.getD l []
    let rc := c.getD l []
    if isRowFn f then rowFn f ra rb rc imm0
    else ((List.range ra.length).map (fun i => elemFn f (ra.getD i (.zero false)) (rb.getD i (.zero false)) (rc.getD i (.zero false)) imm0 imm1), {}))
  (rows.map (·.1), Cnt.sum (rows.map (·.2)))

/-- Values of one end of results. -/
def endsOf (hi : Bool) (rs : List (List VRes)) : List (List (XVal × Bool)) := rs.map (·.map (fun r => (r.end_ hi, false)))

/-- Produce real results: the lower ends, where they write what the upper ends write; else either, freely (log 25). -/
def State.produceReal (s : State) (x : Cmd) (d : Desc) (rs : List (List VRes)) : State :=
  let lo := endsOf false rs
  let hi := endsOf true rs
  let o := s.qoptOf x d
  let same := make d o (s.carried d) (fun _ => 0) lo [] = make d o (s.carried d) (fun _ => 0) hi []
  if same then s.produce x d lo [] (lo.map (·.map (·.1)))
  else
    let (v, t) := s.fresh 5 0
    let rows := if v % 2 = 0 then lo else hi
    t.produce x d rows [] (rows.map (·.map (·.1)))

/-- VECTOR_OP. It reads and writes every format that its descriptors declare, MW40 and narrow ones too, which Table 02-1 does not list
as read by the vector units: DESIGN CHOICE (log 64). -/
def execVectorOp (c : CmdNo) (s : State) : Host.Outcome State Fault Refusal :=
  .next (match s.reading c 0x0305 with
    | none => s.stopped c 0x0305
    | some x =>
      let f := x.p 32 2
      let info := (funcInfo f).getD {}
      let i0 := s.operand x.stallNo (x.desc 0)
      let i1 := s.operand x.stallNo (x.desc 8)
      let i2 := s.operand x.stallNo (x.desc 16)
      let vals := fun (use : Bool) (t : Tensor) => if use then t.elems.map (·.map (·.1)) else []
      let (rs, inner) := vectorOp f (vals true i0) (vals info.in1 i1) (vals info.in2 i2) (fp32.read (x.p 36 4)).1 (fp32.read (x.p 40 4)).1
      let ls := match s.stall x.stallNo with | some st => st.num.now.hdr.lsexp.toNat | none => 0
      let rs := if x.p 34 2 % 2 = 1 then rs.map (·.map (VRes.times (pow2 ls))) else rs
      let cnt := ((i0.cnt.add (if info.in1 then i1.cnt else {})).add (if info.in2 then i2.cnt else {})).add inner
      let t := s.produceReal x (x.desc 24) rs
      ((t.countOver cnt (maskBits x.bays.toNat 64)).flag c cnt false).doneCmd c)

/-! ## Attention (R355) -/

/-- Rows of a head: lines h × n to (h + 1) × n. -/
def headRows (l : List α) (heads h : Nat) : List α := let n := l.length / heads; (l.drop (h * n)).take n

/-- One query row: the E4M3 blocks of P, m, l, the output cells, and the events of the roundings of s, e, l and P (R47, R64). -/
structure AttnRow where
  bad : Bool
  m : XVal
  l : Rat
  cnt : Cnt
  cells : List Cell
  scores : List Cell
  ps : List Blk
deriving DecidableEq, Repr

/-- A real exp(x) between two roundings of it: where these differ, the one that x settles, the same in every pass (R355, log 25). -/
def settle (x : Rat) (e : Encl) : Rat := if e.lo = e.hi then e.lo else if Config.settleUp x.num x.den then e.hi else e.lo

/-- A query row from its keys. `given` is the m and l that STATS holds, which ATTN_BWD takes; without it both are formed. -/
def attnRow (q : FLine) (ks vs : List FLine) (nbq nbv lq lk lv row : Nat) (causal : Bool) (scale : XVal) (given : Option (XVal × XVal)) : AttnRow :=
  let kept := (List.range ks.length).filter (fun j => !causal || j ≤ row)
  let ss := kept.map (fun j => fCell (lq + row) (lk + j) nbq q (ks.getD j ([], none)))
  let bad := ss.any (fun s => !s.v.finite) || !scale.finite || (match given with | some g => !g.1.finite || !g.2.finite || g.2.isZero | none => false)
  let sw := ss.map (fun s => fp32.write (mulX scale s.v) false false)
  let sx := sw.map (fun w => (fp32.read w.1).1)
  let sv := sx.map XVal.rat
  let top := ratMax (sv.getD 0 0) sv
  let (m, mx) := match given with
    | some g => (g.1.rat, g.1)
    | none => (top, if top = 0 then .zero (sx.all (fun v => !v.isZero || v.neg)) else .fin top)
  let es := sv.map (fun v => settle (v - m) (expE (v - m)).rnd32)
  let l := match given with | some g => g.2.rat | none => rnd fp32 (ratSum es)
  let all := (List.range ks.length).map (fun j => match indexOf j kept with | some i => (XVal.ofRat (es.getD i 0), false) | none => (.zero false, false))
  let ps := (List.range (ceilDiv ks.length 32)).map (fun k =>
    let xs := lineBlock all k
    let (e, m', _) := firstPass 2 1 (xs.map (·.1))
    let o := plainBlock 2 e m' 0 0x40 false xs
    (blkOf 2 false false xs.length o.rec_ (fun j => o.codes.getD j 0) [], o.cnt))
  let rounded := Cnt.sum (sw.map (·.2))
  let cnt := if bad then { flushedOut := rounded.flushedOut, saturated := rounded.saturated }
    else (rounded.add { flushedOut := (es.filter (· = 0)).length }).add (Cnt.sum (ps.map (·.2)))
  let cells := (List.range vs.length).map (fun d =>
    let c := fCell row (lv + d) nbv (ps.map (·.1), some 1) (vs.getD d ([], none))
    match c.v with
    | .fin v => { c with v := XVal.ofRat (v / l) }
    | _ => c)
  ⟨bad, mx, l, cnt, if bad then vs.map (fun _ => poisonedCell) else cells, ss, ps.map (·.1)⟩

/-- All query rows of all heads, in line order; `given` by line. -/
def attnRows (q k v : Tensor) (heads : Nat) (causal : Bool) (scale : XVal) (given : Nat → Option (XVal × XVal)) : List AttnRow :=
  let qs := (fOperand q).1
  let ks := (fOperand k).1
  let vs := (fOperand v).1
  (List.range heads).flatMap (fun h =>
    let qh := headRows qs heads h
    let kh := headRows ks heads h
    let vh := headRows vs heads h
    (List.range qh.length).map (fun i =>
      attnRow (qh.getD i ([], none)) kh vh q.d.nb v.d.nb (h * qh.length) (h * kh.length) (h * vh.length) i causal scale (given (h * qh.length + i))))

/-- ATTN_FWD. R355 forms each score in both passes: an under-window event of a score counts once and marks no block of the output,
which holds no score. DEDUCED (log 48). -/
def execAttnFwd (c : CmdNo) (s : State) : Host.Outcome State Fault Refusal :=
  .next (match s.reading c 0x0303 with
    | none => s.stopped c 0x0303
    | some x =>
      let q := s.operand x.stallNo (x.desc 0)
      let k := s.operand x.stallNo (x.desc 8)
      let v := s.operand x.stallNo (x.desc 16)
      let od := x.desc 24
      let opts := x.p 46 2
      let scale := (fp32.read (x.p 40 4)).1
      let rs := attnRows q k v (x.p 44 2) (bit opts 0) scale (fun _ => none)
      let cells := rs.map (·.cells)
      let under := (rs.map (fun r => (r.scores.map (·.under)).sum)).sum
      let (ma, mk) := cellMarks (rs.map (·.scores))
      let (_, mv) := cellMarks cells
      let inputs := ((fOperand q).2.add (fOperand k).2).add (fOperand v).2
      let t := s.deliverProduct x od false cells ((inputs.add { underwin := under }).add (Cnt.sum (rs.map (·.cnt)))) (q.promoted || k.promoted || v.promoted) { ftag := 6 } { ftag := 6 }
      let t := ((t.markInexact x (x.desc 0) ma).markInexact x (x.desc 8) mk).markInexact x (x.desc 16) mv
      let stats := rs.flatMap (fun r => if r.bad then bytesLE 4 fp32.nan ++ bytesLE 4 fp32.nan
        else bytesLE 4 (fp32.write r.m false false).1 ++ bytesLE 4 (fp32.write (XVal.ofRat r.l) false false).1)
      let t := t.put c (x.addr 32) stats
      (if bit opts 1 then t.save x q.d.calLayer q.d else t).doneCmd c)

/-- The bytes that ATTN_BWD reads, as the arguments of what its softmax backward delivers. -/
def State.attnOperands (s : State) (x : Cmd) : List Nat :=
  let part := fun (off : Nat) => ((s.operand x.stallNo (x.desc off)).d.parts.flatMap (fun p => (s.readBytes p.1 p.2).map (·.toNat)))
  part 0 ++ part 8 ++ part 16 ++ part 24 ++ part 32 ++ [x.p 72 4, x.p 76 2, x.p 78 2] ++ ((s.readBytes (x.addr 64) (8 * (x.desc 0).lines)).map (·.toNat))

/-- A finite value that the softmax backward delivers. -/
def freeGrad (v : Nat) : XVal :=
  match (fp32.read (v % 4294967296)).1 with | .fin q => .fin q | .zero n => .zero n | _ => .zero false

/-- An element of an operand that exists only inside the bay: its own bound, no record. -/
def BElem.wide (v : XVal) : BElem := ⟨v, wideBound v, none⟩
/-- An operand line of such elements. -/
def BLine.ofVals (vs : List XVal) : BLine := (vs.map BElem.wide, intMax? (vs.filterMap wideBound))

/-- The lines of an operand that a head's products read, N or T: for T the contraction runs over the head's own stored lines, and a
computed entry covers those alone (R106, R114). -/
def headLines (t : Tensor) (heads h : Nat) (trans : Bool) : List BLine :=
  let ls := (bOperand t trans true).1
  if trans then
    let named := t.crossB.isSome
    ls.map (fun l => let es := headRows l.1 heads h; (es, if named then l.2 else intMax? (es.filterMap (·.h))))
  else headRows ls heads h

/-- A line without the positions that its partner leaves out. -/
def BLine.only (keep : Nat → Bool) (l : BLine) : BLine := (((List.range l.1.length).filter keep).filterMap (fun i => l.1[i]?), l.2)

/-- The gradients of a head by their cells: dQ by query row and dimension, dK by key and dimension, dV by dimension and key; and the
score gradient's cells. -/
structure HeadGrads where
  dp : List Cell
  dq : List (List Cell)
  dk : List (List Cell)
  dv : List (List Cell)
deriving DecidableEq, Repr

/-- The products of a head on the B-arrays (R124, R355): dP = dO·V over the dimensions; dQ = dS·K and dK = dS·Q over the keys and the
rows; dV = dO·(P / l) over the rows. dS and P / l are `free` values, but for what is known of them: a key that CAUSAL leaves out of a
row enters no product of it; dS of a row is NaN where its scores, its STATS, its dO or its O are not finite, and dS of a pair where
its dP is; P / l is a zero where P is, and else not negative (log 16). -/
def headGrads (q k v o g : Tensor) (heads h : Nat) (causal : Bool) (rows : List AttnRow) (free : Nat → Nat → Nat → XVal) : HeadGrads :=
  let kept := fun (i j : Nat) => !causal || decide (j ≤ i)
  let n := rows.length
  let gN := headLines g heads h false
  let gT := headLines g heads h true
  let vT := headLines v heads h true
  let kT := headLines k heads h true
  let qT := headLines q heads h true
  let oH := headRows o.elems heads h
  let keys := List.range (headRows k.elems heads h).length
  let is := List.range n
  let line := fun (l : List BLine) (i : Nat) => l.getD i ([], none)
  let cell := fun (a b : BLine) => bCell a b none 1
  let dp := is.map (fun i => keys.map (fun j => if kept i j then cell (line gN i) (line vT j) else { v := .zero false }))
  let spoiled := is.map (fun i => (rows[i]?).any (·.bad) || (line gN i).1.any (fun e => !e.v.finite) || (oH.getD i []).any (fun e => !e.1.finite))
  let ds := is.map (fun i => keys.map (fun j =>
    if !kept i j then .zero false
    else if spoiled.getD i false || !(((dp.getD i [])[j]?).map (fun c => c.v.finite)).getD true then .nan false
    else free 0 i j))
  let pl := is.map (fun i => keys.map (fun j => match rows[i]? with
    | some r => if r.bad then XVal.nan false else match r.ps[j / 32]? with
      | some b => if (b.elem (j % 32)).1.isZero || !kept i j then .zero false else match free 1 i j with | .fin w => .fin (ratAbs w) | _ => .zero false
      | none => .zero false
    | none => .zero false))
  let col := fun (rs : List (List XVal)) (j : Nat) => BLine.ofVals (rs.map (fun r => r.getD j (.zero false)))
  { dp := dp.flatten
    dq := is.map (fun i => kT.map (fun c => cell ((BLine.ofVals (ds.getD i [])).only (kept i)) (c.only (kept i))))
    dk := keys.map (fun j => qT.map (fun c => cell ((col ds j).only (kept · j)) (c.only (kept · j))))
    dv := gT.map (fun c => keys.map (fun j => cell (c.only (kept · j)) ((col pl j).only (kept · j)))) }

/-- ATTN_BWD: dQ, dK and dV. It forms s, e and P again, with m and l from STATS (R355), then its products on the B-arrays (R124). Its
operands' own bound vectors hold (R105, R107), and each operand's input events count once. It reads O for the softmax backward, in
which a NaN of a row enters the whole row. The values inside the softmax backward are free (log 16). -/
def execAttnBwd (c : CmdNo) (s : State) : Host.Outcome State Fault Refusal :=
  .next (match s.reading c 0x0304 with
    | none => s.stopped c 0x0304
    | some x =>
      let args := s.attnOperands x
      let q := s.operand x.stallNo (x.desc 0)
      let k := s.operand x.stallNo (x.desc 8)
      let v := s.operand x.stallNo (x.desc 16)
      let o := s.operand x.stallNo (x.desc 24)
      let g := s.operand x.stallNo (x.desc 32)
      let heads := x.p 76 2
      let causal := bit (x.p 78 2) 0
      let stat := fun (i : Nat) => (fp32.read (s.readNat (x.addr 64 + 4 * i) 4)).1
      let rs := attnRows q k v heads causal (fp32.read (x.p 72 4)).1 (fun i => some (stat (2 * i), stat (2 * i + 1)))
      let hs := (List.range heads).map (fun h => headGrads q k v o g heads h causal (headRows rs heads h)
        (fun p i j => freeGrad (Config.attnGrad args p (heads * (i * k.d.lines + j) + h))))
      let out := fun (t : State) (off : Nat) (cells : List (List Cell)) =>
        let rows := cells.map (fun r => r.map (fun c => (c.v, false)))
        t.produce x (x.desc off) rows (cells.map (fun r => r.map (fun c => decide (0 < c.under)))) (rows.map (·.map (·.1)))
      let t := out (out (out s 40 (hs.flatMap (·.dq))) 48 (hs.flatMap (·.dk))) 56 (hs.flatMap (·.dv))
      let cells := hs.flatMap (fun y => y.dp ++ y.dq.flatten ++ y.dk.flatten ++ y.dv.flatten) ++ rs.flatMap (·.scores)
      let inputs := ((((fOperand q).2.add (fOperand k).2).add (bOperand v true true).2).add (bOperand g false true).2).add o.cnt
      let cnt := (inputs.add (Cnt.sum (rs.map (·.cnt)))).add (cellCnt [cells])
      let t := (t.countOver cnt (maskBits x.bays.toNat 64)).flag c cnt false
      let left := fun (cs : List Cell) => (cellMarks [cs]).1
      let right := fun (cs : List Cell) => (cellMarks [cs]).2
      let scores := rs.flatMap (·.scores)
      let t := t.markInexact x (x.desc 0) (left scores ++ right (hs.flatMap (fun y => y.dk.flatten)))
      let t := t.markInexact x (x.desc 8) (right scores ++ right (hs.flatMap (fun y => y.dq.flatten)))
      let t := t.markInexact x (x.desc 16) (right (hs.flatMap (·.dp)))
      (t.markInexact x (x.desc 32) (left (hs.flatMap (fun y => y.dp ++ y.dv.flatten)))).doneCmd c)

end Sys2Proof.Machine
end

