-- ==== Sys2Proof/Machine/Check.lean ====
section
/-! DEFINITION. What refuses a packet in its receipt (R11, R316 to R319, R331, R334, R342, R346, R448, R491 and the last
columns of Tables 12-14 to 12-24), and what refuses a command at its dispatch (R344, R345, R491, R492). -/

namespace Sys2Proof.Machine

/-- A refusal: status, DETAIL, and the record written for it. -/
structure Check where
  status : Byte
  detail : U16 := 0
  rec_ : Option ErrRec := none
deriving DecidableEq, Repr

/-- REFUSED_STATE with an offset as DETAIL, if the condition holds. -/
def bad (c : Bool) (off : Nat) : Option Check := if c then some ⟨0x13, BitVec.ofNat 16 off, none⟩ else none
/-- REFUSED_VERSION. -/
def badVersion (c : Bool) : Option Check := if c then some ⟨0x10, 0x0301, none⟩ else none
/-- REFUSED_CONFLICT naming a holder code and instance. -/
def badClaim (holder inst : Nat) : Option Check := some ⟨0x11, BitVec.ofNat 16 (holder * 256 + inst % 256), none⟩
/-- The first check that refuses. -/
def firstOf (cs : List (Option Check)) : Option Check := cs.findSome? id

/-! ## Headers (R11, R316, R331) -/

/-- R316, R331 and R11 on a header. -/
def headerCheck (h : Header) : Option Check :=
  firstOf [bad (48 < h.plen.toNat) 0xFFFF, badVersion (h.vmajor != 3 || 1 < h.vminor.toNat),
    badVersion (h.vminor = 0 && (h.enwait || h.opcode = 0x0605)), badVersion (h.flags.getLsbD 0)]

/-- R319: the stall that a command names. A STALL_LOAD names a stall that does not exist; a RESTORE with CONTEXT may. -/
def State.stallCheck (s : State) (x : Cmd) (i : OpInfo) : Option Check :=
  let k := x.stallNo
  let loaded := (s.stall k).isSome
  bad (if k = 0xFF then i.ctx = .stall
    else if 64 ≤ k then true
    else if i.ctx = .service then true
    else if x.op = 0x0101 then loaded
    else if x.op = 0x0B04 then false
    else !loaded) 0xFFFF

/-- R448: opcodes the recovery image accepts. -/
def recoveryTakes (op : Nat) (stall : Nat) : Bool :=
  op = 0x0001 || (op = 0x0104 && stall = 0xFF) || op = 0x0606 || op = 0x0902 || op = 0x0A01 || op = 0x0A02 || op = 0x0A03 || op = 0x0A04

/-! ## Micro-batches and weights (R342) -/

def State.microCheck (s : State) (x : Cmd) : Option Check :=
  let live := ((s.stall x.stallNo).bind (fun st => st.batch x.hdr.mb)).isSome
  bad (if x.hdr.mb = 255 then x.hdr.mbstart || x.hdr.mbend
    else if x.hdr.mbstart then live || (s.stall x.stallNo).isNone
    else !live) 0xFFFF

/-- A WLAYER command: a live micro-batch, a layer of the table with weights and the copies the command may read. -/
def State.wlayerCheck (s : State) (x : Cmd) (layerOff : Nat) (bwdRot : Bool) : Option Check :=
  match s.stall x.stallNo with
  | none => none
  | some st =>
    let l := x.p layerOff 2
    firstOf [bad (x.hdr.mb = 255) 0xFFFF,
      bad (match st.layer l with
        | none => true
        | some e => e.vaddr = 0 || (x.op = 0x0301 && !e.ledger) || (bwdRot && (!e.rot || !e.ledger))) layerOff]

/-! ## Descriptors (R60, R66, R88, R93, R101, R122, R146, R160) -/

/-- The descriptor at an offset as it stands now: where it can be read, and no earlier-issued command is to write it. -/
def State.descNow (s : State) (x : Cmd) (off : Nat) : Option Desc :=
  if x.addr off = 0 || !s.readable x (x.addr off) 64 || s.contentsPending x then none else some (s.desc (x.addr off))

/-- A conversion of Table 02-5. -/
def converts (src dst : Nat) : Bool :=
  if src ≤ 5 then dst ≤ 7 else if src ≤ 7 then dst ≤ 8 else if src = 8 then 6 ≤ dst && dst ≤ 8 else src = 9 && (dst = 6 || dst = 7)

/-- An INT32-accumulate scale record that R88 refuses. -/
def badRecord (r : Nat) : Bool := bits r 31 24 = 0xFF || !(bits r 11 8 = 1 || bits r 11 8 = 4 || bits r 11 8 = 5)

/-- A B-array operand that R101 refuses; a saved tensor's form is BF16 or E4M3. A reserved FTAG is a matter of the dispatch (R491). -/
def badB (d : Desc) : Bool := !d.saved && d.ftag ≤ 9 && (!(d.ftag = 2 || d.ftag = 3 || d.ftag = 6) || d.oaddr != 0)
/-- An F-array operand that R122 refuses: only narrow tensors have blocks for it. -/
def badF (d : Desc) : Bool := d.saved || (5 < d.ftag && d.ftag ≤ 9)

/-- The refusal of a rotated pair (R93): DETAIL names no single field. -/
def rotCheck (a b : Desc) (single : Bool) : Option Check :=
  bad (if a.rot && b.rot then a.seed != b.seed || a.weightSide == b.weightSide else single && (a.rot || b.rot)) 0xFFFF

/-- Calibration entries that a command would create, against the room of the numerics region (R146). -/
def State.entryCheck (s : State) (x : Cmd) (get : Nat → Option Desc) : Option Check :=
  match s.stall x.stallNo with
  | none => none
  | some st =>
    let new := (descOffs x.op).filterMap (fun o => match get o with
      | some d => if d.calV && (st.num.entry d.calLayer d.calSlot).isNone then some (o, d.calLayer, d.calSlot) else none
      | none => none)
    let names := (new.map (·.2)).eraseDups
    bad (names != [] && st.numcal.toNat < st.num.now.cal.length + names.length) ((new.head?.map (·.1)).getD 0)

/-- R160: an operand with a non-empty headroom table, in a command that may not name one: a tensor whose descriptor names a gradient
entry that has one, or that lies where the layer's gradient was produced. DEDUCED (log 65). -/
def State.headroomCheck (s : State) (x : Cmd) (get : Nat → Option Desc) : Option Check :=
  match s.stall x.stallNo with
  | none => none
  | some st =>
    if x.op = 0x0601 || x.op = 0x0602 || x.op = 0x0501 then none
    else firstOf (((descOffs x.op).filter (fun o => !(outOffs x.op).contains o)).map (fun o => match get o with
      | some d =>
        let headed := fun (l : Nat) => match st.num.entry l 4 with | some e => e.headroom != [] | none => false
        bad ((d.calV && d.calSlot = 4 && headed d.calLayer) || (!d.saved && st.num.gradAt.any (fun g => g.2.1 = d.daddr && headed g.1))) o
      | none => none))

/-- An operand that the reads of a layer in fallback cannot bring to E4M3: Table 02-5 has no such conversion (R60, R123; log 48). -/
def noE4m3 (d : Desc) : Bool := !d.saved && d.ftag = 8

/-- The checks of MATMUL_FWD's descriptors. A side's forward copy is judged by its format: its own outlier list is one that no
descriptor of the command names (R101, R122, R193; log 48). -/
def State.fwdCheck (s : State) (x : Cmd) (get : Nat → Option Desc) : Option Check :=
  match s.stall x.stallNo with
  | none => none
  | some st =>
    let opts := x.p 26 2
    let wl := bit opts 3
    let w := if wl then (if (s.wlayerCheck x 24 false).isSome then none else some (s.forwardWeight st x (x.p 24 2))) else get 8
    let wOff := if wl then 24 else 8
    let xd := get 0
    let any := fun (d : Option Desc) (f : Desc → Bool) => match d with | some d => f d | none => false
    if bit opts 0 then
      let named := fun (d : Desc) => d.saddr != 0 || d.baddr != 0 || d.oaddr != 0 || d.rot
      firstOf [bad (any xd named) 0, bad (!wl && any w named) 8, bad (any (get 16) named) 16,
        bad (bit opts 1 || bit opts 4 || wl) 26]
    else
      let fb := st.inFallback (x.p 24 2)
      let wrong := if fb then noE4m3 else if bit opts 1 then badB else badF
      let own := fun (d : Desc) => if wl then { d with oaddr := 0 } else d
      firstOf [bad (any xd wrong) 0, bad (any w (fun d => wrong (own d))) wOff, bad (any xd (fun d => 16777216 < d.inner)) 0,
        (match xd, w with | some a, some b => rotCheck a b true | _, _ => none)]

/-- The right operand of a MATMUL_BWD: the one named, or the copy that WLAYER reads. -/
def State.bwdRight (s : State) (x : Cmd) (get : Nat → Option Desc) : Option Desc :=
  if !bit (x.p 30 2) 1 then get 8
  else if (s.wlayerCheck x 28 (rotFlag (x.p 26 2))).isSome then none
  else (s.stall x.stallNo).map (fun st => s.backwardWeight st x)

/-- The spill window has a place for every tensor of the sizes given, beside the live spills (R129). -/
def Stall.placesAll (st : Stall) : (tensors : List (Nat × Nat)) → Bool
  | [] => true
  | (lines, len) :: ts =>
    let size := (partsAt 0 2 lines len false true false).endAt
    match st.spillPlace size with
    | none => false
    | some a =>
      Stall.placesAll { st with live := st.live ++ [{ mb := 255, saved := [{ layer := 0, idx := 0, lines := lines, len := len, kept := false, bays := 0, data := [], addr := a }] }] } ts

/-- R129: the first MATMUL_FWD of a micro-batch, where the spill window cannot hold every tensor that the micro-batch spills. One without
SAVE shows no tensor that could be spilled, so the check falls to the first with SAVE, before any spill is written. DESIGN CHOICE
(log 24). -/
def State.spillCheck (s : State) (x : Cmd) (get : Nat → Option Desc) : Option Check :=
  match s.stall x.stallNo, get 0 with
  | some st, some d =>
    let m := st.batch x.hdr.mb
    let first := match m.bind (·.firstFwd) with | none => true | some n => n = x.no
    let lines := (s.stored x.stallNo d).lines
    let keep := (m.bind (·.keep)).getD (s.choosesKept st lines (s.activeMask st.bays))
    bad (first && x.hdr.mb != 255 && !st.placesAll ((st.savable.filter (fun t => !keep.contains t.1)).map (fun t => (lines, t.2)))) 26
  | _, _ => none

/-- The checks of a command's descriptors that its receipt makes where it can read them, and its dispatch otherwise. -/
def State.descCheck (s : State) (x : Cmd) (get : Nat → Option Desc) : Option Check :=
  let any := fun (o : Nat) (f : Desc → Bool) => match get o with | some d => f d | none => false
  firstOf [
    (match x.op with
    | 0x0301 => firstOf [s.fwdCheck x get, if bit (x.p 26 2) 2 then s.spillCheck x get else none]
    | 0x0302 => firstOf [bad (any 0 badB) 0, bad (!bit (x.p 30 2) 1 && any 8 badB) 8, bad (any 0 (fun d => 16777216 < depthOfAny d)) 0,
        (match get 0, s.bwdRight x get with | some a, some b => rotCheck a b false | _, _ => none),
        bad (bit (x.p 30 2) 0 && any 16 (fun d => d.ftag != 7)) 30]
    | 0x0303 => firstOf [bad (any 0 badF) 0, bad (any 8 badF) 8, bad (any 16 badF) 16, bad (any 0 (fun d => d.lines % max 1 (x.p 44 2) != 0)) 44]
    | 0x0304 => firstOf [bad (any 0 badBoth) 0, bad (any 8 badBoth) 8, bad (any 16 badB) 16, bad (any 32 badB) 32, bad (any 0 (fun d => d.lines % max 1 (x.p 76 2) != 0)) 76]
    | 0x0306 => firstOf [bad (any 0 badRef) 0, bad (any 8 badRef) 8]
    | 0x0402 => (match get 0, get 8 with
      | some a, some b => bad (!(a.saved && (s.savedNamed x.stallNo a).isNone) && !converts (s.stored x.stallNo a).ftag b.ftag) 0
      | _, _ => none)
    | _ => none),
    s.headroomCheck x get, s.entryCheck x get]
where
  /-- An operand of ATTN_BWD that the F-arrays read to form the scores again and the B-arrays in a gradient (R101, R122, R355). -/
  badBoth (d : Desc) : Bool := badF d || badB d
  /-- An operand of MATMUL_REF: BF16, with no outlier list (R97, R101). -/
  badRef (d : Desc) : Bool := d.ftag ≤ 9 && (d.ftag != 6 || d.oaddr != 0)
  /-- A contraction length of a B-array operand, at most the larger of its extents. -/
  depthOfAny (d : Desc) : Nat := max d.inner d.lines

/-! ## Per opcode: the last columns of the opcode tables -/

/-- Operand flags words (R115, R116). -/
def flagsCheck (x : Cmd) (off : Nat) : Option Check := bad (fmtFlag (x.p off 2) = 3 || (rotFlag (x.p off 2) && orientT (x.p off 2))) off

/-- DESCs that must be named (R344). -/
def needs (x : Cmd) (offs : List Nat) : Option Check := firstOf (offs.map (fun o => bad (x.addr o = 0) o))

/-- The origin is a host queue whose rings lie in host memory; a round step comes from no queue. -/
def State.fromHostRing (s : State) (x : Cmd) : Bool := match x.origin with | .queue q => (s.queue q).loc = 1 | .attach _ => false | .round _ _ => true

/-- The layer record at a command's parameter 0 can be read at the receipt, and poison in it (R171, R321). -/
def State.recordSeen (s : State) (x : Cmd) : Bool := allowed (s.windowsOf x.stallNo) true false (x.addr 0) 128 && !s.contentsPending x

/-- A poisoned line found by the receipt (R321): the memory record, and the stack's code. -/
def poisonCheck (x : Cmd) (a : Nat) : Check :=
  let k := (stackOf a).getD 0
  ⟨0x21, stackCode k, some (ErrRec.forCmd { cls := 2, code := 2, unit := stackCode k, pattern := 0xE000, addr := BitVec.ofNat 48 (a / 64 * 64), syndrome := BitVec.ofNat 128 (pack [(124, 4, 0xE), (116, 8, k)]) } x 0x21)⟩

/-- The record checks of a Miller command (R171, R182); a publication creates its weight entry in the stall that converts it (R146, R462). -/
def State.millerCheck (s : State) (x : Cmd) : Option Check :=
  let a := x.addr 0
  if !s.recordSeen x then none
  else if s.poisoned a 128 then some (poisonCheck x a)
  else
    let r := s.layerRec a
    let room := match s.pubStall r.vaddr with
      | some (_, st, l, e) => e.ledger && (st.num.entry l 1).isNone && decide (st.numcal.toNat ≤ st.num.now.cal.length)
      | none => false
    let lr := (fp32.read (x.p 12 4)).1
    match x.op with
    | 0x0501 => firstOf [bad (!r.ok a || r.ro.dirty) 0, bad (x.p 8 4 < r.ro.nextstep.toNat) 8, bad (!lr.finite || lr.rat < 0 || 1 < lr.rat) 12, bad (bit (x.p 16 2) 2 && room) 0]
    | 0x0502 => bad (!r.ok a || r.kind != 0) 0
    | 0x0503 =>
      let k := x.addr 16
      firstOf [bad (!r.ok a) 0, bad (!(inTier 2 k (ceilDiv (r.rows * r.cols) 8) && groupOf k = groupOf a && groupOf (k + ceilDiv (r.rows * r.cols) 8 - 1) = groupOf a)) 16]
    | _ => firstOf [bad (!r.ok a) 0, bad (match s.stall x.stallNo with | some st => (st.entryOf r.vaddr).isNone | none => true) 0, bad room 0]

/-- Membership of a group, and the chunk table's shape (R268, R354). -/
def State.groupCheck (s : State) (x : Cmd) (off : Nat) : Option Check :=
  let a := x.addr off
  if !s.readable x a 8 || s.contentsPending x then (if s.poisoned a 8 && allowed (s.windowsOf x.stallNo) true false a 8 then some (poisonCheck x a) else none)
  else
    let n := s.readNat (a + 4) 4
    if n = 0 || 65536 < n then bad true off
    else if !s.readable x a (8 + 2 * n) then none
    else bad (!s.ab.fidValid || (indexOf s.ab.fid (s.groupDesc a).members).isNone) off

def State.collCheckAt (s : State) (x : Cmd) : Option Check :=
  firstOf [s.groupCheck x 0,
    (match x.op with
    | 0x0601 => firstOf [needs x [8, 16], bad (1 < x.p 36 1) 36, bad (1 < x.p 37 1) 37]
    | 0x0602 => firstOf [needs x [8], bad (1 < x.p 28 1) 28,
        bad (s.readable x (x.addr 16) (16 * x.p 24 4) && !s.contentsPending x && (s.chunks (x.addr 16) (x.p 24 4)).any (fun c => c.off % 32 != 0 || c.len % 32 != 0)) 16]
    | 0x0605 => firstOf [needs x [8, 16], bad (x.p 24 8 % 64 != 0 || x.p 24 8 = 0) 24]
    | _ => none)]

/-- PEER_ATTACH (R330, R334, R336, R338, Table 12-21). `src`: the peer that sends it. -/
def State.peerCheck (s : State) (x : Cmd) : Option Check :=
  let src : Option Fid := match x.origin with | .queue q => if (s.queue q).loc = 3 then some (s.queue q).attfid else none | .attach f => some f | .round _ _ => none
  let act := x.p 0 1
  let q := x.p 1 1
  let free := fun (k : Nat) => k < 64 && !(s.queue k).enable && !(s.queue k).drain
  let conflict : Option Check := some ⟨0x11, s.ck.owner.conflict, none⟩
  let peerQ := q < 64 && (s.queue q).loc = 3 && (s.queue q).enable
  if 5 < act then bad true 0
  else match src with
    | none =>
      if act != 5 then bad true 0
      else if s.ck.owner != .host || (match x.origin with | .queue _ => false | _ => true) then conflict
      else bad (!peerQ) 1
    | some f =>
      match act with
      | 0 =>
        let n := 64 * 2 ^ x.p 2 1
        firstOf [bad (if q = 0xFF then !(List.range 64).any free else !free q) 1, bad (x.p 2 1 < 4 || 15 < x.p 2 1) 2,
          bad (x.addr 8 % 64 != 0 || !inTier 1 (x.addr 8) n ||
            !(s.ck.owner = .peer f || (validWindows s.ck.svc).any (fun w => w.2.peer && w.2.w && w.2.covers (x.addr 8) n))) 8]
      | 1 => bad (!peerQ || (s.queue q).attfid != f) 1
      | 2 => if s.ck.owner = .nobody then none else conflict
      | 5 => if s.ck.owner = .peer f then bad (!peerQ) 1 else conflict
      | _ => if s.ck.owner = .peer f then none else conflict

/-- ENERGY_BUDGET_SET (Tables 12-22, 13-3). -/
def State.budgetCheck (s : State) (x : Cmd) : Option Check :=
  let f := fun (o : Nat) => x.p o 2
  let badF := fun (o : Nat) => bad (f o < 800 || 2350 < f o || f o % 50 != 0) o
  let v := fun (o : Nat) => sgn 8 (x.p o 1)
  let held := (maskBits (x.p 8 8) 64).find? (fun b => match s.holder 3 b with | some c => c.holder = 6 | none => false)
  firstOf [bad (f 0 < 1000 || 4000 < f 0) 0, badF 2, badF 4, bad (f 4 < f 2) 2, bad (v 6 < -50 || 50 < v 6) 6, bad (v 7 < -50 || 50 < v 7) 7, bad (v 7 < v 6) 6,
    (match held with | some b => badClaim 6 b | none => none)]

/-- The states a unit of a kind may be asked for (Table 14-1). -/
def stateListed (u p : Nat) : Bool :=
  match unitKind u with
  | 1 => p ≤ 2 | 2 => p ≤ 2 | 3 => p = 0 || p = 2 | 4 => p = 0 || p = 3 || p = 4 | 6 => p = 0 || p = 5 | _ => false

/-- FARRIER_RUN (R346, R430). -/
def State.farrierCheck (s : State) (x : Cmd) : Option Check :=
  let u := x.p 0 2
  let t := s.runTests x
  let b := unitIndex u
  let claim := fun (res : Nat) => match s.holder res b with | some c => badClaim c.holder.toNat b | none => none
  if !unitOk u then bad true 0
  else if u = 0x6000 then none
  else firstOf [bad (!hasState u) 0,
    bad (bit (x.p 2 1) 0 && !(List.range 64).any (fun i => match s.capsule i with | some k => k.record.toNat = x.p 4 4 | none => false)) 4,
    (if unitKind u = 1 && bit t 2 then claim 3 else none), (if unitKind u = 1 && bit t 3 then claim 2 else none)]

/-- A step of a round program that ROUND_LOAD refuses (R347, R465). -/
def stepBad (n : Nat) (packet : List Byte) (ctl : Nat) : Bool :=
  let h := Header.ofBytes packet
  let next := bits ctl 63 48
  let fail := bits ctl 47 32
  let patch := bits ctl 23 16
  (headerCheck h).isSome || (next != 0xFFFF && n ≤ next) || (fail != 0xFFFF && n ≤ fail) || (patch != 0xFF && patch % 4 != 0) || bits ctl 13 0 != 0 ||
    (h.opcode = 0x0302 && !h.ext && bit (fieldAt (paramsOf packet h.plen.toNat) 30 2) 0 && (bits ctl 31 24 != 0 || bit ctl 14))

/-- The classes with the number of their codes that Table 15-3 lists; class 0x09's is not given. -/
def recordCodes : List (Nat × Nat) := [(1, 7), (2, 6), (3, 3), (4, 3), (5, 2), (6, 7), (7, 1)]

/-- The record that names a step of a round program (Table 12-4): Table 15-3 gives it no class, code or place (log 34): one of those it
lists (R12). -/
def State.stepRecord (s : State) (x : Cmd) (i : Nat) : ErrRec :=
  let k := recordCodes.getD (Config.free s.freeCtr 11 0 % 7) (1, 1)
  ErrRec.forCmd { cls := BitVec.ofNat 8 k.1, code := BitVec.ofNat 8 (1 + Config.free s.freeCtr 11 1 % k.2), unit := clerkCode, syndrome := BitVec.ofNat 128 i } x 0x13

def State.roundLoadCheck (s : State) (x : Cmd) : Option Check :=
  let r := x.p 0 1
  let n := x.p 16 2
  let a := x.addr 8
  let steps := (List.range n).map (fun i => (s.readBytes (a + 72 * i) 64, s.readNat (a + 72 * i + 64) 8))
  let seen := 1 ≤ n && n ≤ 1024 && allowed (s.windowsOf x.stallNo) true false a (72 * n)
  firstOf [bad (7 < r || s.roundRunning r) 0, bad (n = 0 || 1024 < n) 16,
    (if seen && s.poisoned a (72 * n) then some (poisonCheck x (((lowest (s.poisonIn a (72 * n))).getD 0) * 64))
    else if seen then
      match steps.findIdx? (fun st => stepBad n st.1 st.2) with
      | some i => some ⟨0x13, 0xFFFE, some (s.stepRecord x i)⟩
      | none => none
    else none),
    (if bit (x.p 18 2) 0 then (match s.holder 1 0xFF with
      | some c => if c.holder = 2 && c.by_.toNat = r then none else badClaim c.holder.toNat (if c.holder = 2 then c.by_.toNat else 0xFF)
      | none => none) else none)]

/-- A SET_BOUNDS or SET_FLAGS that would create an entry in a full numerics region (R145, R146). -/
def State.entryFull (s : State) (x : Cmd) : Option Check :=
  bad ((x.p 0 1 = 3 || x.p 0 1 = 5) && (match s.stall x.stallNo with
    | some st => x.p 4 1 ≤ 7 && (st.num.entry (x.p 2 2) (x.p 4 1)).isNone && st.numcal.toNat ≤ st.num.now.cal.length
    | none => false)) 4

/-- NUMERICS_MODE (R145, R146, R150, Table 12-19). -/
def State.modeCheck (s : State) (x : Cmd) : Option Check :=
  let act := x.p 0 1
  let slot := x.p 4 1
  let cmin := x.p 6 2
  let cmax := x.p 8 2
  let out := fun (v : Nat) => v < 0x4000 || 0x8000 < v
  let set := act = 3 || act = 5
  firstOf [bad (act = 0 || 5 < act) 0, bad (act = 2 && 3 < x.p 1 1) 1, bad (set && 8 ≤ slot && slot ≤ 0xFD) 4, s.entryFull x,
    bad (act = 3 && (out cmin || cmax < cmin)) 6, bad (act = 3 && out cmax) 8, bad (act = 3 && x.p 10 2 = 0) 10,
    (if act = 1 && x.addr 16 != 0 then s.groupCheck x 16 else none)]

/-- LOSS_SCALE_SET (R155): against the header with the new values. -/
def State.lossCheck (s : State) (x : Cmd) : Option Check :=
  match s.stall x.stallNo with
  | none => none
  | some st =>
    let h := setLoss st.num.now.hdr x.params
    firstOf [bad (h.lsexp.toNat < h.lsmin.toNat || h.lsmax.toNat < h.lsexp.toNat) 1, bad (h.lsmax.toNat < h.lsmin.toNat) 2, bad (48 < h.lsmax.toNat) 3,
      bad (h.cleanlim = 0) 4]

/-- STALL_LOAD (Table 12-14, R146, R208). -/
def State.loadCheck (s : State) (x : Cmd) : Option Check :=
  let n := x.p 32 4
  let nwin := x.p 42 1
  let ws := (List.range (min 16 nwin)).map (fun k => (k, Window.ofNat (x.p (64 + 16 * k) 16)))
  let shape := firstOf [bad (!(maskBits (x.p 8 8) 64).any s.bayActive) 8, bad (n = 0 || 65536 < n) 32, bad (352 < x.p 38 2) 38, bad (16 < nwin) 42,
    firstOf (ws.map (fun w => bad (!windowOk ((ws.filter (fun v => v.1 < w.1)).map (·.2)) w.2) (64 + 16 * w.1)))]
  match shape with
  | some c => some c
  | none =>
    if allowed (x.loadWindows) true false (x.addr 0) (32 * n) && !s.poisoned (x.addr 0) (32 * n) && !s.contentsPending x then
      bad (x.p 36 2 < ((s.layerTable (x.addr 0) n).filter (fun e => e.ledger && e.vaddr != 0 && !s.namedElsewhere x.stallNo e.vaddr.toNat)).length) 36
    else none

/-- The further receipt refusals of an opcode. -/
def State.opCheck (s : State) (x : Cmd) : Option Check :=
  let st := s.stall x.stallNo
  match x.op with
  | 0x0101 => s.loadCheck x
  | 0x0102 => bad (match st with | some st => x.p 0 8 &&& st.bays.toNat != x.p 0 8 | none => false) 0
  | 0x0103 => firstOf [bad (1 < x.p 0 1) 0, bad (x.p 0 1 = 1 && (match st with
        | some st => st.parked.isSome || st.layers.any (fun e => e.vaddr != 0 && s.namedElsewhere x.stallNo e.vaddr.toNat)
        | none => false)) 0,
      bad (x.p 0 1 = 1 && !(tierOf (x.addr 8) = some 1 && allowed (s.windowsOf x.stallNo) false true (x.addr 8) 1)) 8]
  | 0x0104 => firstOf [bad (15 < x.p 0 1) 0, bad (!windowOk (((s.windowsOf x.stallNo).filter (fun w => w.1 != x.p 0 1)).map (·.2)) (Window.ofNat (x.p 16 16))) 16]
  | 0x0201 => firstOf [bad (x.p 0 8 % 64 != 0) 0, bad (x.p 8 8 % 64 != 0) 8, bad (x.p 16 8 = 0 || x.p 16 8 % 64 != 0) 16, bad (1 < x.p 24 1) 24,
      bad (x.p 24 1 = 0 && !s.localGa (x.p 0 8) && !s.localGa (x.p 8 8)) 0, bad (x.p 24 1 = 1 && !s.fromHostRing x) 24]
  | 0x0202 => copyCheck x
  | 0x0203 => copyCheck x
  | 0x0301 =>
    let o := x.p 26 2
    firstOf [needs x (if bit o 3 then [0, 16] else [0, 8, 16]), bad (bit o 3 && x.addr 8 != 0) 8, (if bit o 3 then s.wlayerCheck x 24 false else none),
      bad (bit o 0 && badRecord (x.p 28 4)) 28, bad (bit o 0 && badRecord (x.p 32 4)) 32, (if bit o 1 then firstOf [flagsCheck x 36, flagsCheck x 38] else none)]
  | 0x0302 => firstOf [needs x (if bit (x.p 30 2) 1 then [0, 16] else [0, 8, 16]), flagsCheck x 24, flagsCheck x 26,
      (if bit (x.p 30 2) 1 then s.wlayerCheck x 28 (rotFlag (x.p 26 2)) else none)]
  | 0x0303 => firstOf [needs x [0, 8, 16, 24], bad (x.p 44 2 = 0) 44]
  | 0x0304 => firstOf [needs x [0, 8, 16, 24, 32, 40, 48, 56], bad (x.p 76 2 = 0) 76]
  | 0x0305 =>
    match funcInfo (x.p 32 2) with
    | some i => firstOf [needs x ([0] ++ (if i.in1 then [8] else []) ++ (if i.in2 then [16] else []) ++ [24])]
    | none => bad true 32
  | 0x0306 => firstOf [needs x [0, 8, 16, 24, 32],
      ((maskBits (s.bayMaskOf x).toNat 64).findSome? (fun b => (s.holder 2 b).map (fun c => (b, c.holder.toNat)))).bind (fun y => badClaim y.2 y.1)]
  | 0x0401 => needs x [0, 8]
  | 0x0402 => needs x [0, 8]
  | 0x0403 => s.modeCheck x
  | 0x0404 => s.lossCheck x
  | 0x0405 => bad (bit (x.p 16 2) 1 && x.stallNo = 0xFF) 16
  | 0x0501 => firstOf [bad (bit (x.p 16 2) 0 && bit (x.p 16 2) 1) 16, s.millerCheck x]
  | 0x0502 => s.millerCheck x
  | 0x0503 => s.millerCheck x
  | 0x0504 => s.millerCheck x
  | 0x0601 => s.collCheckAt x
  | 0x0602 => s.collCheckAt x
  | 0x0603 => s.collCheckAt x
  | 0x0604 => s.collCheckAt x
  | 0x0605 => s.collCheckAt x
  | 0x0606 => s.peerCheck x
  | 0x0701 => s.budgetCheck x
  | 0x0702 => let o := x.p 0 1; bad (!(((List.range 3).map (fun i => bits o (5 - 2 * i) (4 - 2 * i))).all (· ≤ 2) && (((List.range 3).map (fun i => bits o (5 - 2 * i) (4 - 2 * i))).eraseDups.length = 3))) 0
  | 0x0703 => bad (1 < x.p 0 1) 0
  | 0x0801 => firstOf [bad (!unitOk (x.p 0 2) || !(List.range 6).any (stateListed (x.p 0 2))) 0, bad (!stateListed (x.p 0 2) (x.p 2 1)) 2]
  | 0x0901 => s.farrierCheck x
  | 0x0902 => firstOf [bad (x.p 12 4 = 0 && x.p 16 1 = 0) 12, bad (1 < x.p 16 1) 16]
  | 0x0903 => firstOf [bad (!unitOk (x.p 0 2)) 0, bad (x.p 2 1 = 1 && (s.unit (x.p 0 2)).last != 1) 0, bad (1 < x.p 2 1) 2]
  | 0x0A01 => bad (1 < x.p 0 1) 0
  | 0x0A02 => bad (4 < x.p 0 1) 0
  | 0x0A03 => firstOf [bad (48 * 1048576 < x.p 8 4) 8, bad (1 < x.p 12 1) 12]
  | 0x0A04 => bad (1 < x.p 0 1 || !s.staged (x.p 0 1) x.no) 0
  | 0x0B01 => s.roundLoadCheck x
  | 0x0B02 =>
    let r := x.p 0 1
    firstOf [bad (7 < r || (s.round r).isNone || s.roundRunning r || 4 ≤ ((List.range 8).filter s.roundRunning).length) 0,
      bad (match s.round r with | some rd => rd.steps.length ≤ x.p 8 2 | none => false) 8]
  | 0x0B03 => firstOf [bad (x.p 16 2 % 32 = 0) 16, bad (1 < x.p 18 1 || (x.p 18 1 = 1 && !s.fromHostRing x)) 18]
  | 0x0B04 => firstOf [bad (!bit (x.p 8 2) 0 && st.isNone) 8, bad (1 < x.p 10 1) 10]
  | _ => none
where
  /-- COUNT and ESIZE of a GATHER or SCATTER. -/
  copyCheck (x : Cmd) : Option Check := firstOf [bad (x.p 24 4 = 0) 24, bad (x.p 28 4 = 0 || x.p 28 4 % 64 != 0 || 65536 < x.p 28 4) 28]

/-! ## The whole receipt check -/

/-- The parameters of a packet, or what its extended block refuses (R317, R318). -/
def State.packetParams (s : State) (h : Header) (packet : List Byte) (x : Cmd) (i : OpInfo) : Except Check (List Byte) :=
  let area := paramsOf packet h.plen.toNat
  if !h.ext then (if i.extAlways then .error ⟨0x13, 0xFFFF, none⟩ else .ok area)
  else
    let a := fieldAt area 0 6
    let n := fieldAt area 8 4
    if h.plen != 12 then .error ⟨0x13, 0xFFFF, none⟩
    else if fieldAt area 6 2 != 0 then .error ⟨0x10, 0x0301, none⟩
    else if n % 8 != 0 || n < 64 || 4096 < n then .error ⟨0x13, 8, none⟩
    else if !(allowed (s.windowsOf x.stallNo) true false a n || allowed s.ck.svc true false a n) then
      let ws := s.windowsOf x.stallNo
      let near := nearestSlot ws true false (firstFailing ws true false a)
      .error ⟨0x20, BitVec.ofNat 16 (match near with | none => 0x1000 | some k => k <<< 8),
        some (ErrRec.forCmd { cls := 7, code := 1, unit := clerkCode, addr := BitVec.ofNat 48 (firstFailing ws true false a), syndrome := BitVec.ofNat 128 (match near with | none => 16 | some k => k) } x 0x20)⟩
    else if s.poisoned a n then .error (poisonCheck x (((lowest (s.poisonIn a n)).getD 0) * 64))
    else .ok (s.readBytes a n)

/-- The meaningful fields of a packet (R11, R317). -/
def Cmd.fieldsOf (x : Cmd) (i : OpInfo) : List (Nat × Nat × Nat) := i.fields ++ (if x.op = 0x0101 then stallLoadFields (min 16 (x.p 42 1)) else [])

/-- Take a packet: the command to issue, or the refusal of its receipt. -/
def State.judge (s : State) (x : Cmd) (packet : List Byte) : Except Check Cmd :=
  let h := x.hdr
  match headerCheck h with
  | some c => .error c
  | none =>
    match opInfo x.op with
    | none => .error ⟨0x13, 0xFFFF, none⟩
    | some i =>
      if s.boot.slot = 2 && !recoveryTakes x.op x.stallNo then .error ⟨0x13, 0xFFFF, none⟩
      else if (match x.origin with | .attach _ => !(x.op = 0x0606 || x.op = 0x0001) | _ => false) then .error ⟨if i.query then 0x13 else 0x11, if i.query then 0xFFFF else s.ck.owner.conflict, none⟩
      else if !x.fullRights && !i.query then .error ⟨0x11, s.ck.owner.conflict, none⟩
      else
        match s.stallCheck x i with
        | some c => .error c
        | none =>
          match s.packetParams h packet x i with
          | .error c => .error c
          | .ok ps =>
            let x := { x with params := ps }
            if !reservedZero (x.fieldsOf i) ps ps.length then .error ⟨0x10, 0x0301, none⟩
            else
              match firstOf [s.microCheck x, s.opCheck x, s.descCheck x (s.descNow x)] with
              | some c => .error c
              | none => .ok x

/-! ## What dispatch refuses (R344, R345, R491, R492) -/

/-- A descriptor that holds a reserved or out-of-range value (R491, Table 12-8). -/
def Desc.wf (d : Desc) (raw : Nat) : Bool := d.ftag ≤ 9 && 1 ≤ d.lines && bits raw 177 0 = 0

/-- FMT and ROT of an operand flags word against a descriptor's FTAG and ROT; of a saved tensor ROT alone (R492). -/
def fmtAgrees (flags : Nat) (d : Desc) : Bool :=
  (d.saved || (fmtFlag flags = 0 && d.ftag = 2) || (fmtFlag flags = 1 && d.ftag = 3) || (fmtFlag flags = 2 && d.ftag = 6)) && (rotFlag flags == d.rot)
def bvecAgrees (flags : Nat) (d : Desc) : Bool := !bvecFlag flags || (d.baddr != 0 && (!orientT flags || d.cross))

/-- FTAG 0x9 where no INT32 tensor may stand, and an INT32 tensor declared otherwise (R61, R492): it is a source of CONVERT or of
SCALE_SCAN, or the output of an INT32-accumulate product. -/
def int32Ok (x : Cmd) (o : Nat) (d : Desc) : Bool :=
  if x.op = 0x0301 && bit (x.p 26 2) 0 && o = 16 then d.ftag = 9 || d.ftag = 6 || d.ftag = 7
  else if (x.op = 0x0401 || x.op = 0x0402) && o = 0 then true
  else d.ftag != 9

/-- An INT32-accumulate record's width against its operand's (R492). -/
def widthAgrees (r : Nat) (d : Desc) : Bool := (bits r 11 8 = 1) == (d.ftag = 1) && (d.ftag = 1 || d.ftag = 4 || d.ftag = 5)

/-- Extents and flags of a command's captured descriptors (R492): the offset of the first parameter concerned. The wide result of
MATMUL_REF is FP32 (R97), and no ledger is written to MW40 (R60, R85): DEDUCED (log 48). R110 lists BF16, FP32, E4M3 and E5M2 for a
product of the B-arrays and does not say what an FP4, INT4 or INT8 output does: the model converts to it as R85 does for the
F-arrays. DESIGN CHOICE (log 64). -/
def State.agree (s : State) (x : Cmd) : Option Check :=
  let form := fun (o : Nat) => s.stored x.stallNo (x.desc o)
  let has := fun (o : Nat) => x.addr o != 0
  match s.stall x.stallNo with
  | none => none
  | some st =>
    match x.op with
    | 0x0301 =>
      let o := x.p 26 2
      let a := form 0
      let w := if bit o 3 then s.forwardWeight st x (x.p 24 2) else form 8
      let y := x.desc 16
      let fb := st.inFallback (x.p 24 2)
      let useFlags := bit o 1 && !bit o 0
      let fa := if useFlags then x.p 36 2 else 0
      let fw := if useFlags && !(fb && bit o 3) then x.p 38 2 else 0
      firstOf [bad (depth a fa != depth w fw) 0, (if useFlags && !fb then firstOf [bad (!fmtAgrees fa (x.desc 0) || !bvecAgrees fa (x.desc 0)) 0] else none),
        bad (bit o 0 && !widthAgrees (x.p 28 4) a) 0, bad (bit o 0 && !widthAgrees (x.p 32 4) w) 8,
        (if useFlags && !fb then (if bit o 3 then bad (!fmtAgrees fw w || !bvecAgrees fw w) 24 else bad (!fmtAgrees fw (x.desc 8) || !bvecAgrees fw (x.desc 8)) 8) else none),
        bad (y.lines != rows a fa || y.len != rows w fw || (bit o 4 != y.rot) || y.ftag = 8) 16]
    | 0x0302 =>
      let a := form 0
      let b := if bit (x.p 30 2) 1 then s.backwardWeight st x else form 8
      let y := x.desc 16
      let fa := x.p 24 2
      let fb := x.p 26 2
      firstOf [bad (depth a fa != depth b fb || !fmtAgrees fa (x.desc 0) || !bvecAgrees fa (x.desc 0)) 0,
        (if bit (x.p 30 2) 1 then bad (!fmtAgrees fb b || !bvecAgrees fb b) 26 else bad (!fmtAgrees fb (x.desc 8) || !bvecAgrees fb (x.desc 8)) 8),
        bad (y.lines != rows a fa || y.len != rows b fb || y.rot || y.ftag = 8) 16]
    | 0x0303 => attn x 0 8 16 [24] (x.p 44 2)
    | 0x0304 => firstOf [attn x 0 8 16 [24, 32] (x.p 76 2), same x 0 40, same x 8 48, same x 16 56, wideOut x 40, wideOut x 48, wideOut x 56]
    | 0x0305 =>
      let i := (funcInfo (x.p 32 2)).getD {}
      let a := form 0
      let b := form 8
      let vec := (x.p 32 2 = 5 || x.p 32 2 = 6 || x.p 32 2 = 0x11 || x.p 32 2 = 0x12)
      firstOf [(if i.in1 && has 8 then bad (if i.index then b.lines * b.len != a.lines else !(b.lines = a.lines && b.len = a.len) && !(vec && b.lines = 1 && b.len = a.len)) 8 else none),
        (if i.in2 && has 16 then (let c := form 16; bad (!(c.lines = a.lines && c.len = a.len) && !(x.p 32 2 = 6 && c.lines = 1 && c.len = a.len)) 16) else none),
        bad (let y := x.desc 24; if i.perRow then y.lines * y.len != a.lines else y.lines != a.lines || y.len != a.len) 24]
    | 0x0306 =>
      let a := x.desc 0
      let w := x.desc 8
      let y := x.desc 32
      firstOf [bad (a.len != w.len) 8, bad ((x.desc 16).lines != a.lines || (x.desc 16).len != a.len) 16,
        bad ((x.desc 24).lines != w.lines || (x.desc 24).len != w.len) 24, bad (y.lines != a.lines || y.len != w.lines) 32,
        (if has 48 then bad ((x.desc 48).lines != a.lines || (x.desc 48).len != w.lines || (x.desc 48).ftag != 7) 48 else none)]
    | 0x0401 => let a := form 0; bad (a.lines != (x.desc 8).lines || a.len != (x.desc 8).len) 0
    | 0x0402 => let a := form 0; bad (a.lines != (x.desc 8).lines || a.len != (x.desc 8).len) 0
    | _ => none
where
  depth (d : Desc) (f : Nat) : Nat := if orientT f then d.lines else d.inner
  rows (d : Desc) (f : Nat) : Nat := if orientT f then d.len else d.lines
  same (x : Cmd) (a b : Nat) : Option Check := bad ((x.desc a).lines != (x.desc b).lines || (x.desc a).len != (x.desc b).len) a
  wideOut (x : Cmd) (o : Nat) : Option Check := bad ((x.desc o).ftag = 8) o
  /-- Q, K by lines of heads over the head dimension; V by head dimensions over the keys; O by lines of rows (R355). -/
  attn (x : Cmd) (q k v : Nat) (os : List Nat) (heads : Nat) : Option Check :=
    let h := max 1 heads
    let qd := x.desc q
    let kd := x.desc k
    let vd := x.desc v
    firstOf ([bad (qd.inner != kd.inner || kd.lines % h != 0) q, bad (vd.lines % h != 0 || vd.len != kd.lines / h) v] ++
      os.map (fun o => bad ((x.desc o).lines != qd.lines || (x.desc o).len != vd.lines / h || (x.desc o).ftag = 8) o))

/-- Everything that dispatch checks of the captured descriptors. -/
def State.dispatchCheck (s : State) (x : Cmd) : Option Check :=
  let offs := (descOffs x.op).filter (fun o => x.addr o != 0)
  firstOf [firstOf (offs.map (fun o => let d := x.desc o
      let raw := ((x.descs.find? (fun y => y.1 = o)).map (·.2)).getD 0
      bad (!d.wf raw || (!d.saved && !int32Ok x o d) || (d.saved && ((outOffs x.op).contains o || (s.savedNamed x.stallNo d).isNone))) o)),
    s.descCheck x (fun o => if x.addr o = 0 then none else some (x.desc o)), s.agree x]

end Sys2Proof.Machine
end

