-- ==== Sys2Proof/Machine/Receipt.lean ====
section
/-! DEFINITION. Queues and receipts (R313 to R315, R320 to R336, R342, R346, R400): attaching, wakes, the reading of packets,
what an accepted packet takes at once, and the commands of fabric peers. -/

namespace Sys2Proof.Machine

/-! ## Doorbells, indices, attaching (R313 to R315, R325 to R327) -/

/-- R313, R315, R284: DOORBELL q. In service mode the doorbell is counted in NOTOWNER. -/
def execDoorbell (q : Idx64) (v : U32) (s : State) : Host.Outcome State Fault Refusal :=
  .next (s.viaIo (fun s =>
    let qu := s.queue q.val
    let s := { s with mb := { s.mb with db := tset 0 s.mb.db q.val (BitVec.ofNat 16 v.toNat) } }
    if s.hp.mode = 5 then { s with hp := { s.hp with notOwner := satAdd s.hp.notOwner 1 } }
    else if !qu.enable || qu.loc = 3 || bits v.toNat 31 16 != 0 then { s with mb := { s.mb with dbStray := satAdd s.mb.dbStray 1 } }
    else (s.setQueue q.val { qu with qpi := BitVec.ofNat 16 v.toNat }).wakeQueue q.val))

/-- A write of RCI is a wake (R326). -/
def execRciWrite (q : Idx64) (v : U32) (s : State) : Host.Outcome State Fault Refusal :=
  .next (s.viaIo (fun s => (s.setQueue q.val { s.queue q.val with rci := BitVec.ofNat 17 v.toNat }).wakeQueue q.val))

/-- The host's write of the word at 0x10 with ENABLE 1 (R325): ignored while attached or draining; refused fields are taken
and the queue stays detached. -/
def execQueueAttach (q : Idx64) (ctl : U32) (s : State) : Host.Outcome State Fault Refusal :=
  .next (s.viaIo (fun s =>
    let qu := s.queue q.val
    if qu.enable || qu.drain || !ctl.getLsbD 31 then s
    else
      let qu := qu.setCtl ctl
      if qu.attachOk then s.setQueue q.val qu.attached else s.setQueue q.val qu))

/-- ENABLE 0 stops reading; DRAIN holds until the last accepted command's completion is written (R325). -/
def State.detach (s : State) (q : Nat) : State :=
  let qu := s.queue q
  if !qu.enable then s
  else
    let t := s.setQueue q qu.detached
    if t.outstanding q = 0 then t.setQueue q { t.queue q with drain := false } else t

def execQueueDetach (q : Idx64) (s : State) : Host.Outcome State Fault Refusal := .next (s.viaIo (fun s => s.detach q.val))

/-- DRAIN clears when the last completion has been written (R325). -/
def execDrainEnd (q : Idx64) (s : State) : Host.Outcome State Fault Refusal :=
  .next (let qu := s.queue q.val; if qu.drain && s.outstanding q.val = 0 then s.setQueue q.val { qu with drain := false } else s)

/-- Writing 1 to RINGERR clears it, and is itself a wake (R327); `again`: the Clerk sets it on the same edge (R10). -/
def execRingerrClear (q : Idx64) (s : State) (again : Bool := false) : Host.Outcome State Fault Refusal :=
  .next (s.viaIo (fun s => let qu := s.queue q.val; if qu.ringerr then (s.setQueue q.val { qu with ringerr := again }).wakeQueue q.val else s))

/-- R293: a snoop, over a secure stream, of the cached line that holds the next unread slot of a queue with COHWAKE counts as a doorbell. -/
def execCoherentWakeSnoop (q : Idx64) (s : State) : Host.Outcome State Fault Refusal :=
  .next (
    let qu := s.queue q.val
    let line := (qu.qbase.toNat + 64 * (qu.qci.toNat % qu.ring)) / 64
    if qu.enable && qu.loc = 1 && qu.cohwake && s.hp.mode ≤ 2 && s.memOpen && s.hp.qcache.contains line then
      ({ s with hp := { s.hp with qcache := s.hp.qcache.filter (· != line) } } : State).wakeQueue q.val
    else s)

/-! ## What acceptance takes at once -/

/-- Take a claim, recorded with the queue or round it came from (R346). -/
def State.claimFor (s : State) (x : Cmd) (res bay holder : Nat) : State :=
  s.claim res bay holder (match x.origin with | .queue q => q | .round r _ => r | .attach _ => 0xFF)

/-- The claims of an accepted packet (Table 12-9). -/
def State.takeClaims (s : State) (x : Cmd) : State :=
  match x.op with
  | 0x0306 => (maskBits (s.bayMaskOf x).toNat 64).foldl (fun t b => t.claimFor x 2 b 3) s
  | 0x0701 => (maskBits (x.p 8 8) 64).foldl (fun t b => if t.bayActive b && (t.holder 3 b).isNone then t.claimFor x 3 b 5 else t) s
  | 0x0901 =>
    let u := x.p 0 2
    if unitKind u != 1 then s
    else
      let t := if bit (s.runTests x) 2 then s.claimFor x 3 (unitIndex u) 6 else s
      if bit (s.runTests x) 3 then t.claimFor x 2 (unitIndex u) 4 else t
  | 0x0B01 =>
    let r := x.p 0 1
    if bit (x.p 18 2) 0 && (s.holder 1 0xFF).isNone then s.claim 1 0xFF 2 r else s
  | _ => s

/-- The collective has no instance number yet: its group descriptor, or that of an earlier one, is still to be written (R268, R493). -/
def Cmd.unnumbered (x : Cmd) : Bool := x.groupAddr.isSome && x.grp.isNone

/-- An earlier collective has no instance number yet. -/
def State.numberWait (s : State) (x : Cmd) : Bool := x.groupAddr.isSome && s.ck.cmds.any (fun y => y.no < x.no && y.unnumbered)

/-- A command takes its instance number of the group, in issue order (R268). -/
def State.takeInstance (s : State) (c : CmdNo) : State :=
  match s.cmd c with
  | some x =>
    match x.groupAddr with
    | some a =>
      let g := (s.groupDesc a).tag
      let st := s.group g.toNat
      (s.setGroup g.toNat { st with nextInst := st.nextInst + 1 }).onCmd c (fun y => { y with grp := some (g, st.nextInst) })
    | none => s
  | none => s

/-- A peer's change of ownership takes effect on the edge on which its packet is read (R336). -/
def State.peerAction (s : State) (x : Cmd) : State :=
  if x.op != 0x0606 then s
  else
    let src : Option Fid := match x.origin with | .queue q => if (s.queue q).loc = 3 then some (s.queue q).attfid else none | .attach f => some f | .round _ _ => none
    match src, x.p 0 1 with
    | some f, 2 => s.peerClaim f
    | some f, 3 => s.peerRelease f
    | some f, 4 => s.handOff f (BitVec.ofNat 16 (x.p 4 2))
    | _, _ => s

/-- The dies whose memory or bays a command will use, and the module, for one that works on units or local memory of the dies (R400). -/
def State.needsOf (s : State) (x : Cmd) (own : List Nat) : List Nat :=
  let rs := s.regionsOf x
  ((List.range 4).filter (fun d => own.any (fun u => u < 64 && u / 16 = d) || rs.any (fun r => dieMemory d r.lo r.len))).map (· + 136) ++
    (if own != [] || isCompute x.op || isCopy x.op || isMiller x.op || x.op = 0x0102 || rs != [] then [140] else [])

/-- The bays and Millers that a command will use, that of a FARRIER_RUN but for a fenced one (R400, R409). -/
def State.ownUnits (s : State) (x : Cmd) : List Nat :=
  let farrier := match powerIndex (x.p 0 2) with
    | some u => if x.op = 0x0901 && u < 72 && (s.unit (x.p 0 2)).clerk != .fenced then [u] else []
    | none => []
  maskBits (s.bayMaskOf x ||| s.pubMask x).toNat 64 ++ (match millerOf x with | some g => [64 + g] | none => []) ++ farrier

/-- The units, by residency index, that a command will use and that are not in A0 (R400). -/
def State.unitsFor (s : State) (x : Cmd) : List Nat :=
  let own := s.ownUnits x
  let ms := (s.power 140).state = .ms
  own.filter (fun u => !s.awake u) ++ (s.needsOf x own).filter (fun u => if u = 140 then ms else !ms && (s.power u).state = .do_)

/-- The live micro-batches of the stalls of a mask, as 256 × stall + micro-batch: those that a QUIESCE issued now ends (R357). -/
def State.liveIn (s : State) (stalls : Nat) : List Nat :=
  (maskBits stalls 64).flatMap (fun k => match s.stall k with | some st => st.live.map (fun m => 256 * k + m.mb.toNat) | none => [])

/-- Issue a command: wakes are latched on the same edge (R329, R400). -/
def State.issue (s : State) (x : Cmd) : State :=
  let s := s.takeClaims x
  let x := if x.op = 0x0306 then { x with claims := s.bayMaskOf x } else x
  let x := if x.op = 0x0B05 then { x with left := s.liveIn (x.p 0 8) } else x
  let s := s.peerAction x
  let s := if x.hdr.mbstart then
      match s.stall x.stallNo with
      | some st => s.setStall x.stallNo (some { st with live := st.live ++ [{ mb := x.hdr.mb }] })
      | none => s
    else s
  let s := match (s.stall x.stallNo).bind (fun st => (st.batch x.hdr.mb).map (fun m => (st, m))) with
    | some (st, m) => match s.savesLayer x with
      | some l => s.setStall x.stallNo (some (st.setBatch { m with saves := m.saves ++ [(x.no, l)], firstFwd := if x.op = 0x0301 && m.firstFwd.isNone then some x.no else m.firstFwd }))
      | none => s
    | none => s
  let s := { s with ck := { s.ck with cmds := s.ck.cmds ++ [{ x with issuedAt := s.clk.ticks, needs := s.needsOf x (s.ownUnits x) }], nextCmd := s.ck.nextCmd + 1 } }
  let s := if s.contentsPending x || s.numberWait x then s else s.takeInstance x.no
  (s.unitsFor x).foldl State.wakeOnDemand s

/-- Judge a packet and answer it with its receipt (R321). Answers whether it was accepted. -/
def State.take (s : State) (x : Cmd) (packet : List Byte) (tstart : U64) : Bool × State :=
  match s.judge x packet with
  | .ok y => (true, (s.receipt x.origin x.tag x.hdr.seq tstart 0x01 0 0xFFFFFFFF).issue y)
  | .error c =>
    match c.rec_ with
    | some r => let (i, t) := s.record r; (false, t.receipt x.origin x.tag x.hdr.seq tstart c.status c.detail i)
    | none => (false, s.receipt x.origin x.tag x.hdr.seq tstart c.status c.detail 0xFFFFFFFF)

/-- The candidate command of a packet. -/
def State.candidate (s : State) (o : Origin) (packet : List Byte) (full : Bool) (tick : Nat) (tag : BitVec 24) : Cmd :=
  let h := Header.ofBytes packet
  { no := s.ck.nextCmd, origin := o, hdr := h, params := paramsOf packet h.plen.toNat, area := paramsOf packet h.plen.toNat, fullRights := full, wakeTick := tick, tag := tag }

/-! ## PACKET_READ (R321, R326 to R328) -/

/-- The Clerk can take packets. -/
def State.clerkRuns (s : State) : Bool := s.boot.ready && !s.boot.halted && !s.boot.failed && s.brd.pg && !s.brd.trip

/-- A line of a ring in host memory enters the device cache of 2,048 lines; the least recently read is replaced (R292). -/
def State.cacheLine (s : State) (line : Nat) : State :=
  if s.hp.mode ≤ 2 then
    let c := s.hp.qcache.filter (· != line) ++ [line]
    { s with hp := { s.hp with qcache := c.drop (c.length - 2048) } }
  else s

/-- The Clerk reads a woken queue: attached, and not one in host memory in service mode or behind an insecure stream (R284, R295, R326). -/
def State.serves (s : State) (q : Nat) : Bool := (s.queue q).enable && !((s.hp.mode = 5 || !s.ringOpen) && (s.queue q).loc = 1)

/-- A queue of a lower number, woken on the same edge, is taken first (R329). -/
def State.earlierQueue (s : State) (q tick : Nat) : Bool :=
  (List.range q).any (fun k => s.serves k && (match (s.queue k).wake with | some w => w.1 = tick | none => false))

/-- One packet of a woken queue: read from QCI while two reply slots are free for each packet read and not yet completed
(R326, log 35), after the queues of lower numbers woken on the same edge (R329). A ring found overfull sets RINGERR (R327). -/
def execPacketRead (q : Idx64) (s : State) : Host.Outcome State Fault Refusal :=
  .next (
    let qu := s.queue q.val
    match qu.wake with
    | none => s
    | some (tick, time) =>
      let rest := { qu with wake := none }
      if !s.clerkRuns || !s.serves q.val || s.earlierQueue q.val tick then s
      else if qu.ringerr then s.setQueue q.val rest
      else if qu.ring < qu.unread then s.setQueue q.val { rest with ringerr := true }
      else if qu.unread = 0 then s.setQueue q.val { rest with noroom := false }
      else if qu.loc != 3 && qu.freeReplies < 2 * (s.outstanding q.val + 1) then s.setQueue q.val { rest with noroom := true }
      else
        let a := qu.qbase.toNat + 64 * (qu.qci.toNat % qu.ring)
        let tag := qu.tags.headD 0
        let bad := qu.loc != 1 && s.poisoned a 64
        let packet := if qu.loc = 1 then s.readHost a 64 else s.readBytes a 64
        let s := if qu.loc = 1 then s.cacheLine (a / 64) else s
        let t := s.setQueue q.val { qu with qci := qu.qci + 1, noroom := false, wake := if qu.unread = 1 then none else qu.wake, tags := qu.tags.drop 1 }
        if bad then
          let x := t.candidate (.queue q.val) [] false tick tag
          let (i, t) := t.record ((poisonCheck x a).rec_.getD {})
          t.receipt (.queue q.val) tag 0 time 0x21 (poisonCheck x a).detail i
        else
          let x := t.candidate (.queue q.val) packet (t.fullRight qu) tick tag
          let (ok, t) := t.take x packet time
          if ok then t.setQueue q.val { t.queue q.val with accepts := satAdd (t.queue q.val).accepts 1 } else t)

/-! ## CMD flits (R330) -/

/-- A CMD flit: a packet for a peer queue's ring, or for the attach channel. -/
def execCmdFlit (p : Idx64) (f : Flit) (s : State) : Host.Outcome State Fault Refusal :=
  .next (s.deliver p.val f (fun t =>
    let q := fieldAt f.payload 0 1
    let packet := slice f.payload 8 64
    if q = 0xFF then
      if t.clerkRuns then (t.take (t.candidate (.attach f.src) packet false t.now f.tag) packet t.clk.time).2 else t
    else
      let qu := t.queue q
      if 64 ≤ q || !qu.enable || qu.loc != 3 || qu.attfid != f.src then t
      else if qu.ring ≤ qu.unread then t.receipt (.queue q) f.tag (BitVec.ofNat 32 (fieldAt packet 4 4)) t.clk.time 0x13 0xFFFF 0xFFFFFFFF
      else
        let a := qu.qbase.toNat + 64 * (qu.qpi.toNat % qu.ring)
        ((t.store a packet).setQueue q { qu with qpi := qu.qpi + 1, tags := qu.tags ++ [f.tag] }).wakeQueue q))

/-! ## PEER_ATTACH and its actions (R325, R330, R334, R336) -/

/-- The peer that a command comes from. -/
def State.peerOf (s : State) (x : Cmd) : Option Fid :=
  match x.origin with
  | .queue q => if (s.queue q).loc = 3 then some (s.queue q).attfid else none
  | .attach f => some f
  | .round _ _ => none

/-- ATTACH: a peer queue with its ring in Tier M; DETAIL is the queue's number. -/
def execPeerAttach (c : CmdNo) (s : State) : Host.Outcome State Fault Refusal :=
  .next (match s.running c 0x0606 with
    | none => s
    | some x =>
      if x.p 0 1 != 0 then s
      else
        let free := fun (k : Nat) => !(s.queue k).enable && !(s.queue k).drain
        match (if x.p 1 1 = 0xFF then (List.range 64).find? free else if free (x.p 1 1) then some (x.p 1 1) else none), s.peerOf x with
        | some q, some f =>
          let qu : Queue := { s.queue q with qbase := BitVec.ofNat 64 (x.addr 8), rbase := 0, loc := 3, cohwake := false, csize := BitVec.ofNat 4 (x.p 2 1), attfid := f, tags := [] }
          (s.setQueue q qu.attached).endCmd c 0x00 (BitVec.ofNat 16 q)
        | _, _ => s.endCmd c 0x13 1)

/-- DETACH: the queue drains. -/
def execPeerDetach (c : CmdNo) (s : State) : Host.Outcome State Fault Refusal :=
  .next (match s.running c 0x0606 with
    | none => s
    | some x => if x.p 0 1 != 1 then s else (s.detach (x.p 1 1)).endCmd c 0x00 (BitVec.ofNat 16 (x.p 1 1)))

/-- A fabric peer claims ownership: taken when the module has no owner. -/
def execPeerClaim (f : Fid) (s : State) : Host.Outcome State Fault Refusal := .next (s.peerClaim f)
/-- The owning peer releases. -/
def execPeerRelease (f : Fid) (s : State) : Host.Outcome State Fault Refusal := .next (s.peerRelease f)
/-- The owning peer makes another the owner. -/
def execHandoff (f g : Fid) (s : State) : Host.Outcome State Fault Refusal := .next (s.handOff f g)

/-- GRANT: full rights for a peer queue. -/
def execGrant (c : CmdNo) (s : State) : Host.Outcome State Fault Refusal :=
  .next (match s.running c 0x0606 with
    | none => s
    | some x =>
      if x.p 0 1 != 5 then s
      else
        let q := x.p 1 1
        let qu := s.queue q
        if qu.enable && qu.loc = 3 then (s.setQueue q { qu with granted := true }).endCmd c 0x00 (BitVec.ofNat 16 q) else s.endCmd c 0x13 1)

end Sys2Proof.Machine
end

