-- ==== Sys2Proof/Machine/Issue.lean ====
section
/-! DEFINITION. The dispatch of issued commands (R112, R133, R150, R157, R170, R194 to R196, R209, R212, R226, R329, R333, R339,
R356, R400, R403, R424, R432, R493) and the 50 µs window of the Tallyman (R372 to R376). -/

namespace Sys2Proof.Machine

/-! ## What a command waits for -/

/-- Some earlier-issued command that has not completed satisfies a condition. -/
def State.before (s : State) (x : Cmd) (f : Cmd → Bool) : Bool := s.ck.cmds.any (fun y => y.no < x.no && f y)

/-- Two commands come from one queue, one round or one peer's attach channel. -/
def Origin.same : Origin → Origin → Bool
  | .queue a, .queue b => a = b
  | .round a _, .round b _ => a = b
  | .attach a, .attach b => a = b
  | _, _ => false

/-- The commands that close a step, that run on a reduction engine, and that are collectives. -/
def Cmd.closesStep (x : Cmd) : Bool := x.op = 0x0403 && x.p 0 1 = 1
def Cmd.isColl (x : Cmd) : Bool := 0x0601 ≤ x.op && x.op ≤ 0x0605
def Cmd.reducesData (x : Cmd) : Bool := x.op = 0x0601 || x.op = 0x0602

/-- A step of the stall is open that the command needs closed, or a close holds a GRAD command (R150, R157). -/
def State.stepWait (s : State) (x : Cmd) : Bool :=
  (x.isGrad && s.before x (fun y => y.closesStep && y.stallNo = x.stallNo)) ||
    (x.op = 0x0501 && (match s.stall x.stallNo with | some st => st.num.now.hdr.step.toNat ≤ x.p 8 4 | none => false))

/-- Holds between Miller commands and checkpoints of a stall (R356), between firmware commands (R457), and between
PSTATE_REQs of one unit (R403). -/
def State.orderWait (s : State) (x : Cmd) : Bool :=
  (isMiller x.op && s.before x (fun y => y.op = 0x0B03 && y.stallNo = x.stallNo)) ||
    (x.op = 0x0B03 && s.updatesLeft x) ||
    ((x.op = 0x0A03 || x.op = 0x0A04) && s.before x (fun y => y.op = 0x0A03 || y.op = 0x0A04)) ||
    (x.op = 0x0801 && s.before x (fun y => y.op = 0x0801 && y.p 0 2 = x.p 0 2)) ||
    (x.op = 0x0901 && (s.unit (x.p 0 2)).run.isSome)

/-- The version records of a stall's layers. -/
def Stall.versions (st : Stall) : List Nat := ((st.layers.filter (fun e => e.vaddr != 0)).map (fun e => e.vaddr.toNat)).eraseDups

/-- The descriptors a command names now. -/
def State.namedDescs (s : State) (x : Cmd) : List Desc := ((descOffs x.op).filter (fun o => x.addr o != 0 && s.readable x (x.addr o) 64)).map (fun o => s.desc (x.addr o))

/-- The command reads the pinned side of a layer (WLAYER), or saves or reads tensors of its micro-batch: it needs the micro-batch's pins and
plan (R127, R194). -/
def State.needsStart (s : State) (x : Cmd) : Bool :=
  (x.op = 0x0301 && bit (x.p 26 2) 3) || (x.op = 0x0302 && bit (x.p 30 2) 1) || (s.savesLayer x).isSome || (s.namedDescs x).any (·.saved)

/-- A start that would pass 65,535 pins, that a RESTORE holds, or whose layers another stall, parked, has still to copy back (R194, R196,
R340); and a command that needs what the start of its micro-batch sets up, while that start waits. Other commands of the micro-batch
do not wait for it (R329). -/
def State.batchWait (s : State) (x : Cmd) : Bool :=
  match s.stall x.stallNo with
  | none => false
  | some st =>
    if x.hdr.mb = 255 then false
    else if x.hdr.mbstart then
      st.versions.any (fun a => (s.vers a).pins (s.vers a).cur = 0xFFFF || s.restoring a || s.stallsLoaded.any (fun k =>
        k.2.parked.isSome && k.2.versions.contains a && k.1 != x.stallNo))
    else s.needsStart x && s.before x (fun y => y.hdr.mbstart && y.undispatched && y.stallNo = x.stallNo && y.hdr.mb == x.hdr.mb)

/-- A command that reads a saved tensor starts after the command that saves it has completed (R130); a saved tensor's readers
before a later save of its layer is not a conflict. -/
def State.saveWait (s : State) (x : Cmd) : Bool :=
  ((s.namedDescs x).filter (·.saved)).any (fun d => let n := d.saveName
    s.before x (fun y => y.stallNo = x.stallNo && y.hdr.mb.toNat = n.2.1 && s.savesLayer y = some n.1))

/-- The kept tensors that a command reads, by the bays that hold them (R133). -/
def State.keptBays (s : State) (x : Cmd) : List Nat :=
  ((s.namedDescs x).filter (·.saved)).flatMap (fun d => match s.savedNamed x.stallNo d with
    | some v => if v.kept then maskBits v.bays.toNat 64 else []
    | none => [])

/-- A command that conflicts with it has not completed: an earlier-issued one, or one that runs (R112, R212, R493). -/
def State.conflictWait (s : State) (x : Cmd) : Bool := s.ck.cmds.any (fun y => y.no != x.no && (y.no < x.no || y.runs) && s.conflict x y)

/-- An earlier command that waits for energy holds back those on the same bays (R329). -/
def State.energyHold (s : State) (x : Cmd) : Bool :=
  s.before x (fun y => y.phase = .energyWait && (s.bayMaskOf y &&& s.bayMaskOf x) != 0)

/-- Units in SUSPECT get no new work (R421): the owning Miller, the reduction engines, bays that hold a kept tensor. -/
def State.suspectWait (s : State) (x : Cmd) : Bool :=
  (match millerOf x with | some g => (s.unit (0x2000 + g)).clerk = .suspect | none => false) ||
    (x.reducesData && (List.range 4).any (fun d => (s.unit (0x4000 + d)).clerk = .suspect)) ||
    (s.keptBays x).any (fun b => (s.unit (0x1000 + b)).clerk = .suspect)

/-- The units that a dispatch of the command needs, by unit code. -/
def State.unitsNeeded (s : State) (x : Cmd) : List Nat :=
  (maskBits (s.bayMaskOf x).toNat 64).map (0x1000 + ·) ++ (match millerOf x with | some g => [0x2000 + g] | none => []) ++
    (if x.reducesData then (List.range 4).map (0x4000 + ·) else [])

/-- A copy to or from host memory waits while the link stream that carries it is insecure (R295, log 63). -/
def State.hostWait (s : State) (x : Cmd) : Bool :=
  !s.ioOpen && ((x.op = 0x0201 && x.p 24 1 = 1) || (x.op = 0x0B03 && x.p 18 1 = 1) || (x.op = 0x0B04 && x.p 10 1 = 1))

/-- Everything that keeps an issued command from its dispatch, but for shoeing slices. -/
def State.held (s : State) (x : Cmd) : Bool :=
  s.hostWait x || (x.hdr.fence && s.before x (fun y => y.origin.same x.origin)) || s.contentsPending x || (x.grp.isNone && s.numberWait x) || s.conflictWait x || s.stepWait x || s.orderWait x ||
    s.batchWait x || s.saveWait x || s.suspectWait x || s.energyHold x ||
    (isCompute x.op && (maskBits (s.bayMaskOf x).toNat 64).any (fun b => s.bayBusy b x.stallNo))

/-! ## What a dispatch does -/

/-- The side of a version that a micro-batch started on this edge pins: the one that was current before the edge (R198). -/
def State.sideBefore (s : State) (a : Nat) : Bool := let v := s.vers a; if v.flipped = some s.clk.ticks then !v.cur else v.cur

/-- Pin the current side of every layer of the stall (R194, R198). -/
def State.pinBatch (s : State) (x : Cmd) : State :=
  match s.stall x.stallNo with
  | none => s
  | some st =>
    let pins := st.versions.map (fun a => (a, s.sideBefore a))
    let t := pins.foldl (fun t p => let v := t.vers p.1; t.putVers p.1 (v.setPins p.2 (v.pins p.2 + 1))) s
    match st.batch x.hdr.mb with
    | some m => t.setStall x.stallNo (some (st.setBatch { m with pinned := true, pins := pins }))
    | none => t

/-- Choose the kept tensors of the micro-batch that a command starts (R127, R342). Its tokens are the lines of the left operand of a
forward product; where another command starts it they are free (log 24). -/
def State.chooseKept (s : State) (x : Cmd) : State :=
  let forward := x.op = 0x0301 || x.op = 0x0303
  let (v, t) := if forward then ((s.stored x.stallNo (x.desc 0)).lines, s) else s.fresh 4 x.stallNo
  match t.stall x.stallNo with
  | none => t
  | some st =>
    match st.batch x.hdr.mb with
    | some m => t.setStall x.stallNo (some (st.setBatch { m with keep := some (t.choosesKept st v (t.activeMask st.bays)) }))
    | none => t

/-- The slots that a command's check relies on: windows that cover a region of it, or bytes of one that is checked access by access
(R209, R210). -/
def State.slotsOf (s : State) (x : Cmd) : List Nat :=
  let rs := s.regionsOf x
  ((validWindows (s.windowsFor x)).filter (fun w => rs.any (fun r => w.2.grants r.rd r.wr &&
    (if r.each || isCopy x.op then overlaps w.2.lo (w.2.hi - w.2.lo) r.lo r.len else w.2.covers r.lo r.len)))).map (·.1)

/-- The first region of a list that a check refuses (R209, R219). -/
def State.badRegion (s : State) (x : Cmd) (rs : List Region) : Option BadAccess := rs.findSome? (s.badAccess (s.windowsFor x))

/-- The last columns of the opcode tables where they look at memory, judged again on what the command now finds there. -/
def State.lateCheck (s : State) (x : Cmd) : Option Check :=
  firstOf [(if isMiller x.op then s.millerCheck x else if x.isColl then s.collCheckAt x else if x.op = 0x0101 then s.loadCheck x else if x.op = 0x0403 then s.entryFull x else none), s.dispatchCheck x]

/-- Regions judged at the dispatch: those of addresses that the command reads during its run, such as the indexed side of a GATHER or
SCATTER and the regions of a layer record, are judged as it runs (R209). -/
def State.dispatchRegions (s : State) (x : Cmd) : List Region :=
  let far := fun (r : Region) => if x.op = 0x0202 then r.rd && r.lo != x.addr 16 else if x.op = 0x0203 then r.wr else r.each
  (s.regionsOf x).filter (fun r => !far r)

/-- End the shoeing slices of the units needed (R432). -/
def State.endSlices (s : State) (us : List Nat) : State := us.foldl State.endSlice s

/-- Level of a command's work, in 1/256 of the full activity of a bay's arrays (R385): products use them, as far as no rule says
(log 5); other commands do not. -/
def State.workLevel (s : State) (x : Cmd) : Nat := if x.op / 256 = 3 && x.op != 0x0305 then Config.free s.freeCtr 21 x.no % 257 else 0

/-- The granted command runs (R194, R329, R339, R340, R374, R386, R387). -/
def State.start (s : State) (x : Cmd) (mw low : Nat) : State :=
  let bs := maskBits x.bays.toNat 64
  let s := s.onCmd x.no (fun y => { y with phase := .running, tstart := s.clk.time, disp := true, level := s.workLevel x, bays := x.bays, reserved := mw, lowered := low, slots := s.slotsOf x, activity := (s.workOf x).activity, descs := x.descs, rgs := x.extRegion ++ s.plainRegions x, sides := s.sidesOf x, wins := s.windowsFor x })
  let s := bs.foldl (fun t b => if (t.bay b).waitStart.isSome then t.setBay b ((t.bay b).beginWork t.now (t.workLevel x)) else t) s
  let s := if isCompute x.op then (s.unpark x.stallNo x.no).switchBays x.stallNo bs else s
  let s := if low = 0 then s else s.replan
  let s := s.nameEntries x
  let s := if x.hdr.mbstart then (s.pinBatch x).chooseKept x else s
  if x.op = 0x0606 && (x.p 0 1 = 2 || x.p 0 1 = 3 || x.p 0 1 = 4) then s.doneCmd x.no else s

/-- Ask the Tallyman (R333): a refusal ends the command, or leaves one with ENWAIT waiting. -/
def State.askEnergy (s : State) (x : Cmd) : State :=
  match s.grant x with
  | (some (mw, low), t) => t.start x mw low
  | (none, t) =>
    let o := t.tal.tot
    if x.hdr.enwait then
      let first := x.phase = .issued
      { t with tal := { t.tal with tot := { o with waits := if first then satAdd o.waits 1 else o.waits } } }.onCmd x.no (fun y => { y with phase := .energyWait })
    else { t with tal := { t.tal with tot := { o with refusals := satAdd o.refusals 1 } } }.endCmd x.no 0x12 0

/-- The outcome that ends a command before it can run: its stall gone or already there, its Miller fenced, no ACTIVE bay, a
kept tensor on a fenced bay (R133, R170, R319, R424). -/
def State.cannotRun (s : State) (x : Cmd) : Option (Byte × U16) :=
  let has := (s.stall x.stallNo).isSome
  let fenced := (s.keptBays x).find? (fun b => (s.unit (0x1000 + b)).clerk = .fenced)
  if x.stallNo != 0xFF && x.op != 0x0B04 && (if x.op = 0x0101 then has else !has) then some (0x13, 0xFFFF)
  else match millerOf x with
    | some g => if (s.unit (0x2000 + g)).clerk = .fenced then some (0x50, millerCode g) else none
    | none =>
      match fenced with
      | some b => some (0x50, bayCode b)
      | none => if (isCompute x.op || isCopy x.op) && s.bayMaskOf x = 0 then some (0x50, bayCode (s.lowestBay x)) else none

/-- The last judgement of a command that nothing holds: descriptors read, contents and regions checked, energy asked for. -/
def State.judgeDispatch (s : State) (x : Cmd) : State :=
  let descs := ((descOffs x.op).filter (fun o => x.addr o != 0 && s.readable x (x.addr o) 64)).map (fun o => (o, s.readNat (x.addr o) 64))
  let x := { x with descs := descs, bays := s.bayMaskOf x, rgs := s.plainRegions x, sides := s.sidesOf x }
  match s.badRegion x ((s.contentsOf x).flatMap (fun c => reads c.1 c.2)) with
  | some b => s.failAccess (s.windowsFor x) x b
  | none =>
    match s.lateCheck x with
    | some k =>
      (match k.rec_ with
        | some r => let (i, t) := s.record r; t.failCmd x.no k.status k.detail i
        | none => s.endCmd x.no k.status k.detail)
    | none =>
      match s.badRegion x (s.dispatchRegions x) with
      | some b => s.failAccess (s.windowsFor x) x b
      | none => (if x.grp.isNone then s.takeInstance x.no else s).askEnergy x

/-- The command's deadline has passed (R332): on the edge on which it expires a dispatch is still in time (R31). -/
def State.overDeadline (s : State) (x : Cmd) : Bool := x.hdr.deadline != 0 && s.reached (x.wakeTick + 10 * x.hdr.deadline.toNat + 1)

/-- Dispatch a command if nothing holds it; units not in A0 are woken, and it is dispatched once they are (R400). One whose deadline has passed
ends without effect (R332). -/
def State.tryDispatch (s : State) (c : CmdNo) : State :=
  match s.cmd c with
  | none => s
  | some x =>
    if !x.undispatched || !s.clerkRuns then s
    else if s.overDeadline x then s.endCmd c 0x40 0
    else
      match s.cannotRun x with
      | some o => s.endCmd c o.1 o.2
      | none =>
        if s.held x then s
        else
          let us := s.unitsFor x
          if us != [] then us.foldl State.wakeOnDemand s
          else
            let t := s.endSlices ((s.unitsNeeded x).filter (fun u => !s.sliceHolds u))
            if (s.unitsNeeded x).any s.sliceHolds then t else t.judgeDispatch x

/-- COMMAND_DISPATCH. A command that waits for energy is asked for again at a window boundary only (R333). -/
def execCommandDispatch (c : CmdNo) (s : State) : Host.Outcome State Fault Refusal :=
  .next (match s.cmd c with
    | some x => if x.phase = .issued then s.tryDispatch c else s
    | none => s)

/-! ## The 50 µs window (R346, R372 to R376) -/

/-- TREADMILL claims of bays that no TREAD names, now or in a setting that waits, end (R346). -/
def State.releaseTread (s : State) : State :=
  let named := fun (b : Nat) => s.tal.set.tread.toNat.testBit b || s.ck.cmds.any (fun y => y.op = 0x0701 && y.phase != .ended && bit (y.p 8 8) b)
  { s with ck := { s.ck with claims := s.ck.claims.filter (fun k => !(k.res = 3 && k.holder = 5 && !named k.bay.toNat)) } }

/-- Ask again for every command that waits for energy, in issue order (R333, R375). -/
def State.regrant (s : State) : State :=
  ((s.ck.cmds.filter (fun x => x.phase = .energyWait)).map (·.no)).foldl State.tryDispatch s

/-- BUDGET_WINDOW_END: once in each 50 µs of module time. -/
def execBudgetWindowEnd (w : WindowCounts) (s : State) : Host.Outcome State Fault Refusal :=
  .next (if s.clk.time.toNat / 50000 = s.tal.lastWindow then s else (s.windowEnd w).releaseTread.regrant)

end Sys2Proof.Machine
end

