-- ==== Sys2Proof/Machine/Complete.lean ====
section
/-! DEFINITION. Completion of commands (R131, R149, R195, R213, R214, R268, R289, R320 to R323, R346, R349, R386, R396). -/

namespace Sys2Proof.Machine

/-! ## Failed steps of rounds (R349, Table 12-10) -/

/-- A step's outcome is a success (R349). -/
def stepSucceeds (status : Byte) : Bool := [0x00, 0x30, 0x31, 0x32, 0x33].contains status.toNat

def useOf (l : List (Nat × Nat)) (i : Nat) : Nat := ((l.find? (fun y => y.1 = i)).map (·.2)).getD 0
def useOne (l : List (Nat × Nat)) (i : Nat) : List (Nat × Nat) := l.filter (fun y => y.1 != i) ++ [(i, useOf l i + 1)]

/-- The stall that a packet names has an ACTIVE bay left. -/
def State.stepHasBay (s : State) (packet : List Byte) : Bool :=
  match s.stall (Header.ofBytes packet).stall.toNat with
  | some st => (maskBits st.bays.toNat 64).any s.bayActive
  | none => false

/-- A step failed: reissued on the remaining bays or by RETRY, else the round goes to FAILNEXT or stops. A REBAY that finds no
bay is a PINPLACE event (R392). -/
def State.stepFailed (s : State) (r i : Nat) (status : Byte) (detail : U16) (idx : U32) : State :=
  match s.round r with
  | none => s
  | some rd =>
    match rd.run, rd.steps[i]? with
    | some run, some st =>
      let ctl := st.ctl.toNat
      let put := fun (s : State) (v : RoundRun) => s.setRound r (some { rd with run := some v })
      if run.stop.isSome then s
      else
        let rebay := bit ctl 14 && status = 0x50 && useOf run.rebays i < 4
        let s := if rebay && !s.stepHasBay st.packet then s.pinPlace else s
        if rebay && s.stepHasBay st.packet then put s { run with rebays := useOne run.rebays i, again := run.again ++ [i] }
        else if useOf run.tries i < bits ctl 31 24 then put s { run with tries := useOne run.tries i, again := run.again ++ [i] }
        else if bits ctl 47 32 = 0xFFFF then s.stopRound r status (if status = 0x13 then 0xFFFE else detail) idx
        else put s { run with next := some (bits ctl 47 32) }
    | _, _ => s

/-! ## What a completion ends -/

/-- Back-invalidate the lines of a span that the snoop filter holds (R289), over a secure stream (R295). -/
def State.backInvalidate (s : State) (spans : List Span) : State :=
  let hit := s.hp.snoop.filter (fun a => spans.any (fun p => overlaps p.lo p.len a 64))
  if hit = [] || !s.memOpen then s
  else { s with out := s.out ++ hit.map Out.backInval, hp := { s.hp with snoop := s.hp.snoop.filter (fun a => !hit.contains a) } }

/-- Claims that end at a command's completion (Table 12-9). -/
def State.releaseClaims (s : State) (x : Cmd) : State :=
  if x.op = 0x0306 then (maskBits x.claims.toNat 64).foldl (fun t b => t.unclaim 2 b 3) s
  else if x.op = 0x0901 && unitKind (x.p 0 2) = 1 then
    let t := if bit (s.runTests x) 2 then s.unclaim 3 (unitIndex (x.p 0 2)) 6 else s
    if bit (s.runTests x) 3 then t.unclaim 2 (unitIndex (x.p 0 2)) 4 else t
  else s

/-- Nothing that belongs to a command outlives it: its part of a collective, its accesses, requests and settings that wait. -/
def State.forget (s : State) (x : Cmd) : State :=
  let c := x.no
  let gone := fun (a : AccSlot) => x.grp = some (a.group, a.inst)
  let t := { s with ab := { s.ab with colls := s.ab.colls.filter (fun y => y.cmd != c), barriers := s.ab.barriers.filter (fun y => y.cmd != c), slots := s.ab.slots.filter (fun a => !gone a), xfers := s.ab.xfers.filter (fun y => y.cmd != c) } }
  let t := { t with tal := { t.tal with next := t.tal.next.filter (fun y => y.1 != c), nextOrder := t.tal.nextOrder.filter (fun y => y.1 != c) } }
  let t := (t.ck.pubs.filter (fun p => p.cmd = c)).foldl (fun t p => (t.dropPub p.vaddr).putVers p.vaddr { t.vers p.vaddr with pending := false }) t
  let t := t.onNum x.stallNo (fun n => { n with reqMode := n.reqMode.filter (fun y => y.1 != c), reqStartlen := n.reqStartlen.filter (fun y => y.1 != c), reqLoss := n.reqLoss.filter (fun y => y.1 != c) })
  let t := (t.units.filter (fun u => u.2.run = some c)).foldl (fun t u => t.setUnit u.1 { u.2 with run := none }) t
  (t.pw.filter (fun u => u.2.req = some c)).foldl (fun t u => t.setPower u.1 { u.2 with req := none }) t

/-- A collective of a bay's current stall is in progress (R386). -/
def State.collecting (s : State) (b : Nat) : Bool :=
  match (s.bay b).stall with
  | some k => s.ck.cmds.any (fun x => x.runs && x.stallNo = k && (x.isColl || (x.closesStep && x.addr 16 != 0)))
  | none => false

/-- Work of level `w` that ran on a bay for `n` ns: the latest 1 µs of work is kept, newest first (R386). -/
def addWork (w n : Nat) (acts : List (Nat × Nat)) : List (Nat × Nat) :=
  (((w, n) :: acts).foldl (fun (r : Nat × List (Nat × Nat)) x => (r.1 - x.2, if r.1 = 0 || x.2 = 0 then r.2 else r.2 ++ [(x.1, min r.1 x.2)])) (1000, [])).2

/-- Mean activity of a bay over its last 1 µs of work (R386). -/
def Bay.meanWork (x : Bay) : Nat :=
  let n := x.acts.foldl (fun n y => n + y.2) 0
  if n = 0 then 0 else x.acts.foldl (fun e y => e + y.1 * y.2) 0 / n

/-- The command has left a bay, which idles from now if it was the last (R396). A TREAD bay then waits, its filler starting at the bay's mean activity over its last
1 µs of work, or at 0 while a safety limit acts on its die (R386, R388). -/
def State.leaveBay (x : Cmd) (s : State) (b : Nat) : State :=
  let s := if x.disp then s.setBay b { s.bay b with acts := addWork x.level (s.now - x.tstart.toNat) (s.bay b).acts } else s
  if s.ck.cmds.any (fun x => x.runs && x.bays.getLsbD b) then s
  else
    let t := (s.idles b).setBay b { s.bay b with work := none, combined := 0, fill := 0 }
    if t.tal.set.tread.getLsbD b && t.collecting b then
      t.setBay b { t.bay b with waitStart := some t.now, fill := if t.limitOnDie (b / 16) then 0 else min 256 (t.bay b).meanWork, fillAt := t.now }
    else t

/-- A command has left the units it ran on. -/
def State.leaveUnits (s : State) (x : Cmd) : State :=
  let t := (maskBits x.bays.toNat 64).foldl (State.leaveBay x) s
  let t := match millerOf x with | some g => t.setPower (64 + g) { t.power (64 + g) with idleFrom := t.now } | none => t
  if x.lowered = 0 then t else t.replan

/-- An ended collective whose group was not known at its issue takes its instance number once it is, in issue order: it was issued (R268). -/
def State.numberEnded (s : State) (x : Cmd) : State :=
  if x.unnumbered && !s.contentsPending x && !s.numberWait x then s.takeInstance x.no else s

/-- Collectives of one group complete in instance order (R268): one without its number waits for it. -/
def State.mustWait (s : State) (x : Cmd) : Bool :=
  if x.unnumbered then true else
  match x.grp with
  | some g => s.ck.cmds.any (fun y => y.no < x.no && (match y.grp with | some k => k.1 = g.1 | none => false))
  | none => false

/-- The command names a saved tensor of a micro-batch. -/
def names (ds : List Desc) (mb : Byte) (v : Saved) : Bool :=
  ds.any (fun d => d.saved && d.saveName = (v.layer.toNat, mb.toNat, v.idx.toNat))

/-- R131: a backward product that named a kept tensor has completed, and no other command of the table names it: its space in the
activation regions is free. The tensor stays readable until its micro-batch ends. DESIGN CHOICE (log 24). -/
def State.freeKept (s : State) (x : Cmd) : State :=
  match s.stall x.stallNo with
  | some st =>
    let mine := x.descs.map (fun y => Desc.ofNat y.2)
    let others := ((s.ck.cmds.filter (fun y => y.no != x.no && y.phase != .ended && y.stallNo = x.stallNo)).flatMap s.namedDescs)
    let free := fun (m : MicroBatch) (v : Saved) => if v.kept && names mine m.mb v && !names others m.mb v then { v with freed := true } else v
    s.setStall x.stallNo (some { st with live := st.live.map (fun m => { m with saved := m.saved.map (free m) }) })
  | none => s

/-- A Miller writes the read-only fields it holds into the record at each completion (R172): of the commands that ran on it. -/
def State.rewriteRO (s : State) (x : Cmd) : State :=
  if isMiller x.op && x.disp then
    match s.lrec (x.addr 0) with | some r => s.putLayerRO x.no (x.addr 0) r | none => s
  else s

/-- The completion of an ended command: its writes visible to the host, its reply, and what ends with it. A failed query returns no result,
but for a CERT_READ whose LIMIT is too small, which returns the length (R454). -/
def State.complete (s : State) (x : Cmd) : State :=
  let s := s.rewriteRO x
  let t := s.backInvalidate ((s.cmd x.no).getD x).wrote
  let t := t.measure x
  let t := if x.isGrad && x.nf then t.onNum x.stallNo (fun n => { n with stepFlag := true }) else t
  let t := ((t.forget x).releaseClaims x).reserveAll
  let t := if (x.op = 0x0302 || x.op = 0x0304) && stepSucceeds x.status then t.freeKept x else t
  let t := if x.hdr.mbend then t.endBatch x.stallNo x.hdr.mb else t
  let (f, u) := t.fresh 12 x.no
  let (x, t) := if x.disp then (x, t) else ({ x with tstart := BitVec.ofNat 64 f }, u)
  let x := if x.op = 0x0B04 || (!stepSucceeds x.status && x.op != 0x0A02) then { x with result := [] } else x
  let t := t.completionTo x (t.cmdEnergy x)
  let t := { t with ck := { t.ck with cmds := t.ck.cmds.filter (fun y => y.no != x.no) } }
  let t := (t.leaveUnits x).settleQuiesce
  match x.origin with
  | .round r i => if stepSucceeds x.status then t else t.stepFailed r i x.status x.detail x.errIdx
  | _ => t

/-- The reply has to go to host memory, which an insecure stream keeps from it: it waits (R295, log 63). -/
def State.replyBlocked (s : State) (x : Cmd) : Bool :=
  !s.ringOpen && !x.lost && (match x.origin with
    | .queue q => (s.queue q).loc = 1
    | .round r _ => (match s.roundQueue r with | some q => (s.queue q).loc = 1 | none => false)
    | .attach _ => false)

/-- COMMAND_COMPLETE; after a thermal trip the Clerk has no power (R383). -/
def execCommandComplete (c : CmdNo) (s : State) : Host.Outcome State Fault Refusal :=
  .next (match s.cmd c with
    | some x =>
      if x.phase != .ended || s.brd.trip then s
      else
        let t := s.numberEnded x
        match t.cmd c with
        | some x => if t.mustWait x || t.replyBlocked x then t else t.complete x
        | none => t
    | none => s)

end Sys2Proof.Machine
end

