-- ==== Sys2Proof/Machine/Rounds.lean ====
section
/-! DEFINITION. Rounds (R347 to R351), QUIESCE (R357) and CAPS (R17, R346, Table 12-15). -/

namespace Sys2Proof.Machine

/-! ## ROUND_LOAD and ROUND_START -/

/-- The steps of a round program in memory (R347). -/
def State.program (s : State) (a n : Nat) : List RStep :=
  (List.range n).map (fun i => ⟨s.readBytes (a + 72 * i) 64, BitVec.ofNat 64 (s.readNat (a + 72 * i + 64) 8)⟩)

/-- The program is copied; loaded again without MARK, a round gives up SYNC_OUT (Table 12-9). The receipt's checks are made
again on what is copied. -/
def execRoundLoad (c : CmdNo) (s : State) : Host.Outcome State Fault Refusal :=
  .next (match s.begins c 0x0B01 with
    | none => s.stopped c 0x0B01
    | some x =>
      match s.roundLoadCheck x with
      | some k =>
        (match k.rec_ with
          | some r => let (i, t) := s.record r; t.failCmd c k.status k.detail i
          | none => s.endCmd c k.status k.detail)
      | none =>
        let r := x.p 0 1
        let mark := bit (x.p 18 1) 0
        let t := s.setRound r (some { steps := s.program (x.addr 8) (x.p 16 2), mark := mark })
        let t := if mark then t else { t with ck := { t.ck with claims := t.ck.claims.filter (fun k => !(k.res = 1 && k.holder = 2 && k.by_.toNat = r)) } }
        let t := if (t.holder 1 0xFF).isNone then { t with brd := { t.brd with syncOut := false, syncFall := none } } else t
        t.doneCmd c)

/-- A loaded round starts at FIRST; one that a RESTORE loaded goes on from its saved count (log 32). -/
def execRoundStart (c : CmdNo) (s : State) : Host.Outcome State Fault Refusal :=
  .next (match s.running c 0x0B02 with
    | none => s
    | some x =>
      let r := x.p 0 1
      match s.round r with
      | none => s.endCmd c 0x13 0
      | some rd =>
        if rd.run.isSome || 4 ≤ ((List.range 8).filter s.roundRunning).length then s.endCmd c 0x13 0
        else if rd.steps.length ≤ x.p 8 2 then s.endCmd c 0x13 8
        else
          let run : RoundRun := { cmd := c, first := x.p 8 2, iters := BitVec.ofNat 32 (x.p 4 4), iter := rd.iter, startIter := rd.iter, next := some (x.p 8 2) }
          (s.setRound r (some { rd with iter := 0, run := some run })).workOn c)

/-! ## Running (R348, R349, R351) -/

/-- The command of the round's steps that have not completed. -/
def State.stepsOpen (s : State) (r : Nat) : Bool := s.ck.cmds.any (fun x => match x.origin with | .round k _ => k = r | _ => false)

/-- PATCH: the 32-bit parameter at the offset receives the iteration count (Table 12-10). -/
def patched (packet : List Byte) (ctl iter : Nat) : List Byte :=
  let p := bits ctl 23 16
  if p = 0xFF || 48 < p + 4 then packet
  else packet.take (16 + p) ++ bytesLE 4 (fieldAt packet (16 + p) 4 + iter) ++ packet.drop (20 + p)

/-- The step a round issues now, and whether it is a reissue. -/
def State.nextStep (s : State) (r : Nat) (rd : Round) (run : RoundRun) : Option (Nat × Bool) :=
  match run.stop, run.again, run.next with
  | some _, _, _ => none
  | none, i :: _, _ => some (i, true)
  | none, [], some i =>
    match rd.steps[i]? with
    | some st => if bit st.ctl.toNat 15 && s.stepsOpen r then none else some (i, false)
    | none => none
  | none, [], none => none

/-- MARK at the first issue of an iteration: SYNC_OUT rises, to fall 1 µs later (R351). -/
def State.stepMark (s : State) (rd : Round) (run : RoundRun) : State :=
  if rd.mark && !run.marked then { s with brd := { s.brd with syncOut := true, syncFall := some (s.now + 1000) } } else s

/-- ROUND_STEP_ISSUE: PATCH, the extended block, the receipt checks; no receipt is written (R350). A refusal is a failure. -/
def execRoundStepIssue (r : Fin 8) (s : State) : Host.Outcome State Fault Refusal :=
  .next (match s.round r.val with
    | none => s
    | some rd =>
      match rd.run with
      | none => s
      | some run =>
        match (if s.clerkRuns then s.nextStep r.val rd run else none) with
        | none => s
        | some (i, re) =>
          match rd.steps[i]? with
          | none => s
          | some st =>
            let next := bits st.ctl.toNat 63 48
            let run' : RoundRun := if re then { run with again := run.again.drop 1, marked := true }
              else { run with next := if next = 0xFFFF then none else some next, tries := run.tries.filter (fun y => y.1 != i), rebays := run.rebays.filter (fun y => y.1 != i), marked := true }
            let t := (s.stepMark rd run).setRound r.val (some { rd with run := some run' })
            let packet := patched st.packet st.ctl.toNat run.iter.toNat
            match t.judge (t.candidate (.round r.val i) packet true t.now 0) packet with
            | .ok y => t.issue y
            | .error k =>
              match k.rec_ with
              | some e => let (j, t) := t.record e; t.stepFailed r.val i k.status k.detail j
              | none => t.stepFailed r.val i k.status k.detail 0xFFFFFFFF)

/-- ROUND_ITERATION_END: the round ends, or starts again at FIRST. -/
def execRoundIterationEnd (r : Fin 8) (s : State) : Host.Outcome State Fault Refusal :=
  .next (match s.round r.val with
    | none => s
    | some rd =>
      match rd.run with
      | none => s
      | some run =>
        if run.next.isSome || run.again != [] || s.stepsOpen r.val then s
        else
          let idle := s.setRound r.val (some { rd with run := none })
          match run.stop with
          | some (0x00, _, _) => idle.doneCmd run.cmd
          | some (status, detail, idx) => idle.failCmd run.cmd status detail idx
          | none =>
            let n := run.iter + 1
            if run.iters != 0 && n - run.startIter = run.iters then idle.doneCmd run.cmd
            else s.setRound r.val (some { rd with run := some { run with iter := n, next := some run.first, tries := [], rebays := [], marked := false } }))

/-! ## QUIESCE (R357) -/

/-- QUIESCE: rounds and their inner rounds (R464) asked to stop and undispatched commands refused at once; then it waits for the stalls' running commands,
and ends the micro-batches that were live at its issue. -/
def execQuiesce (c : CmdNo) (s : State) : Host.Outcome State Fault Refusal :=
  .next (match s.cmd c with
    | none => s
    | some x =>
      if x.op != 0x0B05 || !x.runs then s
      else
        let ks := (maskBits (x.p 0 8) 64).filter (fun k => (s.stall k).isSome)
        let s := if x.stage = 1 then s
          else
            let t := (maskBits (x.p 8 1) 8).foldl (fun t r => t.stopNested 0x00 8 r) s
            let t := ks.foldl (fun t k => t.quiesceIssued k c) t
            (t.workOn c).onCmd c (fun y => { y with stage := 1 })
        if ks.any (fun k => s.stallBusy k c) then s
        else
          (x.left.foldl (fun t m => t.endBatch (m / 256) (BitVec.ofNat 8 (m % 256))) s).doneCmd c)

/-! ## CAPS (Table 12-15) -/

/-- DV_VERSION (Table 10-4). -/
def dvVersion : Nat := 0x03010200

/-- A mask of the numbers below `n` for which a condition holds. -/
def bitMask (n : Nat) (f : Nat → Bool) : Nat := ((List.range n).filter f).foldl (fun m i => m + 2 ^ i) 0

/-- The claim words, the owner's claim on the module among them. -/
def State.claimWords (s : State) : List Nat :=
  let word := fun (res bay holder by_ : Nat) => pack [(24, 8, res), (16, 8, bay), (8, 8, holder), (0, 8, by_)]
  s.ck.claims.map (fun k => word k.res.toNat k.bay.toNat k.holder.toNat k.by_.toNat) ++
    (match s.ck.owner with | .nobody => [] | .host => [word 4 0xFF 7 0xFF] | .peer _ => [word 4 0xFF 8 0xFF])

def State.capsRecord (s : State) : List Byte :=
  bytesLE 128 (pack [(960, 64, bitMask 64 (fun b => !s.bayActive b)), (952, 8, s.actBays), (944, 8, bitMask 8 (fun g => (s.unit (0x2000 + g)).clerk = .fenced)),
    (936, 8, s.stallsLoaded.length), (928, 8, s.attachedQueues), (920, 8, bitMask 8 (fun r => (s.round r).isSome)), (912, 8, bitMask 8 s.roundRunning), (896, 16, 0x0804),
    (888, 8, 0xA1), (856, 32, dvVersion), (832, 24, s.ck.dropped.toNat), (768, 64, modid.toNat), (736, 32, s.boot.fwver.toNat), (720, 16, s.ck.owner.fid.toNat),
    (718, 2, s.ck.owner.kind), (704, 14, s.claimWords.length), (640, 64, bitMask 64 s.portUp), (592, 48, bitMask 48 (fun k => (s.stack k).degraded)), (512, 64, s.clk.time.toNat)]) ++
  s.claimWords.flatMap (bytesLE 4)

def execCaps (c : CmdNo) (s : State) : Host.Outcome State Fault Refusal :=
  .next (match s.begins c 0x0001 with
    | some x => (s.queryResult x (x.addr 0) s.capsRecord).doneCmd c
    | none => s.stopped c 0x0001)

end Sys2Proof.Machine
end

