-- ==== Sys2Proof/Machine/Host.lean ====
section
/-! DEFINITION. What the host reaches (chapters 10 and 11; R7 to R10, R223, R240, R280): mailboxes, register and BAR2 writes,
clearing reads, ownership, HDM ranges and IDE. -/

namespace Sys2Proof.Machine

/-- The state an outcome gives, or the state given where it stops. -/
def nextOr (s : State) (o : Host.Outcome State Fault Refusal) : State := match o with | .next t => t | _ => s

/-! ## Mailboxes (R307 to R312) -/

def State.h2c (s : State) (i : Nat) : Mailbox := tget ({} : Mailbox) s.mb.h2c i
def State.setH2c (s : State) (i : Nat) (m : Mailbox) : State := { s with mb := { s.mb with h2c := tset ({} : Mailbox) s.mb.h2c i m } }
def State.c2h (s : State) (i : Nat) : Mailbox := tget ({} : Mailbox) s.mb.c2h i
def State.setC2h (s : State) (i : Nat) (m : Mailbox) : State := { s with mb := { s.mb with c2h := tset ({} : Mailbox) s.mb.c2h i m } }
def State.holdReg (s : State) (i : Nat) : Option U32 := tget none s.mb.hold i
def State.setHoldReg (s : State) (i : Nat) (v : Option U32) : State := { s with mb := { s.mb with hold := tset none s.mb.hold i v } }

/-- The sender's write: over a word not yet taken it sets OVWR (R307). -/
def Mailbox.write (m : Mailbox) (w : U32) : Mailbox := { m with data := w, full := true, ovwr := m.ovwr || m.full }
/-- The receiver's read takes a word that waits, and sets EMPTIED (R307). -/
def Mailbox.read (m : Mailbox) : Mailbox := if m.full then { m with full := false, emptied := true } else m
/-- A write and a read on one edge: a collision while FULL is 1 (R307). -/
def Mailbox.both (m : Mailbox) (w : U32) : Mailbox := { m with data := w, full := true, coll := m.coll || m.full }

/-- A C2H mailbox takes an answer while FULL is 0: FULL rises, CAUSE bit 1 (R311). -/
def State.postC2h (s : State) (i : Nat) (v : U32) : State := (s.setC2h i { s.c2h i with data := v, full := true }).setCause 1

/-- The answer word of a request (Table 11-4). With no record written, LASTERR's index is free (log 5). -/
def State.answerOf (s : State) (w : U32) : U32 :=
  let arg := bits w.toNat 23 0
  match bits w.toNat 31 24 with
  | 1 => BitVec.ofNat 32 (pack [(24, 8, 1), (0, 24, arg)])
  | 2 => BitVec.ofNat 32 (pack [(24, 8, 2), (16, 8, s.actBays), (12, 4, s.hp.mode), (10, 2, s.ck.owner.kind), (9, 1, b1 s.boot.ready), (8, 1, b1 s.anyRound), (0, 8, s.attachedQueues)])
  | 3 => BitVec.ofNat 32 (pack [(24, 8, 3), (0, 24, match s.mg.log.getLast? with | some r => r.index.toNat | none => Config.free s.freeCtr 14 0)])
  | op => BitVec.ofNat 32 (pack [(24, 8, 0xFF), (0, 8, op)])

/-- Answer a request: in the C2H mailbox, or in its hold register while that mailbox is FULL (R312). -/
def State.answerRequest (s : State) (i : Nat) (w : U32) : State :=
  let a := s.answerOf w
  let t := { s with freeCtr := s.freeCtr + 1 }
  if (s.c2h i).full then t.setHoldReg i (some a) else t.postC2h i a

/-- R307: a write to H2C_DATA; with a Clerk read latched on the same edge while FULL, a collision. -/
def State.writeH2c (s : State) (i : Nat) (v : U32) (readLatched : Bool) : State :=
  let m := s.h2c i
  if m.full && readLatched && (s.holdReg i).isNone then (s.answerRequest i m.data).setH2c i (m.both v) else s.setH2c i (m.write v)

def execH2cWrite (i : Fin 4) (v : U32) (readLatched : Bool) (s : State) : Host.Outcome State Fault Refusal :=
  .next (s.viaIo (fun s => s.writeH2c i.val v readLatched))

/-- R312: the Clerk takes a word; EMPTIED rises, CAUSE bit 0 (R311). -/
def execMailboxRequestTake (i : Fin 4) (s : State) : Host.Outcome State Fault Refusal :=
  .next (
    let m := s.h2c i.val
    if !m.full || (s.holdReg i.val).isSome then s
    else
      let t := s.setH2c i.val m.read
      (if m.emptied then t else t.setCause 0).answerRequest i.val m.data)

/-- R312: the hold register posts once FULL is 0. -/
def execHoldRegisterPost (i : Fin 4) (s : State) : Host.Outcome State Fault Refusal :=
  .next (match s.holdReg i.val with
    | some a => if (s.c2h i.val).full then s else (s.setHoldReg i.val none).postC2h i.val a
    | none => s)

/-- A host read of C2H_DATA takes its word; an answer that the hold register keeps is posted on that edge (R307, R312). -/
def State.takeC2h (s : State) (i : Nat) : State :=
  let m := s.c2h i
  match s.holdReg i with
  | some a => if m.full then (s.setHoldReg i none).setC2h i (m.both a) else (s.setHoldReg i none).postC2h i a
  | none => s.setC2h i m.read

def execC2hRead (i : Fin 4) (s : State) : Host.Outcome State Fault Refusal :=
  .next (s.viaIo (fun s => (s.takeC2h i.val).answer 4 (s.c2h i.val).data.toNat))

/-- A W1C write of EMPTIED, COLL and OVWR; what hardware sets on that edge stays set (R10, R308). -/
def Mailbox.clearFlags (m : Mailbox) (w sets : BitVec 4) : Mailbox :=
  let stays := fun (b : Bool) (k : Nat) => b && (!w.getLsbD k || sets.getLsbD k)
  { m with emptied := stays m.emptied 3, coll := stays m.coll 2, ovwr := stays m.ovwr 1 }

/-- What takes place at a mailbox of an inner bank (R307 to R309). -/
def Mailbox.step (m : Mailbox) (w : U32) : MailStep → Mailbox
  | .pass => (m.write w).read
  | .write => m.write w
  | .read => m.read
  | .both => m.both w
  | .clear f sets => m.clearFlags f sets

/-- The receiver takes a word there, which it does only where FULL is 1 (R307 step 4). -/
def Mailbox.takes (m : Mailbox) : MailStep → Bool
  | .pass => true
  | .read | .both => m.full
  | .write | .clear _ _ => false

def execMillerMailboxWord (g : Fin 8) (toMiller : Bool) (box : Fin 2) (word : U32) (s : State) (step : MailStep := .pass) : Host.Outcome State Fault Refusal :=
  let k := 2 * g.val + box.val
  .next (if toMiller then { s with mb := { s.mb with toMiller := tset ({} : Mailbox) s.mb.toMiller k ((tget ({} : Mailbox) s.mb.toMiller k).step word step) } }
    else { s with mb := { s.mb with fromMiller := tset ({} : Mailbox) s.mb.fromMiller k ((tget ({} : Mailbox) s.mb.fromMiller k).step word step) } })

/-- The view of a unit that the entry carries reaches the other side (R421). -/
def State.passView (s : State) (toMgmt : Bool) (u : Nat) : State :=
  let x := s.unit u
  if !hasState u then s
  else if toMgmt then s.setUnit u { x with mgmt := x.clerk }
  else match x.mgmt with
    | .fenced => s.fence u
    | .suspect => s.makeSuspect u true
    | .active => if x.clerk = .active then s else s.activate u

/-- The management controller's request for SYNC_OUT: taken, or answered with the holder's code and reported (R346, Table
12-9). The report's KIND is not given: a free one of those Table 15-5 lists as sent (R12, log 21). -/
def State.ppsRequest (s : State) (box : Nat) (enable : Bool) : State :=
  if !enable then { s.unclaim 1 0xFF 1 with brd := { s.brd with syncOut := s.brd.syncOut && (s.holder 1 0xFF).any (fun c => c.holder != 1) } }
  else match s.holder 1 0xFF with
    | none => s.claim 1 0xFF 1 0xFF
    | some c =>
      let t := { s with mb := { s.mb with toMgmt := tset ({} : Mailbox) s.mb.toMgmt box ((tget ({} : Mailbox) s.mb.toMgmt box).step (BitVec.ofNat 32 c.holder.toNat) .pass) } }
      let (f, t) := t.fresh 15 box
      t.mgmtSend ([1, 2, 3, 5, 6].getD (f % 5) 6) 0 (bytesLE 1 c.holder.toNat)

/-- What the entry that a taken word names does (`entry`: of the word that the receiver takes, where it takes one). -/
def execMgmtMailboxWord (toMgmt : Bool) (box : Fin 4) (word : U32) (entry : MgmtEntry) (s : State) (step : MailStep := .pass) : Host.Outcome State Fault Refusal :=
  .next (
    let m := tget ({} : Mailbox) (if toMgmt then s.mb.toMgmt else s.mb.fromMgmt) box.val
    let t := if toMgmt then { s with mb := { s.mb with toMgmt := tset ({} : Mailbox) s.mb.toMgmt box.val (m.step word step) } }
      else { s with mb := { s.mb with fromMgmt := tset ({} : Mailbox) s.mb.fromMgmt box.val (m.step word step) } }
    if !m.takes step then t else
    match entry with
    | .record => t
    | .unitState u => t.passView toMgmt u.toNat
    | .pps e => if toMgmt then t else t.ppsRequest box.val e)

/-- A mask of the four mailboxes for which a condition holds. -/
def four (f : Nat → Bool) : Nat := bitMask 4 f

/-! ## Counters cleared by reading (R8, R10): `event`, one that is counted on the edge of the clear stays counted -/

/-- MB_BANK (Table 11-3). -/
def State.mbBank (s : State) : Nat :=
  pack [(16, 16, s.mb.dbStray.toNat), (8, 4, four (fun i => (s.c2h i).full)), (4, 4, four (fun i => (s.h2c i).emptied)), (0, 4, four (fun i => (s.h2c i).full))]

/-- What a cleared counter holds. -/
def cleared (w : Nat) (event : Bool) : BitVec w := if event then 1 else 0

/-- A read of MB_BANK clears DBSTRAY. -/
def execMbBankRead (s : State) (stray : Bool := false) : Host.Outcome State Fault Refusal :=
  .next (s.viaIo (fun s => ({ s with mb := { s.mb with dbStray := cleared 16 stray } } : State).answer 4 s.mbBank))

def execNotownerRead (s : State) (event : Bool := false) : Host.Outcome State Fault Refusal :=
  .next (s.viaIo (fun s => ({ s with hp := { s.hp with notOwner := cleared 32 event } } : State).answer 4 s.hp.notOwner.toNat))
def execLostreplyRead (s : State) (event : Bool := false) : Host.Outcome State Fault Refusal :=
  .next (s.viaIo (fun s => ({ s with hp := { s.hp with lostReply := cleared 32 event } } : State).answer 4 s.hp.lostReply.toNat))
def execAcceptsRead (q : Idx64) (s : State) (event : Bool := false) : Host.Outcome State Fault Refusal :=
  .next (s.viaIo (fun s => (s.setQueue q.val { s.queue q.val with accepts := cleared 32 event }).answer 4 (s.queue q.val).accepts.toNat))

/-! ## Ownership (R297, R298, R305) -/

/-- A CLAIM: held while READY is 0; taken when the module has no owner. -/
def State.hostClaims (s : State) : State :=
  if !s.boot.ready then { s with ck := { s.ck with heldClaim := true } }
  else if s.ck.owner = .nobody then (s.own .host).setCause 4 else s

/-- A write of CLAIM, with RELEASE too where the flag says so: judged against the owner as it stood. A peer's CLAIM latched on the
same edge finds the host the owner when its packet is judged, and is refused there (R297, R336). -/
def execHostClaim (alsoRelease : Bool) (peerSameEdge : Option Fid) (s : State) : Host.Outcome State Fault Refusal :=
  .next (match s.ck.owner, peerSameEdge with
    | .host, _ => if alsoRelease then s.hostOwnershipEnds else s
    | .nobody, _ => s.hostClaims
    | .peer _, _ => s)

def execHostRelease (s : State) : Host.Outcome State Fault Refusal := .next s.hostOwnershipEnds

/-! ## HDM ranges (R223, R286 to R289, R291) -/

def State.hdm (s : State) (n : Nat) : HdmRange := if n = 0 then s.hp.hdm0 else s.hp.hdm1
def State.setHdm (s : State) (n : Nat) (r : HdmRange) : State := { s with hp := if n = 0 then { s.hp with hdm0 := r } else { s.hp with hdm1 := r } }
def State.dec (s : State) (n : Nat) : HdmDecoder := if n = 0 then s.hp.dec0 else s.hp.dec1
def State.setDec (s : State) (n : Nat) (d : HdmDecoder) : State := { s with hp := if n = 0 then { s.hp with dec0 := d } else { s.hp with dec1 := d } }

/-- 256 MiB. -/
def hdmUnit : Nat := 2 ^ 28

/-- The result code of an apply of range `n` (R287, Table 10-5). -/
def State.hdmCode (s : State) (n : Nat) : Nat :=
  let r := s.hdm n
  let o := s.hdm (1 - n)
  let a := r.pendBase.toNat * hdmUnit
  let len := r.pendSize.toNat * hdmUnit
  if s.ck.owner != .host then 5
  else if (s.dec n).committed then 4
  else if len = 0 then 1
  else if !(inTier 1 a len || inTier 2 a len) then 2
  else if overlaps a len (o.actBase.toNat * hdmUnit) (o.actSize.toNat * hdmUnit) || 0x2000 < r.pendSize.toNat + o.actSize.toNat then 3
  else 0

/-- APPLYn: the pair becomes active, or ERRn takes the code. -/
def State.applyHdm (s : State) (n : Nat) : State :=
  let r := s.hdm n
  let k := s.hdmCode n
  s.setHdm n (if k = 0 then { r with actBase := r.pendBase, actSize := r.pendSize, err := 0 } else { r with err := BitVec.ofNat 4 k })

/-- APPLY0, then APPLY1. -/
def execHdmApply (a0 a1 : Bool) (s : State) : Host.Outcome State Fault Refusal :=
  .next (let t := if a0 then s.applyHdm 0 else s; if a1 then t.applyHdm 1 else t)

/-- The host commits a decoder: one way, the range's active size, which is not 0; a committed one stays as it is (R286). -/
def execHdmCommit (n : Fin 2) (commit : Bool) (hpa : U64) (size : Nat) (ways : Nat) (s : State) : Host.Outcome State Fault Refusal :=
  .next (
    let d := s.dec n.val
    if 2 < s.hp.mode then s
    else if !commit then s.setDec n.val { d with committed := false, error := false }
    else if d.committed then s
    else if ways = 1 && size != 0 && size = (s.hdm n.val).actSize.toNat * hdmUnit then s.setDec n.val { committed := true, error := false, hpaBase := hpa, size := size }
    else s.setDec n.val { d with error := true })

/-- The module address of a host physical address (R223). -/
def State.hdmAddr (s : State) (hpa : Nat) : Option Nat :=
  if 2 < s.hp.mode then none
  else [0, 1].findSome? (fun n =>
    let d := s.dec n
    if d.committed && d.hpaBase.toNat ≤ hpa && hpa < d.hpaBase.toNat + d.size then some ((s.hdm n).actBase.toNat * hdmUnit + (hpa - d.hpaBase.toNat)) else none)

/-- Lines that the snoop filter holds at most (R289). -/
def snoopLines : Nat := 1048576

/-- Admit a line to the snoop filter; a full one back-invalidates its oldest entry first (R289). -/
def State.admitLine (s : State) (a : Nat) : State :=
  if s.hp.snoop.contains a then s
  else
    let t := match s.hp.snoop with
      | old :: rest => if snoopLines ≤ s.hp.snoop.length then { s.emit (.backInval old) with hp := { s.hp with snoop := rest } } else s
      | [] => s
    { t with hp := { t.hp with snoop := t.hp.snoop ++ [a] } }

/-- A CXL.mem read of a line, with poison where it is poisoned (R214, R291); refused while its stream is insecure (R295). -/
def execHdmRead (hpa : U64) (cacheable : Bool) (s : State) : Host.Outcome State Fault Refusal :=
  match s.hdmAddr hpa.toNat with
  | none => .fault (.hdmNotDecoded hpa)
  | some a =>
    if !s.memOpen then .next s else
    let line := a / 64 * 64
    let t := { s with resp := s.readBytes line 64, respPoison := s.poisoned line 64 }
    .next (if cacheable && s.hp.mode ≤ 1 then t.admitLine line else t)

/-- A CXL.mem write of bytes of one line: a whole line clears poison, a part of a poisoned line is lost and its completion
carries poison (R211, R219, R291); refused while its stream is insecure (R295). -/
def execHdmWrite (hpa : U64) (bytes : List Byte) (s : State) : Host.Outcome State Fault Refusal :=
  match s.hdmAddr hpa.toNat with
  | none => .fault (.hdmNotDecoded hpa)
  | some a =>
    if !s.memOpen then .next s else
    let bs := bytes.take (64 - a % 64)
    .next { s.partialStore a bs with resp := [], respPoison := s.partPoisoned a bs.length }

/-! ## IDE (R295) -/

def State.ide (s : State) (k : Nat) : IdeStream := if k = 0 then s.hp.ide0 else s.hp.ide1
def State.setIde (s : State) (k : Nat) (v : IdeStream) : State := { s with hp := if k = 0 then { s.hp with ide0 := v } else { s.hp with ide1 := v } }

def execIdeIntegrityFailure (stream : Fin 2) (s : State) : Host.Outcome State Fault Refusal :=
  .next (if (s.ide stream.val).enabled then (s.setIde stream.val { s.ide stream.val with insecure := true }).note { cls := 3, code := 3, unit := cxlCode } else s)

/-! ## Register writes (R8 to R10, R240, R280, R298 to R301) -/

/-- BAR0 registers whose host writes need ownership (R299). -/
def ownerOnly (off : Nat) : Bool := off = 0x104 || (0x4000 ≤ off && off < 0x4200) || (0x5000 ≤ off && off < 0x5200)

/-- Bits [31:0] or [63:32] of a 64-bit register replaced. -/
def half (r : U64) (high : Bool) (v : Nat) : U64 := BitVec.ofNat 64 (if high then pack [(32, 32, v), (0, 32, r.toNat)] else pack [(32, 32, r.toNat / 2 ^ 32), (0, 32, v)])

/-- A register of queue `q` at offset `o` of its 64 bytes (Table 12-5, R325, R327). -/
def State.writeQueueReg (s : State) (q : Idx64) (o : Nat) (v : U32) (sets : Nat) : State :=
  let qu := s.queue q.val
  let set := fun (u : Queue) => if qu.enable || qu.drain then s else s.setQueue q.val u
  match o with
  | 0x00 => set { qu with qbase := half qu.qbase false v.toNat }
  | 0x04 => set { qu with qbase := half qu.qbase true v.toNat }
  | 0x08 => set { qu with rbase := half qu.rbase false v.toNat }
  | 0x0C => set { qu with rbase := half qu.rbase true v.toNat }
  | 0x10 =>
    let t := if v.getLsbD 21 then nextOr s (execRingerrClear q s (bit sets 21)) else s
    if qu.enable then (if v.getLsbD 31 then t else t.detach q.val)
    else if qu.drain then t
    else if v.getLsbD 31 then nextOr t (execQueueAttach q v t) else t.setQueue q.val ((t.queue q.val).setCtl v)
  | 0x14 => s.setQueue q.val { qu with qpi := BitVec.ofNat 16 v.toNat }
  | 0x20 => nextOr s (execRciWrite q v s)
  | _ => s

/-- The Ostler window (Tables 08-3 to 08-7). -/
def State.writeOstlerReg (s : State) (o : Nat) (v : U32) : State :=
  let k := s.ostSel.toNat
  if o = 0 then { s with ostSel := BitVec.ofNat 10 v.toNat }
  else if 808 ≤ k then s
  else if o = 0x104 then
    let t := if v.getLsbD 0 then nextOr s (execOstlerCommit (v.getLsbD 1) s) else s
    if v.getLsbD 2 then nextOr t (execOstlerClrcnt t) else t
  else if 0x180 ≤ o && o < 0x1C0 then
    let x := s.ostler k
    let i := (o - 0x180) / 2
    let put := fun (m : TMap (BitVec 12)) (i w : Nat) => if hasOffset k i then tset 0 m i (BitVec.ofNat 12 w) else m
    s.setOstler k { x with shadow := put (put x.shadow i (v.toNat % 65536)) (i + 1) (v.toNat / 65536) }
  else s

/-- The Abond window (Tables 09-7 and 09-13). -/
def State.writeAbondReg (s : State) (o : Nat) (v : U32) (sets : Nat) : State :=
  match o with
  | 0x000 => nextOr s (execFidWrite v s)
  | 0x004 => { s with ab := { s.ab with fidConf := s.ab.fidConf && (!v.getLsbD 2 || bit sets 2), nbrChg := s.ab.nbrChg && (!v.getLsbD 1 || bit sets 1) } }
  | 0x008 => { s with ab := { s.ab with portSel := BitVec.ofNat 6 v.toNat } }
  | 0x00C => { s with ab := { s.ab with rtIndex := BitVec.ofNat 16 v.toNat } }
  | 0x010 => nextOr s (execRtDataWrite v s)
  | 0x014 => { s with ab := { s.ab with engSel := BitVec.ofNat 2 v.toNat } }
  | 0x110 => nextOr s (execPortEnableWrite v s)
  | _ => s

/-- A word of the MSI-X table (Table 10-6); vectors now free to go are sent (R298, R301). -/
def State.writeMsix (s : State) (o : Nat) (v : U32) : State :=
  let e := tget ({} : MsixEntry) s.hp.msix (o / 16)
  let e' : MsixEntry := match o % 16 with
    | 0 => { e with addr := half e.addr false v.toNat }
    | 4 => { e with addr := half e.addr true v.toNat }
    | 8 => { e with data := v }
    | _ => { e with ctl := BitVec.ofNat 32 (v.toNat % 2) }
  { s with hp := { s.hp with msix := tset {} s.hp.msix (o / 16) e' } }.flushPba

/-- One aligned 32-bit write to BAR0 by its access codes (Tables 10-6, 10-7, 11-2, 11-3); `sets`: the W1C bits of the word that hardware sets
on the same edge, which stay set (R10). -/
def State.writeBar0 (s : State) (off : Nat) (v : U32) (sets : Nat) : State :=
  let stays := fun (b : Bool) (k : Nat) => b && (!v.getLsbD k || bit sets k)
  let clear := fun (m : Mailbox) => { m with coll := stays m.coll 2, ovwr := stays m.ovwr 1 }
  if off = 0x100 then { s with hp := { s.hp with cause := s.hp.cause &&& (~~~(BitVec.ofNat 6 v.toNat) ||| BitVec.ofNat 6 sets) } }
  else if off = 0x104 then { s with hp := { s.hp with mask := BitVec.ofNat 6 v.toNat } }
  else if 0x1000 ≤ off && off < 0x1020 then
    let i := (off - 0x1000) / 8
    if off % 8 = 0 then s.writeH2c i v false else s.setH2c i { clear (s.h2c i) with emptied := stays (s.h2c i).emptied 3 }
  else if 0x1040 ≤ off && off < 0x1060 then
    let i := (off - 0x1040) / 8
    if off % 8 = 0 then s else s.setC2h i (clear (s.c2h i))
  else if 0x1800 ≤ off && off < 0x1900 then nextOr s (execDoorbell (Fin.ofNat 64 ((off - 0x1800) / 4)) v s)
  else if 0x2000 ≤ off && off < 0x3000 then s.writeQueueReg (Fin.ofNat 64 ((off - 0x2000) / 64)) (off % 64) v sets
  else if 0x4000 ≤ off && off < 0x4200 then s.writeOstlerReg (off - 0x4000) v
  else if 0x5000 ≤ off && off < 0x5200 then s.writeAbondReg (off - 0x5000) v sets
  else if 0x6000 ≤ off && off < 0x6460 then s.writeMsix (off - 0x6000) v
  else s

/-- One 32-bit write to the Oligan DVSEC (Tables 10-3 and 10-4). -/
def State.writeDvsec (s : State) (off : Nat) (v : U32) : State :=
  let base := BitVec.ofNat 20 v.toNat
  let size := BitVec.ofNat 14 v.toNat
  match off with
  | 0x14 => if v.getLsbD 16 then nextOr s (execHostClaim (v.getLsbD 17) none s) else if v.getLsbD 17 then s.hostOwnershipEnds else s
  | 0x18 => nextOr s (execHdmApply (v.getLsbD 0) (v.getLsbD 1) s)
  | 0x20 => s.setHdm 0 { s.hdm 0 with pendBase := base }
  | 0x24 => s.setHdm 0 { s.hdm 0 with pendSize := size }
  | 0x28 => s.setHdm 1 { s.hdm 1 with pendBase := base }
  | 0x2C => s.setHdm 1 { s.hdm 1 with pendSize := size }
  | _ => s

/-- The host enables or disables an IDE stream, in containment or skid mode; enabling takes the keys that wait (R281, R294, R455), and vectors that
an insecure stream held back are sent (R301). -/
def State.enableIde (s : State) (k : Nat) (on skid : Bool) : State :=
  let x := { s.ide k with skid := skid }
  if !s.streamExists k then s
  else if !on then (s.setIde k { x with enabled := false }).flushPba
  else if x.inactive = [] then s.setIde k { x with enabled := true }
  else (s.setIde k { enabled := true, skid := skid, insecure := false, active := x.inactive, inactive := [] }).flushPba

/-- One 32-bit write to configuration space: command, BAR0 and BAR2 at the offsets of every PCIe function, MSI-X control and IDE
stream control in their capabilities (log 36). -/
def State.writeConfig (s : State) (off : Nat) (v : U32) : State :=
  let hp := s.hp
  let keep := fun (r : U64) (n : Nat) => BitVec.ofNat 64 (r.toNat / 2 ^ n * 2 ^ n)
  if off = 0x04 then { s with hp := { hp with command := BitVec.ofNat 16 v.toNat } }
  else if off = 0x10 then { s with hp := { hp with bar0 := keep (half hp.bar0 false v.toNat) 16 } }
  else if off = 0x14 then { s with hp := { hp with bar0 := half hp.bar0 true v.toNat } }
  else if off = 0x18 then { s with hp := { hp with bar2 := keep (half hp.bar2 false v.toNat) 28 } }
  else if off = 0x1C then { s with hp := { hp with bar2 := half hp.bar2 true v.toNat } }
  else if off = Config.msixCap then { s with hp := { hp with msixEnable := v.getLsbD 31, msixFnMask := v.getLsbD 30 } }.flushPba
  else if off = Config.ideCap + 12 then s.enableIde 0 (v.getLsbD 0) (v.getLsbD 1)
  else if off = Config.ideCap + 20 then s.enableIde 1 (v.getLsbD 0) (v.getLsbD 1)
  else s

/-- One 32-bit write to a space. -/
def State.writeWord (s : State) (space : RegSpace) (off : Nat) (v : U32) (sets : Nat) : State :=
  match space with
  | .bar0 => s.writeBar0 off v sets
  | .dvsec => s.writeDvsec off v
  | .config => s.writeConfig off v

/-! ## Register reads (R8, R10, Tables 10-3, 10-4, 10-6, 10-7, 11-2, 11-3, 12-5): WO and RS fields read as zero -/

/-- The identity registers (R2, Table 10-7). -/
def State.idReg (s : State) (off : Nat) : Nat :=
  if off = 0 then pack [(16, 16, 0x0804), (8, 8, 0xA1)]
  else if off = 4 then dvVersion
  else if off = 8 then s.boot.fwver.toNat
  else if off = 0x10 then modid.toNat % 2 ^ 32
  else if off = 0x14 then modid.toNat / 2 ^ 32
  else if off = 0x18 then pack [(24, 8, s.actBays), (20, 4, s.hp.mode), (15, 5, s.hp.width), (13, 2, s.ck.owner.kind), (12, 1, b1 s.boot.ready)]
  else 0

/-- A word of a queue's registers (Table 12-5). -/
def State.queueReg (s : State) (q o : Nat) : Nat :=
  let x := s.queue q
  if o = 0 then x.qbase.toNat % 2 ^ 32
  else if o = 4 then x.qbase.toNat / 2 ^ 32
  else if o = 8 then x.rbase.toNat % 2 ^ 32
  else if o = 0xC then x.rbase.toNat / 2 ^ 32
  else if o = 0x10 then
    pack [(31, 1, b1 x.enable), (30, 1, b1 x.cohwake), (28, 2, x.loc.toNat), (24, 4, x.csize.toNat), (23, 1, b1 (s.fullRight x)), (22, 1, b1 x.drain), (21, 1, b1 x.ringerr), (20, 1, b1 x.noroom)]
  else if o = 0x14 then x.qpi.toNat
  else if o = 0x18 then x.qci.toNat
  else if o = 0x1C then x.rpi.toNat
  else if o = 0x20 then x.rci.toNat
  else if o = 0x24 then x.accepts.toNat
  else if o = 0x28 then (if x.loc = 3 then x.attfid.toNat else 0)
  else 0

/-- A word of a host mailbox's registers (Table 11-3). -/
def Mailbox.stat (m : Mailbox) (h2c : Bool) : Nat :=
  pack [(3, 1, b1 (h2c && m.emptied)), (2, 1, b1 m.coll), (1, 1, b1 m.ovwr), (0, 1, b1 m.full)]

/-- A word of the MSI-X table (Table 10-6). -/
def State.msixWord (s : State) (o : Nat) : Nat :=
  let e := tget ({} : MsixEntry) s.hp.msix (o / 16)
  if o % 16 = 0 then e.addr.toNat % 2 ^ 32 else if o % 16 = 4 then e.addr.toNat / 2 ^ 32 else if o % 16 = 8 then e.data.toNat else e.ctl.toNat

/-- One aligned 32-bit read of BAR0: its value, and what it takes or clears; `event` as for the counters above. -/
def State.readBar0 (s : State) (off : Nat) (event : Bool) : Nat × State :=
  if off < 0x100 then (s.idReg off, s)
  else if off = 0x100 then (s.hp.cause.toNat, s)
  else if off = 0x104 then (s.hp.mask.toNat, s)
  else if off = 0x108 then (s.hp.notOwner.toNat, { s with hp := { s.hp with notOwner := cleared 32 event } })
  else if off = 0x10C then (s.hp.lostReply.toNat, { s with hp := { s.hp with lostReply := cleared 32 event } })
  else if 0x1000 ≤ off && off < 0x1020 then (if off % 8 = 0 then 0 else (s.h2c ((off - 0x1000) / 8)).stat true, s)
  else if 0x1040 ≤ off && off < 0x1060 then
    let i := (off - 0x1040) / 8
    if off % 8 = 0 then ((s.c2h i).data.toNat, s.takeC2h i) else ((s.c2h i).stat false, s)
  else if off = 0x1080 then (s.mbBank, { s with mb := { s.mb with dbStray := cleared 16 event } })
  else if 0x1800 ≤ off && off < 0x1900 then ((tget (0 : U16) s.mb.db ((off - 0x1800) / 4)).toNat, s)
  else if 0x2000 ≤ off && off < 0x3000 then
    let q := (off - 0x2000) / 64
    (s.queueReg q (off % 64), if off % 64 = 0x24 then s.setQueue q { s.queue q with accepts := cleared 32 event } else s)
  else if off = 0x4000 then (s.ostSel.toNat, s)
  else if 0x4100 ≤ off && off < 0x4200 then s.readOstler (off - 0x4100)
  else if 0x5000 ≤ off && off < 0x5200 then s.readAbond (off - 0x5000)
  else if 0x6000 ≤ off && off < 0x6460 then (s.msixWord (off - 0x6000), s)
  else if 0x7000 ≤ off && off < 0x7010 then (bits s.hp.pba.toNat (8 * (off - 0x7000) + 31) (8 * (off - 0x7000)), s)
  else (0, s)

/-- A word of the Oligan DVSEC (Tables 10-3 and 10-4). Its place in the list of capabilities is not given (log 36). -/
def State.readDvsec (s : State) (off : Nat) : Nat :=
  if off = 0 then pack [(20, 12, Config.capNext 0), (16, 4, 1), (0, 16, 0x0023)]
  else if off = 4 then pack [(20, 12, 0x030), (16, 4, 1), (0, 16, 0x1E9C)]
  else if off = 8 then 1
  else if off = 0xC then dvVersion
  else if off = 0x10 then pack [(7, 1, b1 (decide (s.hp.mode ≤ 1))), (6, 1, b1 (decide (s.hp.mode ≤ 2))), (4, 2, 2), (0, 4, s.hp.mode)]
  else if off = 0x14 then (if s.ck.owner.kind = 2 then s.ck.owner.fid.toNat else 0)
  else if off = 0x18 then pack [(8, 4, s.hp.hdm1.err.toNat), (4, 4, s.hp.hdm0.err.toNat), (2, 2, s.ck.owner.kind)]
  else if off = 0x20 then s.hp.hdm0.pendBase.toNat
  else if off = 0x24 then s.hp.hdm0.pendSize.toNat
  else if off = 0x28 then s.hp.hdm1.pendBase.toNat
  else if off = 0x2C then s.hp.hdm1.pendSize.toNat
  else 0

/-- The headers of a DVSEC of CXL 3.1, whose vendor is 0x1E98 (R296, log 36): the extended capability header, and header 1 of DVSEC `d` of a length. -/
def dvsecHeader (next : Nat) : Nat := pack [(20, 12, Config.capNext next), (16, 4, 1), (0, 16, 0x0023)]
def dvsecHeader1 (d length : Nat) : Nat := pack [(20, 12, length), (16, 4, Config.dvsecRev d), (0, 16, 0x1E98)]

/-- Words of the Flex Bus Port DVSEC (R296, log 36): CXL.cache, CXL.io and CXL.mem supported, and those in use by the mode of the port. -/
def State.flexDvsec (s : State) (o : Nat) : Nat :=
  if o = 0 then dvsecHeader 3
  else if o = 4 then dvsecHeader1 7 0x20
  else if o = 8 then pack [(29, 1, 1), (21, 1, 1), (18, 1, 1), (17, 1, 1), (16, 1, 1), (0, 16, 7)]
  else if o = 0xC then
    let m := s.hp.mode
    pack [(29, 1, b1 (decide (m ≤ 1))), (21, 1, b1 (m = 2)), (18, 1, b1 (decide (m ≤ 2))), (17, 1, 1), (16, 1, b1 (decide (m ≤ 2))), (0, 16, Config.dvsecWord 7 3)]
  else Config.dvsecWord 7 (o / 4) % 2 ^ 32

/-- Words of the Register Locator DVSEC: where the component registers lie is the device's own (R296, log 36). -/
def locatorDvsec (o : Nat) : Nat :=
  if o = 0 then dvsecHeader 4
  else if o = 4 then dvsecHeader1 8 0x14
  else if o = 8 then 8
  else Config.dvsecWord 8 (o / 4) % 2 ^ 32

/-- Words of the CXL Devices DVSEC: what it reports (R296), and the size and base of each range (R287); the places of the fields are those of
CXL 3.1 (log 36). -/
def State.cxlDvsec (s : State) (o : Nat) : Nat :=
  let size := fun (r : HdmRange) => r.actSize.toNat * 2 ^ 28
  let base := fun (r : HdmRange) => r.actBase.toNat * 2 ^ 28
  if o = 0 then dvsecHeader 2 else if o = 4 then dvsecHeader1 0 0x3C else
  let low := fun (r : HdmRange) => pack [(28, 4, size r / 2 ^ 28), (1, 1, b1 (r.actSize != 0)), (0, 1, b1 (r.actSize != 0))]
  if o = 8 then pack [(24, 3, 1), (23, 1, 1), (20, 2, 2), (18, 1, 1), (17, 1, 1), (16, 1, 1), (0, 16, 0)]
  else if o = 0x14 then pack [(24, 8, 2), (16, 4, 1)]
  else if o = 0x18 then size s.hp.hdm0 / 2 ^ 32
  else if o = 0x1C then low s.hp.hdm0
  else if o = 0x20 then base s.hp.hdm0 / 2 ^ 32
  else if o = 0x24 then base s.hp.hdm0 % 2 ^ 32
  else if o = 0x28 then size s.hp.hdm1 / 2 ^ 32
  else if o = 0x2C then low s.hp.hdm1
  else if o = 0x30 then base s.hp.hdm1 / 2 ^ 32
  else if o = 0x34 then base s.hp.hdm1 % 2 ^ 32
  else 0

/-- The control and the state of an IDE stream as the capability shows them (log 36): 2 secure, 0 insecure. -/
def IdeStream.control (x : IdeStream) : Nat := pack [(1, 1, b1 x.skid), (0, 1, b1 x.enabled)]
def IdeStream.status (x : IdeStream) : Nat := if x.enabled && !x.insecure then 2 else 0

/-- A word of configuration space (R296): the header, and the capabilities at the offsets of log 36. Capabilities that the part lacks read as
zero, as nothing there (R281). -/
def State.readConfig (s : State) (off : Nat) : Nat :=
  if off = 0 then pack [(16, 16, 0x0F08), (0, 16, 0x1E9C)]
  else if off = 4 then s.hp.command.toNat
  else if off = 8 then pack [(8, 24, 0x120000), (0, 8, 0xA1)]
  else if off = 0x10 then s.hp.bar0.toNat % 2 ^ 32 + 4
  else if off = 0x14 then s.hp.bar0.toNat / 2 ^ 32
  else if off = 0x18 then s.hp.bar2.toNat % 2 ^ 32 + 12
  else if off = 0x1C then s.hp.bar2.toNat / 2 ^ 32
  else if off = Config.msixCap then pack [(31, 1, b1 s.hp.msixEnable), (30, 1, b1 s.hp.msixFnMask), (16, 11, 69), (8, 8, Config.capNext 1), (0, 8, 0x11)]
  else if off = Config.msixCap + 4 then 0x6000
  else if off = Config.msixCap + 8 then 0x7000
  else if off = Config.ideCap then pack [(20, 12, Config.capNext 5), (16, 4, 1), (0, 16, 0x0030)]
  else if off = Config.ideCap + 4 then 1
  else if off = Config.ideCap + 8 then 0
  else if off = Config.ideCap + 12 then (s.ide 0).control
  else if off = Config.ideCap + 16 then (s.ide 0).status
  else if off = Config.ideCap + 20 then (s.ide 1).control
  else if off = Config.ideCap + 24 then (s.ide 1).status
  else if Config.cxlDvsec ≤ off && off < Config.cxlDvsec + 0x3C then s.cxlDvsec (off - Config.cxlDvsec)
  else if Config.flexDvsec ≤ off && off < Config.flexDvsec + 0x20 then s.flexDvsec (off - Config.flexDvsec)
  else if Config.locatorDvsec ≤ off && off < Config.locatorDvsec + 0x14 then locatorDvsec (off - Config.locatorDvsec)
  else 0

/-- One 32-bit read of a space. -/
def State.readWord (s : State) (space : RegSpace) (off : Nat) (event : Bool) : Nat × State :=
  match space with
  | .bar0 => s.readBar0 off event
  | .dvsec => (s.readDvsec off, s)
  | .config => (s.readConfig off, s)

/-- A read of 4 or 8 bytes; any other alignment reads as zero (R300). One of 8 bytes is one access: the flags beside a C2H_DATA are those before it
is taken (R310). -/
def State.readRegs (s : State) (space : RegSpace) (off len : Nat) (sets : Nat) : State :=
  if !(len = 4 || len = 8) || off % len != 0 then s.answer len 0
  else
    let (v, t) := s.readWord space off (sets % 2 ^ 32 != 0)
    if len = 4 then t.answer 4 v
    else
      let mail := space = .bar0 && 0x1040 ≤ off && off < 0x1060
      let (w, u) := (if mail then s else t).readWord space (off + 4) (sets / 2 ^ 32 != 0)
      (if mail then t else u).answer 8 (v + w * 2 ^ 32)

/-- The flags that a write of an H2C_DATA sets on its edge: OVWR over a word not yet taken (R307), which a W1C bit of the same access leaves set
(R10, R310). -/
def State.setByWrite (s : State) (space : RegSpace) (off : Nat) : Nat :=
  if space = .bar0 && 0x1000 ≤ off && off < 0x1020 && off % 8 = 0 && (s.h2c ((off - 0x1000) / 8)).full then 2 else 0

/-- A write of 4 or 8 bytes; any other alignment writes nothing (R300). Of a write by a host that is not the owner, the words that need ownership
are discarded, and the write counts once (R299). -/
def State.writeRegs (s : State) (space : RegSpace) (off len : Nat) (v : U64) (sets : Nat) : State :=
  if !(len = 4 || len = 8) || off % len != 0 then s
  else
    let kept := fun (o : Nat) => !(space = .bar0 && ownerOnly o && s.ck.owner != .host)
    let whole := kept off && (len = 4 || kept (off + 4))
    let t := if whole then s else { s with hp := { s.hp with notOwner := satAdd s.hp.notOwner 1 } }
    let t := if kept off then t.writeWord space off (BitVec.ofNat 32 v.toNat) (sets % 2 ^ 32) else t
    if len = 8 && kept (off + 4) then t.writeWord space (off + 4) (BitVec.ofNat 32 (v.toNat / 2 ^ 32)) (sets / 2 ^ 32 ||| s.setByWrite space off) else t

/-- REGISTER_WRITE, an access to a register by its access codes (R8): a write of a value, or with none a read. Registers that have a command
of their own do here what that command does. `sets`: bits that hardware sets, and for a read whether it counts an event, on the same
edge (R10). Configuration requests are answered also while the link stream is insecure (log 63). -/
def execRegisterWrite (space : RegSpace) (off len : Nat) (v : Option U64) (s : State) (sets : U64 := 0) : Host.Outcome State Fault Refusal :=
  .next (if space = .bar0 && !s.ioOpen then s
    else match v with
    | some w => s.writeRegs space off len w sets.toNat
    | none => s.readRegs space off len sets.toNat)

/-! ## BAR2 (R302, R303) -/

/-- Where an access of `n` bytes to a queue window lies in the command ring of an attached or draining queue of LOC 2: none elsewhere. -/
def State.bar2Addr (s : State) (off n : Nat) : Option Nat :=
  let qu := s.queue (off / 0x400000)
  let o := off % 0x400000
  if (qu.enable || qu.drain) && qu.loc = 2 && o + n ≤ min 0x400000 (64 * qu.ring) then some (qu.qbase.toNat + o) else none

/-- An access to a queue window: a write of bytes, or with `read` a read of that many. It reaches the command ring byte for byte; where nothing
is mapped a read returns zero and a write is counted in NOTOWNER. In service mode BAR2 is not decoded (R284). -/
def execBar2Write (off : BitVec 28) (bytes : List Byte) (s : State) (read : Option Nat := none) : Host.Outcome State Fault Refusal :=
  .next (s.viaIo (fun s =>
    if s.hp.mode = 5 then s
    else match read, s.bar2Addr off.toNat (read.getD bytes.length) with
    | some n, some a => { s with resp := s.readBytes a n, respPoison := s.poisoned a n }
    | some n, none => s.answer n 0
    | none, some a => s.partialStore a bytes
    | none, none => { s with hp := { s.hp with notOwner := satAdd s.hp.notOwner 1 } }))

end Sys2Proof.Machine
end

