-- ==== Sys2Proof/Machine/Reset.lean ====
section
/-! DEFINITION. The resets of Table 10-8 (R298, R304 to R306, R383, R474). Each takes its effects as it arrives, and is in progress until its
time: a conventional or a module reset until the link is up, the others for a free time of at most 100 ms (log 37). -/

namespace Sys2Proof.Machine

/-! ## Resets that reach the port (R304) -/

/-- The part that these resets share: host-memory queues detached, the host mailbox bank, DBSTRAY and its hold registers cleared, a CLAIM
that waits for READY withdrawn, the host's ownership ended on the edge that has reset the interrupt registers (R298). -/
def State.portResetTail (s : State) : State :=
  let t := s.detachHostQueues
  let t := { t with mb := { t.mb with h2c := [], c2h := [], hold := [], dbStray := 0 } }
  ({ t with ck := { t.ck with heldClaim := false } } : State).hostOwnershipEnds

/-- The port and its configuration at reset values, NOTOWNER and LOSTREPLY kept. -/
def HostPort.conventional (h : HostPort) : HostPort := { notOwner := h.notOwner, lostReply := h.lostReply }

def State.conventional (s : State) : State := { s with hp := s.hp.conventional }.portResetTail

/-- Whether a low pulse of MOD_RESET_N or PERST_N is taken: never below 1 µs, always from 100 µs, between them a free choice
(R474, log 5). -/
def State.pulseTaken (s : State) (lowNs pin : Nat) : Bool × State :=
  if lowNs < 1000 then (false, s)
  else if 100000 ≤ lowNs then (true, s)
  else let (f, t) := s.fresh 16 pin; (f % 2 = 1, t)

def execConventionalReset (cause : ConvCause) (s : State) : Host.Outcome State Fault Refusal :=
  .next (match cause with
    | .perst lowNs => let (b, t) := s.pulseTaken lowNs 0; if b then t.conventional else t
    | .hotReset => s.conventional
    | .linkDown => s.conventional)

/-- A reset of the port is in progress (R306). -/
def State.portReset (s : State) : Option PortReset :=
  match s.hp.resetting with
  | some r => if s.reached r.until_ then none else some r
  | none => none

/-- A function-level or CXL Reset begins: done within 100 ms of its arrival (Table 10-8). -/
def State.beginReset (s : State) (cxl ended : Bool) : State :=
  let (f, t) := s.fresh 17 0
  { t with hp := { t.hp with resetting := some { cxl := cxl, until_ := t.now + f % 100000001, ended := ended } } }

/-- FLR: the CXL.io function state alone; HDM, IDE, the queue cache and the snoop filter stay (Table 10-8). -/
def HostPort.flr (h : HostPort) : HostPort :=
  { h with cause := 0, mask := 0, pba := 0, msix := [], msixEnable := false, msixFnMask := false, bar0 := 0, bar2 := 0, command := 0 }

/-- One that arrives while any reset is in progress is merged into it: no reset has a narrower effect (R306). -/
def execFunctionLevelReset (s : State) : Host.Outcome State Fault Refusal :=
  .next (if !s.hp.linkUp || s.portReset.isSome then s
    else ({ s with hp := s.hp.flr } : State).portResetTail.beginReset false (s.ck.owner = .host))

/-- Every loaded stall quiesced as QUIESCE does (R304, R357). -/
def State.quiesceAll (s : State) : State := (s.stallsLoaded.foldl (fun t k => t.startQuiesce k.1) s).settleQuiesce

/-- What a CXL Reset does: as conventional but without retraining, and every stall quiesced (R357). -/
def State.cxlReset (s : State) : State :=
  ({ s with hp := { s.hp.conventional with linkUp := s.hp.linkUp, mode := s.hp.mode, width := s.hp.width } } : State).portResetTail.quiesceAll

/-- CXL Reset. Into a CXL Reset in progress it is merged; a function-level reset in progress takes its wider effect, completes when that
reset completes, and has ended the host's ownership where either has; one that arrives before the link is up quiesces the stalls,
which the reset in progress does not (R306, log 37). -/
def execCxlReset (s : State) : Host.Outcome State Fault Refusal :=
  .next (if !s.hp.linkUp then s.quiesceAll
    else match s.portReset with
    | some r =>
      if r.cxl then s
      else
        let t := s.cxlReset
        let t := if r.ended then t.setCause 4 else t
        { t with hp := { t.hp with resetting := some { r with cxl := true } } }
    | none => s.cxlReset.beginReset true (s.ck.owner = .host))

/-! ## Module reset (Table 10-8, R471, R474) -/

/-- A stack's counts that a reset leaves: those since power-up, of the stack's life, and its spares (Table 07-7). -/
def Stack.kept (x : Stack) : Stack :=
  { corr := x.corr, uncorr := x.uncorr, fieldRows := x.fieldRows, rowsUsed := x.rowsUsed, tsvSpared := x.tsvSpared, tsvLeft := x.tsvLeft, degraded := x.degraded, unlisted := x.unlisted, testRows := x.testRows, tsv := x.tsv, tsvOut := x.tsvOut }

/-- The record index at the next block of 256 (R418). -/
def blockAfter (i : U32) : U32 := if i.toNat % 256 = 0 then i else BitVec.ofNat 32 ((i.toNat / 256 + 1) * 256)

/-- T0 may be taken: input power good, the management controller running, ABREF present (R445, R473, R478). -/
def State.t0Ready (s : State) : Bool := s.brd.pg && s.brd.mgmtRun && s.brd.abrefOk

/-- Everything of the part starts again from its reset value. What stays: the queue of waiting commands and what is outside
(host memory, the answer of the last read, what left the part, the count of free values); module time; package flash; pins
and power; the management controller's own state (log 20); the stacks' kept counts. The counts of residency run from now (R408). -/
def State.moduleReset (s : State) : State :=
  { pending := s.pending, freeCtr := s.freeCtr, resp := s.resp, respPoison := s.respPoison, out := s.out, hostMem := s.hostMem
    clk := s.clk, flash := s.flash
    brd := { s.brd with resetHeld := false, trip := false, powered := false, syncOut := false, syncFall := none }
    boot := { mgmtDigest := s.boot.mgmtDigest, t0 := if s.t0Ready then some s.now else none }
    stackTab := s.stackTab.foldl (fun m x => tset {} m x.1 x.2.kept) []
    pw := (List.range 141).foldl (fun m u => tset {} m u { lastTick := s.clk.ticks, idleFrom := s.now }) []
    mg := { s.mg with log := [], nextIndex := blockAfter s.mg.nextIndex } }

/-- Step 3 of the boot chain after the region is read: TRIES and PENDING as it writes them, the candidates that are rejected already, and the
others in order. A pending slot that is not the committed one is tried at most twice (R446). -/
def State.pointed (s : State) : State × List Nat × List Nat :=
  let p := s.flash.ptr
  let com := s.flash.committed.val
  match p.pending with
  | some k =>
    if k.val = com then (s, [], [com, 1 - com])
    else if p.tries < 2 then ({ s with flash := s.flash.setPtr (fun p => { p with tries := p.tries + 1 }) }, [], [k.val, com])
    else
      let t := { s with flash := s.flash.setPtr (fun p => { p with pending := none, tries := 0 }) }
      (t.secRecord 6 [(120, 8, k.val), (112, 8, p.tries)], [k.val], [com, 1 - com])
  | none => (s, [], [com, 1 - com])

/-- The boot chain runs: it has a T0, and has not ended. -/
def State.booting (s : State) : Bool := s.boot.t0.isSome && !s.boot.ready && !s.boot.halted && !s.boot.failed

/-- What a boot chain that is cut short leaves: the writes of step 3, which ends between 4 and 22 ms after T0, whether it had come then being
free; they precede step 4 (R446, Table 16-4, log 38). -/
def State.cutBoot (s : State) : State :=
  match s.boot.t0 with
  | some t0 =>
    if !s.booting || !s.brd.pg || !s.reached (t0 + 4000000) then s
    else if s.reached (t0 + 22000000) then s.pointed.1
    else let (f, t) := s.fresh 23 0; if f % 2 = 0 then t else t.pointed.1
  | none => s

/-- A module reset that releases a thermal trip changes TRIP (R482). -/
def State.takeReset (s : State) : State := if s.brd.trip then s.cutBoot.moduleReset.emit .ibi else s.cutBoot.moduleReset

/-- MODULE_RESET: a pulse on MOD_RESET_N, or the reset that FW_ACTIVATE with NOW asked for (R458), which a thermal trip takes: the module resumes only through
MOD_RESET_N. A pulse during a thermal trip is held (R383). -/
def execModuleReset (lowNs : Nat) (s : State) : Host.Outcome State Fault Refusal :=
  .next (if !s.brd.pg then s
    else if s.boot.nowResetAt.isSome && !s.brd.trip then s.takeReset
    else
      let (b, t) := s.pulseTaken lowNs 1
      if !b then t else if t.brd.trip then { t with brd := { t.brd with resetHeld := true } } else t.takeReset)

def execHeldModuleReset (hottest : Int) (s : State) : Host.Outcome State Fault Refusal :=
  .next (if s.brd.resetHeld && decide (hottest < 90) then s.takeReset else s)

end Sys2Proof.Machine
end

