-- ==== Sys2Proof/Machine/Boot.lean ====
section
/-! DEFINITION. The boot chain (chapter 16, R437 to R452, R459): one step holds what the chain does between T0 and its end. -/

namespace Sys2Proof.Machine

/-! ## Choosing the image (R446) -/

/-- What step 3 decided: the state, the image (2 recovery; none: the recovery image fails too), the rejected candidates. -/
structure Choice where
  state : State
  slot : Option Nat
  rejected : List Nat
deriving DecidableEq, Repr

/-- Why a candidate does not boot: the fields of its record, with code 1 or 2. A slot that is not valid fails no check of
R451 by that alone: its check code is free (log 5). -/
def State.candidateFails (s : State) (slot : Nat) : Option (Nat × List (Nat × Nat × Nat)) :=
  match imgFails (s.slotReader slot) (slotSize slot) with
  | some f => some (1, [(120, 8, slot), (112, 8, f.1), (104, 8, f.2)])
  | none =>
    let svn := (imgSvn (s.slotReader slot)).toNat
    if !s.flash.ptr.valid slot then some (1, [(120, 8, slot), (112, 8, 0xFF), (104, 8, 1 + Config.free s.freeCtr 17 slot % 5)])
    else if svn < s.flash.counter.toNat then some (2, [(120, 8, slot), (72, 32, svn), (40, 32, s.flash.counter.toNat)])
    else none

/-- The candidates in order; when none boots, the recovery image, verified without the SVN check. -/
def State.tryCandidates (s : State) (rejected : List Nat) : List Nat → Choice
  | slot :: rest =>
    match s.candidateFails slot with
    | none => ⟨s, some slot, rejected⟩
    | some (code, fs) => (s.secRecord code fs).tryCandidates (rejected ++ [slot]) rest
  | [] =>
    match imgFails (s.slotReader 2) (slotSize 2) with
    | none => ⟨s.secRecord 7 [(120, 8, rejected.length)], some 2, rejected⟩
    | some f => ⟨s.secRecord 1 [(120, 8, 2), (112, 8, f.1), (104, 8, f.2)], none, rejected⟩

/-- Step 3 after the region is read. -/
def State.chooseImage (s : State) : Choice := s.pointed.1.tryCandidates s.pointed.2.1 s.pointed.2.2

/-! ## Records and lists applied (steps 5 and 6) -/

/-- Offset of the replay-protected region; COUNTER and COMMITTED come first, then the two lists (Table 16-2, log 9). -/
def regionBase : Nat := 0x110000
def fenceListOff : Nat := regionBase + 5
def repairListOff : Nat := fenceListOff + 1536

/-- FENCELIST as the region holds it: a free entry has unit code 0xFFFF, and the index that the part left test with. -/
def State.fenceListBytes (s : State) : List Byte :=
  (List.range 256).flatMap (fun i =>
    match s.flash.fenceList[i]? with
    | some e => bytesLE 2 e.1.toNat ++ bytesLE 4 e.2.toNat
    | none => bytesLE 2 0xFFFF ++ s.readFlash (fenceListOff + 6 * i + 2) 4)

/-- REPAIRLIST as the region holds it (log 12). -/
def State.repairListBytes (s : State) : List Byte :=
  (List.range 6144).flatMap (fun i =>
    match s.flash.repairList[i]? with
    | some e => bytesLE 1 (e.getD 0 0) ++ bytesLE 2 (e.getD 1 0) ++ bytesLE 4 (e.getD 2 0) ++ bytesLE 1 (e.getD 3 0)
    | none => s.readFlash (repairListOff + 8 * i) 8)

/-- A unit on the field fence list comes up FENCED in both views, with the state that its fence gives it and no event (R424, R445). -/
def State.comeUpFenced (s : State) (u : Nat) : State :=
  let t := s.setUnit u { s.unit u with clerk := .fenced, mgmt := .fenced, last := 2 }
  match unitKind u with
  | 1 => t.fencedBayOff (unitIndex u)
  | 3 => t.setPort (unitIndex u) { t.port (unitIndex u) with fenced := true }
  | _ => t

/-- The rows that the test record maps out, by stack and bank, and those of the repair list are spared; those spared while the list was
full are not (R221, Table 16-2). -/
def State.applyRepairs (s : State) (rows : List (Nat × Nat)) : State :=
  let t := s.stackTab.foldl (fun t x => t.setStack x.1 { x.2 with unlisted := [], testRows := [], rowsUsed := 0 }) s
  let t := rows.foldl (fun t r =>
    let x := t.stack r.1
    let banks := x.testRows ++ [r.2]
    t.setStack r.1 { x with testRows := banks, rowsUsed := BitVec.ofNat 16 (max x.rowsUsed.toNat (banks.filter (· = r.2)).length) }) t
  s.flash.repairList.foldl (fun t e =>
    let k := e.getD 0 48
    let x := t.stack k
    t.setStack k { x with rowsUsed := BitVec.ofNat 16 (max x.rowsUsed.toNat (e.getD 3 0 + 1)) }) t

/-- The first test record that is not accepted (R444). -/
def badTestRecord : Option Nat := (List.range 5).find? (fun r => Config.testRecordCheck r != 0)

/-- R449: the Clerk compares the running management component with the committed slot's, and restarts the controller into it. -/
def State.checkMgmt (s : State) : State :=
  let com := s.flash.committed.val
  let d : U384 := BitVec.ofNat 384 (s.slotMgmt com)
  if s.boot.mgmtDigest = d then s
  else ({ s with boot := { s.boot with mgmtDigest := d } } : State).secRecord 11 [(120, 8, com)]

/-! ## Measurements M0 to M5 (R452) -/

def State.measureBoot (s : State) (slot tries : Nat) (rejected : List Nat) : State :=
  { s with boot := { s.boot with
      m0 := extend 0 (bytesLE 4 Config.romVersion.toNat ++ [2])
      m1 := extend 0 (bytesLE 48 s.boot.mgmtDigest.toNat)
      m2 := extend 0 (sha384 (s.slotReader slot 0 512))
      m3 := (List.range 5).foldl (fun m r => extend m (sha384 (Config.testRecord r))) 0
      m4 := extend 0 (bytesLE 4 s.flash.counter.toNat ++ bytesLE 1 s.flash.committed.val ++ sha384 s.fenceListBytes ++ sha384 s.repairListBytes)
      m5 := extend 0 (bytesLE 1 slot ++ bytesLE 1 tries ++ rejected.map (BitVec.ofNat 8)) } }

/-! ## The chain (R445) -/

/-- A halted boot: every die but the Clerk island is held in reset, READY stays 0 (R447). -/
def State.haltBoot (s : State) : State := { s with boot := { s.boot with halted := true, ready := false }, brd := { s.brd with powered := false } }

/-- R459: on the edge of READY after booting a pending slot, the slot is committed. -/
def State.commitSlot (s : State) (slot : Nat) (svn : U32) : State :=
  if s.flash.ptr.pends slot && s.flash.committed.val != slot then
    let f := { s.flash with committed := if slot = 0 then 0 else 1, counter := BitVec.ofNat 32 (max s.flash.counter.toNat svn.toNat) }
    { s with flash := f.setPtr (fun p => { p with pending := none, tries := 0 }) }
  else s

/-- Steps 5 to 8 with an image chosen. From step 0 the bays then rise to their plan (R374). A CLAIM written before READY takes effect on its edge (R305). -/
def State.bringUp (s : State) (slot tries : Nat) (rejected : List Nat) (r : BootResult) : State :=
  let t := s.checkMgmt
  let t := (List.range 4).foldl State.setRail { t with brd := { t.brd with powered := true } }
  let t := t.flash.fenceList.foldl (fun t e => t.comeUpFenced e.1.toNat) t
  let t := (t.applyRepairs r.testRows).tsvTrain r.tsvFail
  let t := { t with mem := [], poison := [] }
  let t := (r.failedBays.filter (· < 64)).foldl (fun t b => t.makeSuspect (0x1000 + b) true) t
  let t := t.measureBoot slot tries rejected
  let rd := t.slotReader slot
  let t := { t with boot := { t.boot with ready := true, slot := slot, svn := imgSvn rd, fwver := imgFwver rd, timeouts := 0, rejected := rejected } }
  let t := (if slot = 2 then t else t.commitSlot slot (imgSvn rd)).checkBayCount.replan
  let t := ((List.range 64).filter (fun q => (t.queue q).enable)).foldl State.wakeQueue t
  if t.ck.heldClaim then ({ t with ck := { t.ck with heldClaim := false } } : State).hostClaims else t

/-- The chain from T0: its outcome, and the earliest time after T0 at which it can have come about (Table 16-4), in ns. -/
def State.bootChain (s : State) (r : BootResult) : State × Nat :=
  match (List.range 4).find? (fun d => 3 ≤ r.pufReads.getD d 0) with
  | some d => ((s.secRecord 3 [(120, 8, d), (112, 8, r.pufReads.getD d 0)]).haltBoot, 3000000)
  | none =>
    if !r.regionOk then ((s.secRecord 5 [(120, 8, 1)]).haltBoot, 4000000)
    else
      let c := s.chooseImage
      match c.slot with
      | none => (c.state.haltBoot, 4000000)
      | some slot =>
        match badTestRecord with
        | some k => ((c.state.secRecord 4 [(120, 8, k), (112, 8, Config.testRecordCheck k)]).haltBoot, 35000000)
        | none => (c.state.bringUp slot c.state.flash.ptr.tries c.rejected r, 565000000)

/-- BOOT_CHAIN: the end of the chain, READY or halted. -/
def execBootChain (r : BootResult) (s : State) : Host.Outcome State Fault Refusal :=
  .next (match s.boot.t0 with
    | some t0 =>
      if s.boot.ready || s.boot.halted || s.boot.failed || !s.brd.pg || s.brd.trip then s
      else let (t, ns) := s.bootChain r; if !s.reached (t0 + ns) then s else t
    | none => s)

/-- READY_TIMEOUT (R447), unless the chain's end is latched on the same edge (R31): the chain stood after step 3, whose choice and pointer writes stand (Example 16-1). The third reset in a
row with the recovery image booted leaves a halted boot. -/
def execReadyTimeout (s : State) : Host.Outcome State Fault Refusal :=
  .next (match s.boot.t0 with
    | some t0 =>
      if s.boot.ready || s.boot.halted || s.boot.failed || !s.brd.pg || !s.reached (t0 + 3000000000) || s.latched (fun i => match i with | .bootChain _ => true | _ => false) then s
      else
        let c := s.chooseImage
        match c.slot with
        | none => c.state.haltBoot
        | some slot =>
          let n := if slot = 2 then s.boot.timeouts + 1 else 0
          let t := c.state.moduleReset
          let t := ({ t with boot := { t.boot with timeouts := n } } : State).secRecord 12 [(120, 8, slot)]
          if 3 ≤ n then t.haltBoot else t
    | none => s)

end Sys2Proof.Machine
end

