-- ==== Sys2Proof/Machine/Board.lean ====
section
/-! DEFINITION. Power input, reference clocks, the time pins and the board controller's reads (chapter 18; R6, R283, R351). An
event whose condition does not hold changes nothing (log 2). -/

namespace Sys2Proof.Machine

/-! ## Power input (R470 to R473) -/

/-- The sense blade and the time for which the input has been above 40.0 V decide the inrush switch, which then begins to close. -/
def execInrushClose (mated : Bool) (aboveNs : Nat) (s : State) : Host.Outcome State Fault Refusal :=
  .next (if s.brd.inrush then s
    else
      let closes := mated && decide (10000000 ≤ aboveNs)
      { s with brd := { s.brd with sense := mated, inrush := closes, inrushAt := if closes then s.clk.ticks else s.brd.inrushAt } })

/-- The management die keeps power for 5 ms after input power good falls; later it may have lost it, and its own state with it
(R471, Table 18-7, logs 5, 20). -/
def State.mgmtRestarts (s : State) : State :=
  match s.brd.fellAt with
  | none => s
  | some t0 =>
    if s.clk.ticks < t0 + 5000000 then s
    else
      let (f, t) := s.fresh 18 0
      if f % 2 = 0 then t else { t with mg := {}, brd := { t.brd with uvCount := 0 } }

/-- Input power good rises, 0.9 ms after the inrush switch begins to close or later (Table 18-3): the management ROM starts, and verifies and runs the management component of the committed slot
(R445, R449). -/
def execPowerGoodRise (s : State) : Host.Outcome State Fault Refusal :=
  .next (if !s.brd.inrush || s.brd.pg || s.clk.ticks < s.brd.inrushAt + 900000 then s
    else
      let t := s.mgmtRestarts
      let d : U384 := BitVec.ofNat 384 (t.slotMgmt t.flash.committed.val)
      ({ t with brd := { t.brd with pg := true, pgAt := t.clk.ticks, mgmtRom := true, fellAt := none }, boot := { t.boot with mgmtDigest := d } } : State).emit .ibi)

/-- R471: as a module reset; dies lose their supplies, MOD_PG is released, UVCOUNT rises, a UNIT_STATE message leaves. Counts since
power-up start again (Table 07-7). -/
def State.losePower (s : State) : State :=
  if !s.brd.pg then s
  else
    let s := s.cutBoot
    let t := { s with brd := { s.brd with pg := false, mgmtRom := false, mgmtRun := false, modPg := false, abrefOk := false, cxlRefOk := false, fellAt := some s.clk.ticks, uvCount := satAdd s.brd.uvCount 1 }, clk := { s.clk with onAbref := false } }
    let t := t.moduleReset
    let t := { t with stackTab := t.stackTab.foldl (fun (m : TMap Stack) (x : Nat × Stack) => tset {} m x.1 { x.2 with corr := 0, uncorr := 0 }) [] }
    (t.mgmtSend 2 0 s.unitStatePayload).emit .ibi

def execPowerGoodFall (s : State) : Host.Outcome State Fault Refusal := .next s.losePower

/-- R472: the sense blade breaks, the inrush switch opens, and input power good falls. -/
def execSenseBreak (s : State) : Host.Outcome State Fault Refusal :=
  .next (let t := s.losePower; { t with brd := { t.brd with sense := false, inrush := false } })

/-- T0 is taken when the last of its conditions becomes true (R445, R478). -/
def State.takeT0 (s : State) : State :=
  if s.t0Ready && s.boot.t0.isNone && !s.brd.trip then { s with boot := { s.boot with t0 := some s.now } } else s

/-- The management controller runs, 25 ms after input power good or later. -/
def execModPgAssert (s : State) : Host.Outcome State Fault Refusal :=
  .next (if !s.brd.pg || !s.brd.mgmtRom || s.brd.mgmtRun || s.clk.ticks < s.brd.pgAt + 25000000 then s
    else ({ s with brd := { s.brd with mgmtRun := true, modPg := true } } : State).takeT0)

/-! ## Reference clocks (R475 to R478) -/

/-- ABREF absent for more than 10 µs: every port goes DOWN, and module time runs from the internal oscillator. -/
def execAbrefLoss (absentNs : Nat) (s : State) : Host.Outcome State Fault Refusal :=
  .next (if absentNs ≤ 10000 || !s.brd.abrefOk then s
    else
      let t := { s with brd := { s.brd with abrefOk := false }, clk := { s.clk with onAbref := false } }
      ((List.range 64).foldl (fun t p => t.portDown p none) t).emit .ibi)

/-- ABREF good for 1 ms: ports may train again (R246), and T0 is taken if the boot chain waits for it. -/
def execAbrefRestore (goodNs : Nat) (s : State) : Host.Outcome State Fault Refusal :=
  .next (if goodNs < 1000000 || s.brd.abrefOk || !s.brd.pg then s
    else (({ s with brd := { s.brd with abrefOk := true }, clk := { s.clk with onAbref := true } } : State).takeT0).emit .ibi)

def execCxlRefclkLoss (s : State) : Host.Outcome State Fault Refusal :=
  .next (if !s.brd.cxlRefOk then s else (({ s with brd := { s.brd with cxlRefOk := false } } : State).conventional).emit .ibi)

def execCxlRefclkReturn (s : State) : Host.Outcome State Fault Refusal :=
  .next (if s.brd.cxlRefOk || !s.brd.pg then s else ({ s with brd := { s.brd with cxlRefOk := true } } : State).emit .ibi)

/-- The first mode of Table 10-2 that both ends support; the part supports all, and meets any other host in service mode (R283). `host`: bit k,
the host supports mode k. -/
def portMode (host : BitVec 5) : Nat := ((List.range 5).find? (fun k => host.getLsbD k)).getD 5

/-- The port has trained and settled in a mode, at the widest width both ends support (R283): from T0 + 2 ms, with its reference clock
present. -/
def execCxlLinkUp (host : BitVec 5) (width : Nat) (s : State) : Host.Outcome State Fault Refusal :=
  .next (match s.boot.t0 with
    | some t0 =>
      if !s.reached (t0 + 2000000) || !s.brd.cxlRefOk || !(width = 4 || width = 8 || width = 16) || s.hp.linkUp then s
      else { s with hp := { s.hp with linkUp := true, mode := portMode host, width := width } }
    | none => s)

/-! ## Module time (R6, R478, R480) -/

/-- SYNC_IN: `utc` is the grandmaster's whole second that IEEE 1588 messages give for the edge. The edge is time-stamped to 2 ns:
the module time it gives is free within that (log 5). -/
def execSyncInPulse (utc : U64) (s : State) : Host.Outcome State Fault Refusal :=
  .next (
    let apart : Int := (s.clk.time.toNat : Int) - (utc.toNat : Int)
    if utc.toNat % 1000000000 != 0 || decide (100000000 < apart.natAbs) || !s.brd.mgmtRun then s
    else
      let (f, t) := s.fresh 19 0
      { t with clk := { t.clk with time := utc + BitVec.ofNat 64 (f % 5) - 2, lastSync := some utc, lastSyncTicks := t.now, ptpOnly := false } })

/-- No pulse for 3 s, one latched on the same edge counting (R31): time follows the IEEE 1588 messages alone. -/
def execSyncInTimeout (s : State) : Host.Outcome State Fault Refusal :=
  .next (if s.clk.ptpOnly || !s.reached (s.clk.lastSyncTicks + 3000000000) || s.latched (fun i => match i with | .syncInPulse _ => true | _ => false) then s else { s with clk := { s.clk with ptpOnly := true } })

/-- An IEEE 1588 message aligns module time, unless SYNC_IN steers it. -/
def execPtpMessage (utc : U64) (s : State) : Host.Outcome State Fault Refusal :=
  .next (if s.brd.mgmtRun && s.clk.ptpOnly then { s with clk := { s.clk with time := utc } } else s)

/-! ## SYNC_OUT (R351, R480) -/

/-- PPS holds SYNC_OUT. -/
def State.ppsHolds (s : State) : Bool := match s.holder 1 0xFF with | some c => c.holder = 1 | none => false

/-- At each whole second of module time, to 10 ns. -/
def execPpsPulse (s : State) : Host.Outcome State Fault Refusal :=
  let n := s.clk.time.toNat % 1000000000
  .next (if s.ppsHolds && (n ≤ 10 || 999999990 ≤ n) then { s with brd := { s.brd with syncOut := true } } else s)

/-- 100 ms after each whole second, to 10 ns. -/
def execPpsPulseEnd (s : State) : Host.Outcome State Fault Refusal :=
  let n := s.clk.time.toNat % 1000000000
  .next (if s.ppsHolds && 99999990 ≤ n && n < 999999990 then { s with brd := { s.brd with syncOut := false } } else s)

/-- STEPMARK: SYNC_OUT falls 1 µs after it rose. -/
def execStepmarkEnd (s : State) : Host.Outcome State Fault Refusal :=
  .next (match s.brd.syncFall with
    | some t => if s.reached t then { s with brd := { s.brd with syncOut := false, syncFall := none } } else s
    | none => s)

/-! ## The board controller (R482, Table 18-7) -/

/-- The management die answers: its controller runs, or lives on its hold-up after input power good has fallen (R471). -/
def State.mgmtAnswers (s : State) : Bool :=
  s.brd.mgmtRun || (match s.brd.fellAt with | some t => decide (s.clk.ticks < t + 5000000) | none => false)

/-- MODSTAT; `tcool`: the hottest junction now. -/
def State.modstat (s : State) (tcool : Nat) : Nat :=
  pack [(16, 16, s.brd.uvCount.toNat), (8, 8, tcool), (6, 1, b1 s.boot.halted), (5, 1, b1 s.boot.ready), (3, 1, b1 s.brd.cxlRefOk), (2, 1, b1 s.brd.abrefOk), (1, 1, b1 s.brd.trip), (0, 1, b1 s.brd.pg)]

/-- The read answers four bytes and clears UVCOUNT, but for an event counted on the same edge (R10). The temperature is a sensor's: free (log 8). RESETIN reads 0: MOD_RESET_N is
low within a MODULE_RESET alone (log 7). -/
def execModstatRead (s : State) (event : Bool := false) : Host.Outcome State Fault Refusal :=
  .next (if !s.mgmtAnswers then s
    else
      let (f, t) := s.fresh 20 0
      ({ t with brd := { t.brd with uvCount := cleared 16 event } } : State).answer 4 (t.modstat (f % 256)))

/-- Input voltage, current and power, and the temperature of each of 13 dies and 48 stacks: sensor values, free, in a layout that
no table gives (logs 8, 21). -/
def execMctpSensorRead (s : State) : Host.Outcome State Fault Refusal :=
  .next (if !s.mgmtAnswers then s else let (f, t) := s.fresh 20 1; t.answer 73 f)

/-! ## Indicators (R483, Table 18-6) -/

/-- What an indicator output shows. -/
inductive Lamp where
  | off | on
  | blink (hz : Nat)
deriving DecidableEq, Repr

def State.ledPwr (s : State) : Lamp := if s.brd.modPg then .on else .off

/-- Off outweighs a blink, and a blink On: the columns of Table 18-6 do not exclude each other (log 38). -/
def State.ledStat (s : State) : Lamp :=
  if s.boot.halted || s.boot.failed then .off
  else if s.boot.ready then (if s.boot.slot = 2 then .blink 4 else .on)
  else if s.boot.t0.isSome then .blink 1 else .off

/-- Some unit is FENCED in the Clerk's view. -/
def State.anyFenced (s : State) : Bool := s.units.any (fun x => x.2.clerk = .fenced)

def State.ledFault (s : State) : Lamp :=
  if s.brd.trip then .blink 4 else if s.anyFenced || s.boot.failed || s.boot.halted then .on else .off

/-- A port whose neighbour entry is in one of the states given. -/
def State.anyNbr (s : State) (p : NbrState → Bool) : Bool := (List.range 64).any (fun i => p (s.port i).nbr.state)

def State.ledLink (s : State) : Lamp :=
  if s.anyNbr (fun n => n = .conflict || n = .incompatible) then .blink 1 else if s.anyNbr (fun n => n = .up) then .on else .off

/-- The level of an indicator output: lit while its sink conducts, for half of each period of a blink. Where in its period a blink
stands at module time 0 is free (log 38). -/
def State.lit (s : State) (k : Nat) (l : Lamp) : Bool :=
  match l with
  | .off => false
  | .on => true
  | .blink hz => decide ((2 * hz * (s.now + Config.blinkPhase k)) / 1000000000 % 2 = 0)

end Sys2Proof.Machine
end

