-- ==== Sys2Proof/Machine/Edge.lean ====
section
/-! DEFINITION. Timers that look at what else is latched on their edge (R31): the deadline of a command (R332) and parking (R259). It comes after
all that can complete a command or queue traffic. -/

namespace Sys2Proof.Machine

/-- What a command does, of those that can queue a traffic flit or complete a command that works on: flits that pass through, messages, the work of
commands that send, receipts and completions of peers, units that reach a power state, verdicts, rounds that end (R206, R261, R269, R330,
R397, R426, R457). -/
def State.afterEvent (s : State) (i : Instr) : State :=
  match (match i with
    | .switchRoute p f => some (execSwitchRoute p f s)
    | .memWrite p f m => some (execMemWrite p f m s)
    | .memRead p f m => some (execMemRead p f m s)
    | .memData p f m => some (execMemData p f m s)
    | .resp p f m => some (execResp p f m s)
    | .redscatterData p f h d => some (execRedscatterData p f h d s)
    | .allgatherData p f h d => some (execAllgatherData p f h d s)
    | .alltoallData p f h d => some (execAlltoallData p f h d s)
    | .segGrant p f h => some (execSegGrant p f h s)
    | .arrive p f h => some (execArrive p f h s)
    | .release p f h => some (execRelease p f h s)
    | .abort p f h => some (execAbort p f h s)
    | .pollTimeout g => some (execPollTimeout g s)
    | .cmdFlit p f => some (execCmdFlit p f s)
    | .move c => some (execMove c s)
    | .gather c => some (execGather c s)
    | .scatter c => some (execScatter c s)
    | .collAllreduce c => some (execCollAllreduce c s)
    | .collRedscatter c => some (execCollRedscatter c s)
    | .collAllgather c => some (execCollAllgather c s)
    | .collAlltoall c => some (execCollAlltoall c s)
    | .collBarrier c => some (execCollBarrier c s)
    | .stepClose c => some (execStepClose c s)
    | .checkpoint c => some (execCheckpoint c s)
    | .restore c => some (execRestore c s)
    | .fwStage c => some (execFwStage c s)
    | .packetRead q => some (execPacketRead q s)
    | .commandComplete c => some (execCommandComplete c s)
    | .powerStateReached u => some (execPowerStateReached u s)
    | .wakeComplete u ok l => some (execWakeComplete u ok l s)
    | .verdict u r => some (execVerdict u r s)
    | .roundIterationEnd r => some (execRoundIterationEnd r s)
    | _ => none) with
  | some (.next t) => t
  | _ => s

/-- What the events latched on the same edge lead to, in their order. -/
def State.afterEdge (s : State) : State := s.pending.foldl State.afterEvent s

/-! ## Deadlines (R332) -/

/-- Opcodes whose deadline no longer applies once they are dispatched. -/
def deadlineFree (op : Nat) : Bool := [0x0501, 0x0502, 0x0503, 0x0504, 0x0B03, 0x0B04, 0x0A04].contains op

/-- The command of the table whose event a row is. -/
def cmdOf : Instr → Option CmdNo
  | .caps c | .stallLoad c | .stallSwitch c | .stallEvictDrop c | .stallEvictPark c | .windowSet c | .move c | .gather c | .scatter c | .matmulFwd c | .matmulBwd c | .attnFwd c
  | .attnBwd c | .vectorOp c | .matmulRef c | .scaleScan c | .convert c | .stepCloseProcessing c | .setMode c | .setBounds c | .setStartlen c | .setFlags c | .lossScaleSet c
  | .numericsStats c | .peerAttach c | .peerDetach c | .grant c | .energyBudgetSet c | .capOrderSet c | .freqMode c | .energyReport c | .pstateReqA0 c | .pstateReqBg c
  | .pstateReqBo c | .pstateReqDi c | .pstateReqDo c | .pstateReqMs c | .pstateReport c | .farrierRun c | .farrierRunMarkDue c | .errlogRead c | .errlogReadHealth c
  | .unitFence c | .unitReturn c | .attestReport c | .ideKeySetup c | .certRead c | .roundLoad c | .quiesce c => some c
  | _ => none

/-- A completion of a running command is latched on the same edge: its work stands in the queue, or events that do end it (R31). -/
def State.endsNow (s : State) (c : CmdNo) : Bool :=
  s.latched (fun i => cmdOf i = some c) || (match s.afterEdge.cmd c with | some y => y.phase = .ended | none => true)

/-- DEADLINE_EXPIRY. A completion latched on the same edge stands (R31). A running command's work is whole in one step, so one that is stopped has
written none of it or, where it goes on by events, what those have written. A running ROUND_START stops its round with the inner ones, and
completes after its issued steps. -/
def execDeadlineExpiry (c : CmdNo) (s : State) : Host.Outcome State Fault Refusal :=
  .next (match s.cmd c with
    | none => s
    | some x =>
      if x.hdr.deadline = 0 || !s.reached (x.wakeTick + 10 * x.hdr.deadline.toNat) || x.phase = .ended || (x.disp && deadlineFree x.op) ||
        (x.runs && s.endsNow c) then s
      else if x.op = 0x0B02 && x.phase = .working then s.stopNested 0x40 8 (x.p 0 1)
      else s.endCmd c 0x40 0)

/-! ## Parking (R259) -/

/-- A traffic flit for the port is queued by an event of the same edge (R259): it would move the time of the port's last traffic. -/
def State.trafficLatched (s : State) (p : Nat) : Bool :=
  let mark := s.now + 1
  let t := s.setPort p { s.port p with lastTraffic := mark }
  (t.afterEdge.port p).lastTraffic != mark

def execPark (p : Idx64) (s : State) : Host.Outcome State Fault Refusal :=
  let x := s.port p.val
  .next (if s.portUp p.val && x.parkEn && !x.nbr.parkTx && x.egress = [] && !x.trafficWaits && s.reached (x.lastTraffic + x.parkNs) && !s.trafficLatched p.val then
      (s.setPort p.val { x with nbr := { x.nbr with parkTx := true }, parkedAt := s.now, ctrs := { x.ctrs with parks := satAdd x.ctrs.parks 1 } }).sendNull p.val
    else s)

end Sys2Proof.Machine
end

