-- ==== Sys2Proof/Machine/Dispatch.lean ====
section
/-! DEFINITION. The meaning of every command: one arm per constructor of Instr, in the order of the opcode table. -/

namespace Sys2Proof.Machine

/-- What a command does to everything but the queue of waiting commands. -/
def exec (i : Instr) (s : State) : Host.Outcome State Fault Refusal :=
  match i with
  | .caps c => Sys2Proof.Machine.execCaps c s
  | .stallLoad c => Sys2Proof.Machine.execStallLoad c s
  | .stallSwitch c => Sys2Proof.Machine.execStallSwitch c s
  | .stallEvictDrop c => Sys2Proof.Machine.execStallEvictDrop c s
  | .stallEvictPark c => Sys2Proof.Machine.execStallEvictPark c s
  | .windowSet c => Sys2Proof.Machine.execWindowSet c s
  | .move c => Sys2Proof.Machine.execMove c s
  | .gather c => Sys2Proof.Machine.execGather c s
  | .scatter c => Sys2Proof.Machine.execScatter c s
  | .matmulFwd c => Sys2Proof.Machine.execMatmulFwd c s
  | .matmulBwd c => Sys2Proof.Machine.execMatmulBwd c s
  | .attnFwd c => Sys2Proof.Machine.execAttnFwd c s
  | .attnBwd c => Sys2Proof.Machine.execAttnBwd c s
  | .vectorOp c => Sys2Proof.Machine.execVectorOp c s
  | .matmulRef c => Sys2Proof.Machine.execMatmulRef c s
  | .scaleScan c => Sys2Proof.Machine.execScaleScan c s
  | .convert c => Sys2Proof.Machine.execConvert c s
  | .stepClose c => Sys2Proof.Machine.execStepClose c s
  | .stepCloseProcessing c => Sys2Proof.Machine.execStepCloseProcessing c s
  | .setMode c => Sys2Proof.Machine.execSetMode c s
  | .setBounds c => Sys2Proof.Machine.execSetBounds c s
  | .setStartlen c => Sys2Proof.Machine.execSetStartlen c s
  | .setFlags c => Sys2Proof.Machine.execSetFlags c s
  | .lossScaleSet c => Sys2Proof.Machine.execLossScaleSet c s
  | .numericsStats c => Sys2Proof.Machine.execNumericsStats c s
  | .updateLayer c => Sys2Proof.Machine.execUpdateLayer c s
  | .precondRefresh c => Sys2Proof.Machine.execPrecondRefresh c s
  | .maskSet c => Sys2Proof.Machine.execMaskSet c s
  | .weightPublish c => Sys2Proof.Machine.execWeightPublish c s
  | .publicationResume vaddr => Sys2Proof.Machine.execPublicationResume vaddr s
  | .publicationCommit vaddr => Sys2Proof.Machine.execPublicationCommit vaddr s
  | .publicationWaitTimeout vaddr => Sys2Proof.Machine.execPublicationWaitTimeout vaddr s
  | .collAllreduce c => Sys2Proof.Machine.execCollAllreduce c s
  | .collRedscatter c => Sys2Proof.Machine.execCollRedscatter c s
  | .collAllgather c => Sys2Proof.Machine.execCollAllgather c s
  | .collBarrier c => Sys2Proof.Machine.execCollBarrier c s
  | .collAlltoall c => Sys2Proof.Machine.execCollAlltoall c s
  | .peerAttach c => Sys2Proof.Machine.execPeerAttach c s
  | .peerDetach c => Sys2Proof.Machine.execPeerDetach c s
  | .peerClaim fid => Sys2Proof.Machine.execPeerClaim fid s
  | .peerRelease fid => Sys2Proof.Machine.execPeerRelease fid s
  | .handoff fid newFid => Sys2Proof.Machine.execHandoff fid newFid s
  | .grant c => Sys2Proof.Machine.execGrant c s
  | .energyBudgetSet c => Sys2Proof.Machine.execEnergyBudgetSet c s
  | .capOrderSet c => Sys2Proof.Machine.execCapOrderSet c s
  | .freqMode c => Sys2Proof.Machine.execFreqMode c s
  | .energyReport c => Sys2Proof.Machine.execEnergyReport c s
  | .pstateReqA0 c => Sys2Proof.Machine.execPstateReqA0 c s
  | .pstateReqBg c => Sys2Proof.Machine.execPstateReqBg c s
  | .pstateReqBo c => Sys2Proof.Machine.execPstateReqBo c s
  | .pstateReqDi c => Sys2Proof.Machine.execPstateReqDi c s
  | .pstateReqDo c => Sys2Proof.Machine.execPstateReqDo c s
  | .pstateReqMs c => Sys2Proof.Machine.execPstateReqMs c s
  | .pstateReport c => Sys2Proof.Machine.execPstateReport c s
  | .farrierRun c => Sys2Proof.Machine.execFarrierRun c s
  | .farrierRunMarkDue c => Sys2Proof.Machine.execFarrierRunMarkDue c s
  | .errlogRead c => Sys2Proof.Machine.execErrlogRead c s
  | .errlogReadHealth c => Sys2Proof.Machine.execErrlogReadHealth c s
  | .unitFence c => Sys2Proof.Machine.execUnitFence c s
  | .unitReturn c => Sys2Proof.Machine.execUnitReturn c s
  | .attestReport c => Sys2Proof.Machine.execAttestReport c s
  | .ideKeySetup c => Sys2Proof.Machine.execIdeKeySetup c s
  | .certRead c => Sys2Proof.Machine.execCertRead c s
  | .fwStage c => Sys2Proof.Machine.execFwStage c s
  | .fwActivate c => Sys2Proof.Machine.execFwActivate c s
  | .fwActivateNow c => Sys2Proof.Machine.execFwActivateNow c s
  | .roundLoad c => Sys2Proof.Machine.execRoundLoad c s
  | .roundStart c => Sys2Proof.Machine.execRoundStart c s
  | .roundStepIssue r => Sys2Proof.Machine.execRoundStepIssue r s
  | .roundIterationEnd r => Sys2Proof.Machine.execRoundIterationEnd r s
  | .checkpoint c => Sys2Proof.Machine.execCheckpoint c s
  | .restore c => Sys2Proof.Machine.execRestore c s
  | .restoreLayerWrite c => Sys2Proof.Machine.execRestoreLayerWrite c s
  | .quiesce c => Sys2Proof.Machine.execQuiesce c s
  | .doorbell q v => Sys2Proof.Machine.execDoorbell q v s
  | .rciWrite q v => Sys2Proof.Machine.execRciWrite q v s
  | .queueAttach q ctl => Sys2Proof.Machine.execQueueAttach q ctl s
  | .queueDetach q => Sys2Proof.Machine.execQueueDetach q s
  | .drainEnd q => Sys2Proof.Machine.execDrainEnd q s
  | .ringerrClear q again => Sys2Proof.Machine.execRingerrClear q s again
  | .coherentWakeSnoop q => Sys2Proof.Machine.execCoherentWakeSnoop q s
  | .cmdFlit p f => Sys2Proof.Machine.execCmdFlit p f s
  | .packetRead q => Sys2Proof.Machine.execPacketRead q s
  | .commandDispatch c => Sys2Proof.Machine.execCommandDispatch c s
  | .commandComplete c => Sys2Proof.Machine.execCommandComplete c s
  | .deadlineExpiry c => Sys2Proof.Machine.execDeadlineExpiry c s
  | .h2cWrite k v readLatched => Sys2Proof.Machine.execH2cWrite k v readLatched s
  | .mailboxRequestTake k => Sys2Proof.Machine.execMailboxRequestTake k s
  | .holdRegisterPost k => Sys2Proof.Machine.execHoldRegisterPost k s
  | .c2hRead k => Sys2Proof.Machine.execC2hRead k s
  | .millerMailboxWord g toMiller box word step => Sys2Proof.Machine.execMillerMailboxWord g toMiller box word s step
  | .mgmtMailboxWord toMgmt box word entry step => Sys2Proof.Machine.execMgmtMailboxWord toMgmt box word entry s step
  | .mbBankRead stray => Sys2Proof.Machine.execMbBankRead s stray
  | .notownerRead event => Sys2Proof.Machine.execNotownerRead s event
  | .lostreplyRead event => Sys2Proof.Machine.execLostreplyRead s event
  | .acceptsRead q event => Sys2Proof.Machine.execAcceptsRead q s event
  | .registerWrite space off len v sets => Sys2Proof.Machine.execRegisterWrite space off len v s sets
  | .bar2Write off bytes read => Sys2Proof.Machine.execBar2Write off bytes s read
  | .hostClaim alsoRelease peerSameEdge => Sys2Proof.Machine.execHostClaim alsoRelease peerSameEdge s
  | .hostRelease => Sys2Proof.Machine.execHostRelease s
  | .hdmApply a0 a1 => Sys2Proof.Machine.execHdmApply a0 a1 s
  | .hdmCommit n commit hpa size ways => Sys2Proof.Machine.execHdmCommit n commit hpa size ways s
  | .hdmRead hpa cacheable => Sys2Proof.Machine.execHdmRead hpa cacheable s
  | .hdmWrite hpa bytes => Sys2Proof.Machine.execHdmWrite hpa bytes s
  | .ideIntegrityFailure stream => Sys2Proof.Machine.execIdeIntegrityFailure stream s
  | .conventionalReset cause => Sys2Proof.Machine.execConventionalReset cause s
  | .functionLevelReset => Sys2Proof.Machine.execFunctionLevelReset s
  | .cxlReset => Sys2Proof.Machine.execCxlReset s
  | .moduleReset lowNs => Sys2Proof.Machine.execModuleReset lowNs s
  | .ostlerRequest o slot dl beats lock c early => Sys2Proof.Machine.execOstlerRequest o slot dl beats lock c s early
  | .arbitrationBoundary o early => Sys2Proof.Machine.execArbitrationBoundary o s early
  | .ostlerCommit all => Sys2Proof.Machine.execOstlerCommit all s
  | .ostlerClrcnt ev => Sys2Proof.Machine.execOstlerClrcnt s ev
  | .ostlerCounterRead word => Sys2Proof.Machine.execOstlerCounterRead s word
  | .aliveFall o slot early => Sys2Proof.Machine.execAliveFall o slot s early
  | .aliveRise o slot early => Sys2Proof.Machine.execAliveRise o slot s early
  | .crossingLoss c unit crossing => Sys2Proof.Machine.execCrossingLoss c unit crossing s
  | .portEnableWrite v => Sys2Proof.Machine.execPortEnableWrite v s
  | .retrain => Sys2Proof.Machine.execRetrain s
  | .portClrcnt ev engineEv => Sys2Proof.Machine.execPortClrcnt s ev engineEv
  | .linkCounterRead word => Sys2Proof.Machine.execLinkCounterRead s word
  | .engineCounterRead word => Sys2Proof.Machine.execEngineCounterRead s word
  | .fidWrite v => Sys2Proof.Machine.execFidWrite v s
  | .rtDataWrite v => Sys2Proof.Machine.execRtDataWrite v s
  | .training p r => Sys2Proof.Machine.execTraining p r s
  | .trainingTimeout p step => Sys2Proof.Machine.execTrainingTimeout p s step
  | .trainingRetry p => Sys2Proof.Machine.execTrainingRetry p s
  | .probeTimer p => Sys2Proof.Machine.execProbeTimer p s
  | .probe p f m => Sys2Proof.Machine.execProbe p f m s
  | .probeReply p f m => Sys2Proof.Machine.execProbeReply p f m s
  | .probeRetry p => Sys2Proof.Machine.execProbeRetry p s
  | .heartbeatSend p => Sys2Proof.Machine.execHeartbeatSend p s
  | .heartbeat p f => Sys2Proof.Machine.execHeartbeat p f s
  | .null p f => Sys2Proof.Machine.execNull p f s
  | .flitDiscard p fec => Sys2Proof.Machine.execFlitDiscard p s fec
  | .neighbourLost p => Sys2Proof.Machine.execNeighbourLost p s
  | .lostRetrain p => Sys2Proof.Machine.execLostRetrain p s
  | .park p => Sys2Proof.Machine.execPark p s
  | .unpark p => Sys2Proof.Machine.execUnpark p s
  | .switchRoute p f => Sys2Proof.Machine.execSwitchRoute p f s
  | .transitTimeout p => Sys2Proof.Machine.execTransitTimeout p s
  | .memWrite p f m => Sys2Proof.Machine.execMemWrite p f m s
  | .memRead p f m => Sys2Proof.Machine.execMemRead p f m s
  | .memData p f m => Sys2Proof.Machine.execMemData p f m s
  | .resp p f m => Sys2Proof.Machine.execResp p f m s
  | .redscatterData p f h d => Sys2Proof.Machine.execRedscatterData p f h d s
  | .allgatherData p f h data => Sys2Proof.Machine.execAllgatherData p f h data s
  | .alltoallData p f h data => Sys2Proof.Machine.execAlltoallData p f h data s
  | .segGrant p f h => Sys2Proof.Machine.execSegGrant p f h s
  | .arrive p f h => Sys2Proof.Machine.execArrive p f h s
  | .release p f h => Sys2Proof.Machine.execRelease p f h s
  | .pollSend group => Sys2Proof.Machine.execPollSend group s
  | .poll p f h => Sys2Proof.Machine.execPoll p f h s
  | .pollAns p f h => Sys2Proof.Machine.execPollAns p f h s
  | .pollTimeout group => Sys2Proof.Machine.execPollTimeout group s
  | .abort p f h => Sys2Proof.Machine.execAbort p f h s
  | .yardEdgeWithdraw e => Sys2Proof.Machine.execYardEdgeWithdraw e s
  | .dramReadCorrected addr bank row => Sys2Proof.Machine.execDramReadCorrected addr bank row s
  | .uncorrectableRead addr c => Sys2Proof.Machine.execUncorrectableRead addr c s
  | .sramSecondCorrection unit word bit syn => Sys2Proof.Machine.execSramSecondCorrection unit word s bit syn
  | .scrubRead addr bank row bad => Sys2Proof.Machine.execScrubRead addr bank row bad s
  | .refreshRateChange stack temp => Sys2Proof.Machine.execRefreshRateChange stack temp s
  | .budgetWindowEnd w => Sys2Proof.Machine.execBudgetWindowEnd w s
  | .brake projected => Sys2Proof.Machine.execBrake projected s
  | .trimInterval die tj islandCycles => Sys2Proof.Machine.execTrimInterval die tj islandCycles s
  | .kCorrection measured modelled => Sys2Proof.Machine.execKCorrection measured modelled s
  | .boostStep b tj current => Sys2Proof.Machine.execBoostStep b tj current s
  | .boostWithdraw b tj current => Sys2Proof.Machine.execBoostWithdraw b tj current s
  | .frequencySwitch b => Sys2Proof.Machine.execFrequencySwitch b s
  | .railLower die => Sys2Proof.Machine.execRailLower die s
  | .droopTrip b => Sys2Proof.Machine.execDroopTrip b s
  | .stretchEnd b cleanCycles => Sys2Proof.Machine.execStretchEnd b cleanCycles s
  | .heldChangeApply b cleanCycles => Sys2Proof.Machine.execHeldChangeApply b cleanCycles s
  | .thermalThrottle b tj => Sys2Proof.Machine.execThermalThrottle b tj s
  | .thermalFloor b tj => Sys2Proof.Machine.execThermalFloor b tj s
  | .thermalTrip tj => Sys2Proof.Machine.execThermalTrip tj s
  | .millerThermal g tj => Sys2Proof.Machine.execMillerThermal g tj s
  | .coreCurrentLimit die amps => Sys2Proof.Machine.execCoreCurrentLimit die amps s
  | .inputPowerLimit watts => Sys2Proof.Machine.execInputPowerLimit watts s
  | .stackTemperatureLimit stack temp => Sys2Proof.Machine.execStackTemperatureLimit stack temp s
  | .safetyRelease row unit value => Sys2Proof.Machine.execSafetyRelease row unit value s
  | .treadmillRamp b => Sys2Proof.Machine.execTreadmillRamp b s
  | .treadmillDecay b => Sys2Proof.Machine.execTreadmillDecay b s
  | .idleBgEntry unit => Sys2Proof.Machine.execIdleBgEntry unit s
  | .powerStateReached u => Sys2Proof.Machine.execPowerStateReached u s
  | .wakeComplete u checkPass tsvFail => Sys2Proof.Machine.execWakeComplete u checkPass tsvFail s
  | .residueDetection unit code word syndrome capsule c bit => Sys2Proof.Machine.execResidueDetection unit code word syndrome capsule c s bit
  | .parityError unit => Sys2Proof.Machine.execParityError unit s
  | .capsuleCopy unit => Sys2Proof.Machine.execCapsuleCopy unit s
  | .capsuleRelease slot => Sys2Proof.Machine.execCapsuleRelease slot s
  | .viewCompare => Sys2Proof.Machine.execViewCompare s
  | .viewDisagreement unit => Sys2Proof.Machine.execViewDisagreement unit s
  | .farrierTest unit => Sys2Proof.Machine.execFarrierTest unit s
  | .verdict unit r => Sys2Proof.Machine.execVerdict unit r s
  | .shoeingDue unit => Sys2Proof.Machine.execShoeingDue unit s
  | .shoeingSlice unit tj => Sys2Proof.Machine.execShoeingSlice unit tj s
  | .moduleFailure cause => Sys2Proof.Machine.execModuleFailure cause s
  | .clerkWatchdog missingNs => Sys2Proof.Machine.execClerkWatchdog missingNs s
  | .mgmtWatchdog missingNs => Sys2Proof.Machine.execMgmtWatchdog missingNs s
  | .errorRecordReport index => Sys2Proof.Machine.execErrorRecordReport index s
  | .remap reason => Sys2Proof.Machine.execRemap reason s
  | .mgmtResend => Sys2Proof.Machine.execMgmtResend s
  | .ack mseq => Sys2Proof.Machine.execAck mseq s
  | .setCollector sender addr => Sys2Proof.Machine.execSetCollector sender addr s
  | .releaseOwner => Sys2Proof.Machine.execReleaseOwner s
  | .capsuleReq index => Sys2Proof.Machine.execCapsuleReq index s
  | .setThresholds throttle bays => Sys2Proof.Machine.execSetThresholds throttle bays s
  | .bootChain r => Sys2Proof.Machine.execBootChain r s
  | .readyTimeout => Sys2Proof.Machine.execReadyTimeout s
  | .rngHealthFail => Sys2Proof.Machine.execRngHealthFail s
  | .inrushClose mated aboveNs => Sys2Proof.Machine.execInrushClose mated aboveNs s
  | .powerGoodRise => Sys2Proof.Machine.execPowerGoodRise s
  | .powerGoodFall => Sys2Proof.Machine.execPowerGoodFall s
  | .senseBreak => Sys2Proof.Machine.execSenseBreak s
  | .abrefLoss absentNs => Sys2Proof.Machine.execAbrefLoss absentNs s
  | .abrefRestore goodNs => Sys2Proof.Machine.execAbrefRestore goodNs s
  | .cxlRefclkLoss => Sys2Proof.Machine.execCxlRefclkLoss s
  | .syncInPulse utc => Sys2Proof.Machine.execSyncInPulse utc s
  | .syncInTimeout => Sys2Proof.Machine.execSyncInTimeout s
  | .ptpMessage utc => Sys2Proof.Machine.execPtpMessage utc s
  | .ppsPulse => Sys2Proof.Machine.execPpsPulse s
  | .stepmarkEnd => Sys2Proof.Machine.execStepmarkEnd s
  | .modstatRead event => Sys2Proof.Machine.execModstatRead s event
  | .mctpSensorRead => Sys2Proof.Machine.execMctpSensorRead s
  | .modPgAssert => Sys2Proof.Machine.execModPgAssert s
  | .cxlLinkUp host width => Sys2Proof.Machine.execCxlLinkUp host width s
  | .cxlRefclkReturn => Sys2Proof.Machine.execCxlRefclkReturn s
  | .ppsPulseEnd => Sys2Proof.Machine.execPpsPulseEnd s
  | .heldModuleReset hottest => Sys2Proof.Machine.execHeldModuleReset hottest s
  | .reservedKindFlit p f => Sys2Proof.Machine.execReservedKindFlit p f s

end Sys2Proof.Machine
end

