-- ==== Sys2Proof/Machine/Time.lean ====
section
/-! DEFINITION. The passing of time. -/

namespace Sys2Proof.Machine

/-- One nanosecond passes with nothing happening: module time counts 1 ns and wraps (R6, R32; log 1). -/
def State.tick (s : State) : State := { s with clk := { s.clk with ticks := s.clk.ticks + 1, time := s.clk.time + 1 } }

end Sys2Proof.Machine
end

