-- ==== Sys2Proof/Safety.lean ====
section
/-! DEFINITION. The terms that statements use: the parts of the state, what it is for a step to change some of them
alone, and a safe outcome. -/

namespace Sys2Proof.Machine

/-- The parts of the state, one for each of its fields. -/
inductive Part where
  | queue | free | reply | out | hostMem | memory | poison | staging | time | board | flash | boot | port | mailboxes | clerk
  | stackTab | ostlers | abond | tally | dies | bays | millers | power | refusals | units | capsules | mgmt
deriving DecidableEq, Repr

/-- A part is the same in two states; memory is compared by the read of one byte. -/
def Part.same (p : Part) (s t : State) : Prop :=
  match p with
  | .queue => t.pending = s.pending
  | .free => t.freeCtr = s.freeCtr
  | .reply => t.resp = s.resp ∧ t.respPoison = s.respPoison
  | .out => t.out = s.out
  | .hostMem => ∀ a, tget 0 t.hostMem a = tget 0 s.hostMem a
  | .memory => ∀ a, t.byte a = s.byte a
  | .poison => t.poison = s.poison
  | .staging => t.staging = s.staging
  | .time => t.clk = s.clk
  | .board => t.brd = s.brd
  | .flash => t.flash = s.flash
  | .boot => t.boot = s.boot
  | .port => t.hp = s.hp
  | .mailboxes => t.mb = s.mb
  | .clerk => t.ck = s.ck
  | .stackTab => t.stackTab = s.stackTab
  | .ostlers => t.ostlers = s.ostlers ∧ t.ostSel = s.ostSel
  | .abond => t.ab = s.ab
  | .tally => t.tal = s.tal
  | .dies => t.dies = s.dies
  | .bays => t.bays = s.bays
  | .millers => t.millerHalf = s.millerHalf
  | .power => t.pw = s.pw
  | .refusals => t.refusals = s.refusals ∧ t.logTotal = s.logTotal
  | .units => t.units = s.units
  | .capsules => t.capsules = s.capsules
  | .mgmt => t.mg = s.mg

/-- Every part of the state but those named is the same after as before: the frame of a command. -/
def keepsBut (changed : List Part) (s t : State) : Prop := ∀ p : Part, p ∉ changed → p.same s t

/-- What every step keeps of any state: memory and host memory list each address at most once, rising, and no byte that an
unlisted address reads as; the next record index is not 0xFFFF_FFFF, and the log and the management controller hold no
more than the newest 8,192 and 65,536 records (R418). -/
structure State.kept (s : State) : Prop where
  mem : Memory.wf s.mem = true
  hostMem : Memory.wf s.hostMem = true
  index : s.mg.nextIndex ≠ 0xFFFFFFFF
  log : s.mg.log.length ≤ 8192
  records : s.mg.kept.length ≤ 65536

/-- A step is safe where it answers a next state: it neither faults nor is refused. -/
def safeStep (s : State) : Prop := ∃ t, step s = .next t

end Sys2Proof.Machine
end

