-- ==== Sys2Proof/Certificates/Slice0/Obligations.lean ====
section
/-! DEFINITION. The statements for the provers, in the order of OBLIGATIONS.json. Each docstring says what its statement
formalises; a frame is `keepsBut`, which names the parts of the state that may change (Safety.lean). -/

open Sys2Proof Sys2Proof.Machine

/-- At State.reset nothing waits, no queue is attached and every CSIZE is 4, the module has no owner, INT_CAUSE and
INT_MASK are 0, HDM0 is 0x01000 with size 0x1000 active and pending and HDM1 has active size 0, no decoder is
committed, IDE is off, the host bank is empty, the settings of Table 13-3, KCORR and the reserve have their reset
values, every port has PARKIDLE 20, PARKEN 1, MAXRATE 0, ENABLE 1, POLLINT is 20, no identifier is valid, every unit
is ACTIVE, the next record index is 0, and the invariant of StepsKeepTheInvariant holds. (Table 10-4, Table 10-7,
Table 12-5, Table 13-3, Table 13-7, Table 09-9, Table 09-7, R294, R418, R421.) -/
def Obligations.ResetState : Prop :=
  let s := State.reset
  s.pending = [] ∧ State.kept s ∧ s.ck.owner = .nobody ∧ s.ck.cmds = [] ∧ s.stallsLoaded = [] ∧
    (∀ q : Idx64, (s.queue q).enable = false ∧ (s.queue q).drain = false ∧ (s.queue q).csize = 4 ∧ (s.queue q).qpi = 0 ∧ (s.queue q).accepts = 0) ∧
    s.hp.cause = 0 ∧ s.hp.mask = 0 ∧ s.hp.notOwner = 0 ∧ s.hp.lostReply = 0 ∧ s.hp.dec0.committed = false ∧ s.hp.dec1.committed = false ∧
    s.hp.hdm0 = { pendBase := 0x01000, pendSize := 0x1000, actBase := 0x01000, actSize := 0x1000, err := 0 } ∧ s.hp.hdm1.actSize = 0 ∧ s.hp.hdm1.pendBase = 0x01000 ∧
    s.hp.ide0.enabled = false ∧ s.hp.ide1.enabled = false ∧
    (∀ i : Fin 4, (s.h2c i).full = false ∧ (s.c2h i).full = false ∧ s.holdReg i = none) ∧ s.mb.dbStray = 0 ∧
    s.tal.set = { capw := 4000, fmin := 800, fmax := 2350, vofflo := BitVec.ofInt 8 (-20), voffhi := 20, tread := 0, tlevel := 128, order := 0x06 } ∧
    s.tal.tot.kcorr = 1024 ∧ s.tal.reserve = 8000000 ∧
    (∀ p : Idx64, (s.port p).parkIdle = 20 ∧ (s.port p).parkEn = true ∧ (s.port p).maxRate = false ∧ (s.port p).enable = true ∧ (s.port p).nbr.state = .down) ∧
    s.ab.pollInt = 20 ∧ s.ab.fidValid = false ∧ (∀ u : Nat, (s.unit u).clerk = .active ∧ (s.unit u).mgmt = .active) ∧
    s.boot.ready = false ∧ s.mg.nextIndex = 0 ∧ s.refusals = [] ∧ s.logTotal = 0

/-- From every state in which memory and host memory are in canonical form, the next record index is not 0xFFFF_FFFF and
the log and the management controller hold no more than 8,192 and 65,536 records, a step that answers a next state
answers one in which the same holds. The canonical form is the model's own (log 3). (R418, R419, Table 07-1.) -/
def Obligations.StepsKeepTheInvariant : Prop :=
  ∀ s t : State, State.kept s → step s = .next t → State.kept t

/-- Whatever command runs in whatever state, a next state has the same queue of waiting commands; so a step of a state
with commands waiting leaves exactly those behind the front, in their order, and a step of a state with none leaves
none. (00_scope.md.) -/
def Obligations.CommandsLeaveTheQueue : Prop :=
  (∀ (c : Instr) (s t : State), exec c s = .next t → t.pending = s.pending) ∧
  (∀ s t : State, step s = .next t → t.pending = s.pending.tail)

/-- For every command c and state s, a step of s with c put at the front of its queue is exec of c on s; on an empty queue
a step lets 1 ns pass and changes no part but the time (the model's own convention, log 1). (00_scope.md.) -/
def Obligations.StepRunsTheFrontCommand : Prop :=
  (∀ (c : Instr) (s : State), step { s with pending := c :: s.pending } = exec c s) ∧
  (∀ s : State, s.pending = [] →
    ∃ t, step s = .next t ∧ t.clk.ticks = s.clk.ticks + 1 ∧ t.clk.time = s.clk.time + 1 ∧ keepsBut [.time] s t)

/-- H2C_WRITE of mailbox i always completes; while the CXL.io link stream is insecure it is refused and changes nothing
(R295), and else: while FULL is 0 the word is stored and FULL is set. While FULL is 1 with no read latched the word is
stored and OVWR is set. With a Clerk read latched on the same edge and no answer in the hold register, the word is
stored, FULL stays 1, COLL is set and OVWR stays as it was. The other flags of the mailbox and the other three H2C
mailboxes stay as they were; without a collision nothing else changes at all. (R307.) -/
def Obligations.MailboxWriteH2c : Prop :=
  ∀ (i : Fin 4) (v : U32) (r : Bool) (s : State), ∃ t, exec (.h2cWrite i v r) s = .next t ∧ (s.ioOpen = false → t = s) ∧
    (s.ioOpen = true → (t.h2c i).data = v ∧ (t.h2c i).full = true ∧ (t.h2c i).emptied = (s.h2c i).emptied ∧
    (∀ j : Fin 4, j ≠ i → t.h2c j = s.h2c j) ∧
    (let collides := (s.h2c i).full && r && (s.holdReg i).isNone
     (t.h2c i).coll = ((s.h2c i).coll || collides) ∧
     (t.h2c i).ovwr = ((s.h2c i).ovwr || ((s.h2c i).full && !collides)) ∧
     (collides = false → t.mb = { s.mb with h2c := t.mb.h2c } ∧ keepsBut [.mailboxes] s t)))

/-- MAILBOX_REQUEST_TAKE of a FULL mailbox whose hold register is empty clears FULL, sets EMPTIED, and puts the answer of
Table 11-4 into the C2H mailbox, or into the hold register while that mailbox is FULL. HOLD_REGISTER_POST of an answer
into a C2H mailbox that is not FULL stores it, sets FULL and empties the hold register. C2H_READ answers the word held
before; with an answer in the hold register and the mailbox FULL it is a collision: the answer is stored, FULL stays
1, COLL is set; with no answer held FULL is cleared, and EMPTIED set if a word was waiting; while the CXL.io link
stream is insecure a C2H_READ changes nothing. The frame leaves out the port, the reply and what leaves the part.
MILLER_MAILBOX_WORD and MGMT_MAILBOX_WORD always complete. At the mailbox named a word is written (FULL 1, OVWR set
over a word not taken), taken (FULL 0, EMPTIED set if it waited), written and taken on one edge (COLL set while FULL
was 1), written and then taken, or its flags are cleared by W1C, but for those set on that edge; every other mailbox
of every bank is unchanged (for the management bank: with an entry that is an error record). (R312, R311, R307, R309.) -/
def Obligations.MailboxAnswers : Prop :=
  let after := fun (m : Mailbox) (w : U32) (k : MailStep) => match k with
    | .pass => { m with data := w, full := false, emptied := true, ovwr := m.ovwr || m.full }
    | .write => { m with data := w, full := true, ovwr := m.ovwr || m.full }
    | .read => { m with full := false, emptied := m.emptied || m.full }
    | .both => { m with data := w, full := true, coll := m.coll || m.full }
    | .clear f h => { m with emptied := m.emptied && (!f.getLsbD 3 || h.getLsbD 3), coll := m.coll && (!f.getLsbD 2 || h.getLsbD 2), ovwr := m.ovwr && (!f.getLsbD 1 || h.getLsbD 1) }
  (∀ (i : Fin 4) (s : State), (s.h2c i).full = true → s.holdReg i = none →
    ∃ t, exec (.mailboxRequestTake i) s = .next t ∧
      t.h2c i = { s.h2c i with full := false, emptied := true } ∧
      (if (s.c2h i).full then t.c2h i = s.c2h i ∧ t.holdReg i = some (s.answerOf (s.h2c i).data)
       else t.c2h i = { s.c2h i with data := s.answerOf (s.h2c i).data, full := true } ∧ t.holdReg i = none) ∧
      keepsBut [.mailboxes, .port, .out, .free] s t) ∧
  (∀ (i : Fin 4) (s : State) (a : U32), s.holdReg i = some a → (s.c2h i).full = false →
    ∃ t, exec (.holdRegisterPost i) s = .next t ∧
      t.c2h i = { s.c2h i with data := a, full := true } ∧ t.holdReg i = none ∧
      (∀ j, t.h2c j = s.h2c j) ∧ keepsBut [.mailboxes, .port, .out] s t) ∧
  (∀ (i : Fin 4) (s : State), s.ioOpen = false → exec (.c2hRead i) s = .next s) ∧
  (∀ (i : Fin 4) (s : State), s.ioOpen = true → ∃ t, exec (.c2hRead i) s = .next t ∧
      natLE t.resp = (s.c2h i).data.toNat ∧ t.holdReg i = none ∧
      (match s.holdReg i with
       | some a => (t.c2h i).data = a ∧ (t.c2h i).full = true ∧ (t.c2h i).coll = ((s.c2h i).coll || (s.c2h i).full)
       | none => t.c2h i = { s.c2h i with full := false, emptied := (s.c2h i).emptied || (s.c2h i).full }) ∧
      (∀ j, t.h2c j = s.h2c j) ∧ keepsBut [.mailboxes, .port, .out, .reply] s t) ∧
  (∀ (g : Fin 8) (down : Bool) (b : Fin 2) (w : U32) (step : MailStep) (s : State),
    ∃ t, exec (.millerMailboxWord g down b w step) s = .next t ∧ keepsBut [.mailboxes] s t ∧
      (let k := 2 * g.val + b.val
       let bank := fun (u : State) => if down then u.mb.toMiller else u.mb.fromMiller
       let other := fun (u : State) => if down then u.mb.fromMiller else u.mb.toMiller
       tget {} (bank t) k = after (tget {} (bank s) k) w step ∧
       (∀ j, j ≠ k → tget {} (bank t) j = tget {} (bank s) j) ∧ other t = other s ∧
       t.mb.h2c = s.mb.h2c ∧ t.mb.c2h = s.mb.c2h ∧ t.mb.toMgmt = s.mb.toMgmt ∧ t.mb.fromMgmt = s.mb.fromMgmt)) ∧
  (∀ (down : Bool) (b : Fin 4) (w : U32) (step : MailStep) (s : State),
    ∃ t, exec (.mgmtMailboxWord down b w .record step) s = .next t ∧ keepsBut [.mailboxes] s t ∧
      (let bank := fun (u : State) => if down then u.mb.toMgmt else u.mb.fromMgmt
       let other := fun (u : State) => if down then u.mb.fromMgmt else u.mb.toMgmt
       tget {} (bank t) b = after (tget {} (bank s) b) w step ∧
       (∀ j, j ≠ b.val → tget {} (bank t) j = tget {} (bank s) j) ∧ other t = other s ∧
       t.mb.h2c = s.mb.h2c ∧ t.mb.c2h = s.mb.c2h ∧ t.mb.toMiller = s.mb.toMiller ∧ t.mb.fromMiller = s.mb.fromMiller))

/-- With the CXL.io link stream not insecure, NOTOWNER_READ, LOSTREPLY_READ and ACCEPTS_READ of queue q answer four bytes
that spell the counter's value before the read and leave it 0, or 1 where an event is counted on the same edge;
MB_BANK_READ answers the FULL and EMPTIED flags of the host bank and DBSTRAY and leaves DBSTRAY so. Over an insecure
stream the four change nothing. Every other register, queue and mailbox keeps its value. While the management
controller runs, or for 5 ms after input power good has fallen, MODSTAT_READ answers four bytes whose bits are PG,
TRIP, ABREFOK, CXLREFOK, READY, HALTED and UVCOUNT as they stand, and clears UVCOUNT alone, but for an event of the
same edge; MCTP_SENSOR_READ answers the sensor values. Otherwise neither answers and nothing changes. (R8, R10, R295,
R299, R310, R482.) -/
def Obligations.ClearingReads : Prop :=
  (∀ (e : Bool) (q : Idx64) (s : State), s.ioOpen = false → exec (.notownerRead e) s = .next s ∧ exec (.lostreplyRead e) s = .next s ∧
    exec (.acceptsRead q e) s = .next s ∧ exec (.mbBankRead e) s = .next s) ∧
  (∀ (e : Bool) (s : State), s.ioOpen = true → ∃ t, exec (.notownerRead e) s = .next t ∧ t.resp.length = 4 ∧ natLE t.resp = s.hp.notOwner.toNat ∧
    t.hp = { s.hp with notOwner := if e then 1 else 0 } ∧ keepsBut [.reply, .port] s t) ∧
  (∀ (e : Bool) (s : State), s.ioOpen = true → ∃ t, exec (.lostreplyRead e) s = .next t ∧ t.resp.length = 4 ∧ natLE t.resp = s.hp.lostReply.toNat ∧
    t.hp = { s.hp with lostReply := if e then 1 else 0 } ∧ keepsBut [.reply, .port] s t) ∧
  (∀ (e : Bool) (q : Idx64) (s : State), s.ioOpen = true → ∃ t, exec (.acceptsRead q e) s = .next t ∧ t.resp.length = 4 ∧
    natLE t.resp = (s.queue q).accepts.toNat ∧ t.queue q = { s.queue q with accepts := if e then 1 else 0 } ∧
    (∀ j, j ≠ q.val → t.queue j = s.queue j) ∧ t.ck = { s.ck with queues := t.ck.queues } ∧ keepsBut [.reply, .clerk] s t) ∧
  (∀ (e : Bool) (s : State), s.ioOpen = true → ∃ t, exec (.mbBankRead e) s = .next t ∧ t.resp.length = 4 ∧
    natLE t.resp / 65536 = s.mb.dbStray.toNat ∧
    (∀ i : Fin 4, (natLE t.resp).testBit i = (s.h2c i).full ∧ (natLE t.resp).testBit (4 + i) = (s.h2c i).emptied ∧
      (natLE t.resp).testBit (8 + i) = (s.c2h i).full) ∧
    t.mb = { s.mb with dbStray := if e then 1 else 0 } ∧ keepsBut [.reply, .mailboxes] s t) ∧
  (∀ (e : Bool) (s : State), (s.brd.mgmtRun = true ∨ ∃ f, s.brd.fellAt = some f ∧ s.clk.ticks < f + 5000000) →
    (∃ t, exec (.modstatRead e) s = .next t ∧ t.resp.length = 4 ∧
      (let v := natLE t.resp
       v.testBit 0 = s.brd.pg ∧ v.testBit 1 = s.brd.trip ∧ v.testBit 2 = s.brd.abrefOk ∧ v.testBit 3 = s.brd.cxlRefOk ∧
       v.testBit 5 = s.boot.ready ∧ v.testBit 6 = s.boot.halted ∧ v / 65536 = s.brd.uvCount.toNat) ∧
      t.brd = { s.brd with uvCount := if e then 1 else 0 } ∧ keepsBut [.reply, .board, .free] s t) ∧
    (∃ t, exec .mctpSensorRead s = .next t ∧ t.resp.length = 73 ∧ keepsBut [.reply, .free] s t)) ∧
  (∀ (e : Bool) (s : State), s.brd.mgmtRun = false → (∀ f, s.brd.fellAt = some f → f + 5000000 ≤ s.clk.ticks) →
    exec (.modstatRead e) s = .next s ∧ exec .mctpSensorRead s = .next s)

/-- With no owner and READY 1 a HOST_CLAIM makes the host the owner, with or without a peer's claim on the same edge and
whatever RELEASE says; a PEER_CLAIM makes the peer the owner. HANDOFF by the owning peer makes the peer it names the
owner. HOST_RELEASE by the host, HOST_CLAIM with RELEASE by the host, PEER_RELEASE by the owning peer and
RELEASE_OWNER while a peer owns leave no owner. Each sets CAUSE bit 4 and leaves no queue granted (Table 12-21);
nothing else of the Clerk changes. While READY is 0 a HOST_CLAIM with no owner is held and changes nothing else. A
claim while another party owns the module, and a release or hand-over by a party that is not the owner, change nothing
at all. (R297, R298, R305, R336.) -/
def Obligations.OwnershipMoves : Prop :=
  let passes := fun (c : Instr) (s : State) (o : Owner) => ∃ t, exec c s = .next t ∧ t.ck.owner = o ∧
    t.hp.cause.getLsbD 4 = true ∧ t.hp = { s.hp with cause := s.hp.cause ||| 16, pba := t.hp.pba } ∧
    (∀ q : Idx64, t.queue q = { s.queue q with granted := false }) ∧
    t.ck = { s.ck with owner := o, queues := t.ck.queues } ∧ keepsBut [.clerk, .port, .out] s t
  (∀ (s : State) (r : Bool) (p : Option Fid), s.ck.owner = .nobody → s.boot.ready = true → passes (.hostClaim r p) s .host) ∧
  (∀ (s : State) (r : Bool) (p : Option Fid), s.ck.owner = .nobody → s.boot.ready = false →
    exec (.hostClaim r p) s = .next { s with ck := { s.ck with heldClaim := true } }) ∧
  (∀ (s : State) (f : Fid), s.ck.owner = .nobody → passes (.peerClaim f) s (.peer f)) ∧
  (∀ (s : State) (f g : Fid), s.ck.owner = .peer f → passes (.handoff f g) s (.peer g)) ∧
  (∀ (s : State) (f : Fid), s.ck.owner = .peer f → passes (.peerRelease f) s .nobody ∧ passes .releaseOwner s .nobody) ∧
  (∀ (s : State) (p : Option Fid), s.ck.owner = .host → passes .hostRelease s .nobody ∧ passes (.hostClaim true p) s .nobody) ∧
  (∀ (s : State) (r : Bool) (p : Option Fid) (f : Fid), s.ck.owner = .peer f → exec (.hostClaim r p) s = .next s ∧ exec .hostRelease s = .next s) ∧
  (∀ (s : State) (f : Fid), s.ck.owner ≠ .nobody → exec (.peerClaim f) s = .next s) ∧
  (∀ (s : State) (f g : Fid), s.ck.owner ≠ .peer f → exec (.peerRelease f) s = .next s ∧ exec (.handoff f g) s = .next s) ∧
  (∀ s : State, (∀ f, s.ck.owner ≠ .peer f) → exec .releaseOwner s = .next s)

/-- HDM_APPLY of range n alone compares the pending pair in the order of rule R287 (owner, committed decoder, zero size,
tier, overlap or more than 2 TiB together with the other range's active values). If all pass the pair becomes active
and ERRn is 0; else ERRn is the code and the active pair stays. The other range and everything else stay. Both bits
together are APPLY0 and then APPLY1. (R288.) -/
def Obligations.HdmApplyChecks : Prop :=
  let code := fun (s : State) (r o : HdmRange) (committed : Bool) =>
    let lo := r.pendBase.toNat * 2 ^ 28
    let hi := (r.pendBase.toNat + r.pendSize.toNat) * 2 ^ 28
    let olo := o.actBase.toNat * 2 ^ 28
    let ohi := (o.actBase.toNat + o.actSize.toNat) * 2 ^ 28
    if s.ck.owner ≠ .host then 5
    else if committed then 4
    else if r.pendSize = 0 then 1
    else if ¬(0x10000000000 ≤ lo ∧ hi ≤ 0x20000000000) ∧ ¬(0x20000000000 ≤ lo ∧ hi ≤ 0x44000000000) then 2
    else if (lo < ohi ∧ olo < hi) ∨ (r.pendSize.toNat + o.actSize.toNat) * 2 ^ 28 > 2 ^ 41 then 3
    else 0
  let after := fun (r : HdmRange) (k : Nat) =>
    if k = 0 then { r with actBase := r.pendBase, actSize := r.pendSize, err := 0 } else { r with err := BitVec.ofNat 4 k }
  (∀ s : State, exec (.hdmApply true false) s =
    .next { s with hp := { s.hp with hdm0 := after s.hp.hdm0 (code s s.hp.hdm0 s.hp.hdm1 s.hp.dec0.committed) } }) ∧
  (∀ s : State, exec (.hdmApply false true) s =
    .next { s with hp := { s.hp with hdm1 := after s.hp.hdm1 (code s s.hp.hdm1 s.hp.hdm0 s.hp.dec1.committed) } }) ∧
  (∀ s t : State, exec (.hdmApply true false) s = .next t → exec (.hdmApply true true) s = exec (.hdmApply false true) t)

/-- HDM_COMMIT of an uncommitted decoder in a CXL mode, with ways 1 and the range's active size, which is not 0, commits
it; with other ways or another size it sets the decoder's error and commits nothing; uncommitting clears both; a
committed decoder stays as it is, and so does every decoder in a mode without CXL.mem. HDM_READ of an address that a
committed decoder covers answers the 64 bytes of the line at MBASE + (HPA - base), poison where the line is poisoned,
and changes no memory. HDM_WRITE there stores exactly the bytes given, up to the end of the line, unless the line is
poisoned and only partly written: then no byte changes and the completion carries poison. While the CXL.cachemem
stream is insecure, a covered access changes nothing (R295). An access that no decoder covers stops with a fault of
its own name. (R286, R223, R211, R219, R291, R295.) -/
def Obligations.HdmDecodersAndAccesses : Prop :=
  (∀ (s : State) (n : Fin 2) (hpa : U64) (size ways : Nat), s.hp.mode ≤ 2 → (s.dec n).committed = false →
    ∃ t, exec (.hdmCommit n true hpa size ways) s = .next t ∧ t.hp = (s.setDec n (t.dec n)).hp ∧ keepsBut [.port] s t ∧
      t.dec n = (if ways = 1 ∧ size ≠ 0 ∧ size = (s.hdm n).actSize.toNat * 2 ^ 28
        then { committed := true, error := false, hpaBase := hpa, size := size } else { s.dec n with error := true })) ∧
  (∀ (s : State) (n : Fin 2) (hpa : U64) (size ways : Nat), s.hp.mode ≤ 2 →
    ∃ t, exec (.hdmCommit n false hpa size ways) s = .next t ∧ t.dec n = { s.dec n with committed := false, error := false } ∧
      keepsBut [.port] s t) ∧
  (∀ (s : State) (n : Fin 2) (hpa : U64) (size ways : Nat) (on : Bool), 2 < s.hp.mode ∨ (on = true ∧ (s.dec n).committed = true) →
    exec (.hdmCommit n on hpa size ways) s = .next s) ∧
  (∀ (s : State) (n : Fin 2) (hpa : U64), s.hp.mode ≤ 2 → (s.dec n).committed = true →
    ((s.dec (1 - n.val)).committed = false ∨ hpa < (s.dec (1 - n.val)).hpaBase ∨ (s.dec (1 - n.val)).hpaBase.toNat + (s.dec (1 - n.val)).size ≤ hpa.toNat) →
    (s.dec n).hpaBase ≤ hpa → hpa.toNat < (s.dec n).hpaBase.toNat + (s.dec n).size →
    let a := (s.hdm n).actBase.toNat * 2 ^ 28 + (hpa.toNat - (s.dec n).hpaBase.toNat)
    (s.memOpen = false → (∀ cacheable, exec (.hdmRead hpa cacheable) s = .next s) ∧ ∀ bytes, exec (.hdmWrite hpa bytes) s = .next s) ∧
    (s.memOpen = true →
    (∀ cacheable, ∃ t, exec (.hdmRead hpa cacheable) s = .next t ∧
      t.resp = (List.range 64).map (fun i => s.byte (a / 64 * 64 + i)) ∧ t.respPoison = s.poison.contains (a / 64) ∧
      keepsBut [.reply, .port, .out] s t) ∧
    (∀ bytes : List Byte, bytes ≠ [] → a % 64 + bytes.length ≤ 64 → (s.poison.contains (a / 64) = false ∨ bytes.length = 64) →
      ∃ t, exec (.hdmWrite hpa bytes) s = .next t ∧ t.respPoison = false ∧
        (∀ c, t.byte c = if a ≤ c ∧ c < a + bytes.length then bytes.getD (c - a) 0 else s.byte c) ∧
        (bytes.length = 64 → t.poison.contains (a / 64) = false) ∧ keepsBut [.reply, .memory, .poison] s t) ∧
    (∀ bytes : List Byte, bytes ≠ [] → a % 64 + bytes.length ≤ 64 → s.poison.contains (a / 64) = true → bytes.length < 64 →
      ∃ t, exec (.hdmWrite hpa bytes) s = .next t ∧ t.respPoison = true ∧ keepsBut [.reply, .mgmt, .free, .port, .out] s t))) ∧
  (∀ (s : State) (hpa : U64), (s.hp.mode > 2 ∨ (s.hp.dec0.committed = false ∧ s.hp.dec1.committed = false)) →
    (∀ cacheable, exec (.hdmRead hpa cacheable) s = .fault (.hdmNotDecoded hpa)) ∧
    (∀ bytes, exec (.hdmWrite hpa bytes) s = .fault (.hdmNotDecoded hpa)))

/-- REGISTER_WRITE is a write with a value, and with none a read. A write to a space whose length is neither 4 nor 8, or
that is not aligned, changes nothing, and while the CXL.io link stream is insecure neither does an access to BAR0.
Else: A write by a host that is not the owner to INT_MASK, the Ostler window or the Abond window counts once in
NOTOWNER and changes nothing else. One 64-bit write of INT_CAUSE and INT_MASK by such a host clears the causes and
counts for the mask. A write to INT_CAUSE clears exactly the bits written as 1, but for those that hardware sets on
the same edge; the owner's write to INT_MASK sets the mask; the owner's write of the port select, the routing index
and the Ostler select sets that field alone. A read of four bytes answers ID_PART, ID_VER and ID_STATE as Table 10-7
has them, the cause, the mask, and zero where a register is write-only, and changes nothing but the reply. (R2, R8,
R10, R283, R295, R299, R300, R301, R240, R280, Table 10-7.) -/
def Obligations.RegisterWrites : Prop :=
  (∀ (s : State) (sp : RegSpace) (off len : Nat) (v e : U64), ¬((len = 4 ∨ len = 8) ∧ off % len = 0) →
    exec (.registerWrite sp off len (some v) e) s = .next s) ∧
  (∀ (s : State) (off len : Nat) (v : Option U64) (e : U64), s.ioOpen = false → exec (.registerWrite .bar0 off len v e) s = .next s) ∧
  (∀ (s : State) (off : Nat) (v e : U64), s.ioOpen = true → s.ck.owner ≠ .host → off % 4 = 0 →
    (off = 0x104 ∨ (0x4000 ≤ off ∧ off < 0x4200) ∨ (0x5000 ≤ off ∧ off < 0x5200)) →
    exec (.registerWrite .bar0 off 4 (some v) e) s =
      .next { s with hp := { s.hp with notOwner := BitVec.ofNat 32 (min (s.hp.notOwner.toNat + 1) 0xFFFFFFFF) } }) ∧
  (∀ (s : State) (v e : U64), s.ioOpen = true → ∃ t, exec (.registerWrite .bar0 0x100 4 (some v) e) s = .next t ∧
    (∀ k : Fin 6, t.hp.cause.getLsbD k = (s.hp.cause.getLsbD k && (!v.getLsbD k || e.getLsbD k))) ∧
    t.hp = { s.hp with cause := t.hp.cause } ∧ keepsBut [.port] s t) ∧
  (∀ (s : State) (v e : U64), s.ioOpen = true → s.ck.owner ≠ .host → ∃ t, exec (.registerWrite .bar0 0x100 8 (some v) e) s = .next t ∧
    (∀ k : Fin 6, t.hp.cause.getLsbD k = (s.hp.cause.getLsbD k && (!v.getLsbD k || e.getLsbD k))) ∧
    t.hp = { s.hp with cause := t.hp.cause, notOwner := BitVec.ofNat 32 (min (s.hp.notOwner.toNat + 1) 0xFFFFFFFF) } ∧ keepsBut [.port] s t) ∧
  (∀ (s : State) (v e : U64), s.ioOpen = true → s.ck.owner = .host →
    exec (.registerWrite .bar0 0x104 4 (some v) e) s = .next { s with hp := { s.hp with mask := BitVec.setWidth 6 v } } ∧
    exec (.registerWrite .bar0 0x5008 4 (some v) e) s = .next { s with ab := { s.ab with portSel := BitVec.setWidth 6 v } } ∧
    exec (.registerWrite .bar0 0x500C 4 (some v) e) s = .next { s with ab := { s.ab with rtIndex := BitVec.setWidth 16 v } } ∧
    exec (.registerWrite .bar0 0x4000 4 (some v) e) s = .next { s with ostSel := BitVec.setWidth 10 v }) ∧
  (∀ (s : State) (off : Nat) (e : U64), s.ioOpen = true → off ∈ [0x00, 0x04, 0x18, 0x100, 0x104, 0x1000] →
    ∃ t, exec (.registerWrite .bar0 off 4 none e) s = .next t ∧ t.resp.length = 4 ∧ keepsBut [.reply] s t ∧
      (off = 0x00 → natLE t.resp = 0x0804A100) ∧ (off = 0x04 → natLE t.resp = 0x03010200) ∧
      (off = 0x18 → ∀ k, 20 ≤ k → k < 24 → (natLE t.resp).testBit k = s.hp.mode.testBit (k - 20)) ∧
      (off = 0x18 → (natLE t.resp).testBit 12 = s.boot.ready) ∧
      (off = 0x100 → natLE t.resp = s.hp.cause.toNat) ∧ (off = 0x104 → natLE t.resp = s.hp.mask.toNat) ∧ (off = 0x1000 → natLE t.resp = 0))

/-- BAR2_WRITE at window offset o of an attached or draining queue of LOC 2, inside the first 4 MiB of its command ring,
outside service mode and with no partly written poisoned line, stores exactly its bytes at QBASE + o and changes
nothing else but the poison of whole lines. A write to a window whose queue is detached or of another LOC, or beyond
the ring's end, counts once in NOTOWNER and changes nothing else. A read answers the ring's bytes, and zero where
nothing is mapped. In service mode, or over an insecure stream, an access changes nothing. IDE_INTEGRITY_FAILURE of an
enabled stream sets its insecure state, keeps its keys, and writes one error record of the link class; ownership,
queues, mailboxes, memory and the other stream stay. (R284, R302, R303, R219, R295, R298.) -/
def Obligations.Bar2WindowsAndIdeFailures : Prop :=
  (∀ (s : State) (off : BitVec 28) (bytes : List Byte) (n : Option Nat), (s.hp.mode = 5 ∨ s.ioOpen = false) → exec (.bar2Write off bytes n) s = .next s) ∧
  (∀ (s : State) (off : BitVec 28) (bytes : List Byte), s.hp.mode ≠ 5 → s.ioOpen = true →
    let q := s.queue (off.toNat / 2 ^ 22)
    let o := off.toNat % 2 ^ 22
    let mappedHere := (q.enable = true ∨ q.drain = true) ∧ q.loc = 2 ∧ o + bytes.length ≤ min (2 ^ 22) (64 * 2 ^ q.csize.toNat)
    (mappedHere → s.partPoisoned (q.qbase.toNat + o) bytes.length = false →
      ∃ t, exec (.bar2Write off bytes none) s = .next t ∧ keepsBut [.memory, .poison] s t ∧
        ∀ c, t.byte c = if q.qbase.toNat + o ≤ c ∧ c < q.qbase.toNat + o + bytes.length
          then bytes.getD (c - (q.qbase.toNat + o)) 0 else s.byte c) ∧
    (¬mappedHere → exec (.bar2Write off bytes none) s =
      .next { s with hp := { s.hp with notOwner := BitVec.ofNat 32 (min (s.hp.notOwner.toNat + 1) 0xFFFFFFFF) } }) ∧
    (∀ w, ∃ t, exec (.bar2Write off w (some bytes.length)) s = .next t ∧ keepsBut [.reply] s t ∧
      (mappedHere → t.resp = (List.range bytes.length).map (fun i => s.byte (q.qbase.toNat + o + i))) ∧ (¬mappedHere → natLE t.resp = 0))) ∧
  (∀ (s : State) (k : Fin 2), (s.ide k).enabled = true →
    ∃ t, exec (.ideIntegrityFailure k) s = .next t ∧ t.ide k = { s.ide k with insecure := true } ∧
      t.ide (1 - k.val) = s.ide (1 - k.val) ∧ t.mg.nextIndex = nextIndex s.mg.nextIndex ∧
      (∃ r, t.mg.log.getLast? = some r ∧ r.cls = 3 ∧ r.index = s.mg.nextIndex) ∧
      keepsBut [.port, .mgmt, .free, .out] s t)

/-- A conventional reset (a PERST_N pulse of 100 µs or more, a hot reset, a link down), and with the link up and no other
of them in progress a function-level reset and a CXL Reset, detach every queue whose rings lie in host memory, mark
their accepted commands so that their replies are lost, leave every other queue's rings, indices and enable alone,
clear the host mailbox bank with DBSTRAY and its hold registers and leave the inner banks, and withdraw a CLAIM that
waits. The host's ownership ends, setting CAUSE bit 4 alone; a peer's stays. INT_CAUSE, INT_MASK and the MSI-X table
return to reset values; NOTOWNER and LOSTREPLY stay; a conventional reset returns every other port register to its
reset value, a CXL Reset all but the link's state, mode and width, a function-level reset keeps HDM, IDE, the snoop
filter and the link. With no stall loaded a CXL Reset changes no memory; with stalls it quiesces them too (R357). Each
of these two is then in progress for 100 ms at most (a free time, log 37). A function-level reset that arrives while
any is in progress, or before the link is up, changes nothing, and so does a CXL Reset into a CXL Reset; a CXL Reset
into a function-level one takes its own effect and completes when that one would. A PERST_N pulse below 1 µs changes
nothing. (R304, R306, R298, R311, R474.) -/
def Obligations.PortResets : Prop :=
  let common := fun (s t : State) =>
    t.mb = { s.mb with h2c := [], c2h := [], hold := [], dbStray := 0 } ∧ t.ck.heldClaim = false ∧
    t.ck.owner = (if s.ck.owner = .host then .nobody else s.ck.owner) ∧
    (∀ q : Idx64, if (s.queue q).loc = 1 ∧ ((s.queue q).enable = true ∨ (s.queue q).drain = true)
      then (t.queue q).enable = false ∧ (t.queue q).drain = false
      else (t.queue q).enable = (s.queue q).enable ∧ (t.queue q).drain = (s.queue q).drain ∧ (t.queue q).qbase = (s.queue q).qbase ∧
        (t.queue q).qpi = (s.queue q).qpi ∧ (t.queue q).qci = (s.queue q).qci ∧ (t.queue q).rpi = (s.queue q).rpi) ∧
    t.hp.cause = (if s.ck.owner = .host then 16 else 0) ∧ t.hp.mask = 0 ∧ t.hp.msix = [] ∧
    t.hp.notOwner = s.hp.notOwner ∧ t.hp.lostReply = s.hp.lostReply
  let conventional := fun (c : Instr) (s : State) => ∃ t, exec c s = .next t ∧ common s t ∧
    t.hp = { notOwner := s.hp.notOwner, lostReply := s.hp.lostReply, cause := t.hp.cause, pba := t.hp.pba } ∧
    (∀ x ∈ t.ck.cmds, ∀ q : Idx64, x.origin = .queue q → (s.queue q).loc = 1 → ((s.queue q).enable = true ∨ (s.queue q).drain = true) →
      x.lost = true) ∧
    keepsBut [.port, .mailboxes, .clerk, .out] s t
  (∀ (s : State) (ns : Nat), 100000 ≤ ns → conventional (.conventionalReset (.perst ns)) s) ∧
  (∀ s : State, conventional (.conventionalReset .hotReset) s ∧ conventional (.conventionalReset .linkDown) s) ∧
  (∀ (s : State) (ns : Nat), ns < 1000 → exec (.conventionalReset (.perst ns)) s = .next s) ∧
  (∀ s : State, (s.hp.linkUp = false ∨ s.portReset ≠ none) → exec .functionLevelReset s = .next s) ∧
  (∀ (s : State) (r : PortReset), s.hp.linkUp = true → s.portReset = some r → r.cxl = true → exec .cxlReset s = .next s) ∧
  (∀ (s : State) (r : PortReset), s.hp.linkUp = true → s.portReset = some r → r.cxl = false →
    ∃ t, exec .cxlReset s = .next t ∧ t.hp.resetting = some { r with cxl := true } ∧ t.hp.mask = 0 ∧
      (r.ended = true → t.hp.cause.getLsbD 4 = true) ∧ t.ck.owner ≠ .host) ∧
  (∀ s : State, s.hp.linkUp = true → s.portReset = none → ∃ t, exec .functionLevelReset s = .next t ∧ common s t ∧
    (∃ r, t.hp.resetting = some r ∧ r.cxl = false ∧ r.until_ ≤ s.clk.time.toNat + 100000000 ∧ r.ended = decide (s.ck.owner = .host)) ∧ t.hp.hdm0 = s.hp.hdm0 ∧ t.hp.hdm1 = s.hp.hdm1 ∧
    t.hp.dec0 = s.hp.dec0 ∧ t.hp.dec1 = s.hp.dec1 ∧ t.hp.ide0 = s.hp.ide0 ∧ t.hp.ide1 = s.hp.ide1 ∧ t.hp.snoop = s.hp.snoop ∧
    t.hp.linkUp = s.hp.linkUp ∧ t.hp.mode = s.hp.mode ∧ t.hp.width = s.hp.width ∧ keepsBut [.port, .mailboxes, .clerk, .out, .free] s t) ∧
  (∀ s : State, s.hp.linkUp = true → s.portReset = none → s.ck.stalls = [] → s.ck.quiescing = [] → ∃ t, exec .cxlReset s = .next t ∧ common s t ∧
    t.hp = { notOwner := s.hp.notOwner, lostReply := s.hp.lostReply, linkUp := s.hp.linkUp, mode := s.hp.mode, width := s.hp.width,
             cause := t.hp.cause, pba := t.hp.pba, resetting := t.hp.resetting } ∧
    (∃ r, t.hp.resetting = some r ∧ r.cxl = true ∧ r.until_ ≤ s.clk.time.toNat + 100000000) ∧
    keepsBut [.port, .mailboxes, .clerk, .out, .free] s t) ∧
  (∀ s : State, s.hp.linkUp = true → s.portReset = none → ∃ t, exec .cxlReset s = .next t ∧ t.mb = { s.mb with h2c := [], c2h := [], hold := [], dbStray := 0 } ∧
    t.ck.owner = (if s.ck.owner = .host then .nobody else s.ck.owner) ∧ t.ck.heldClaim = false ∧ t.hp.mask = 0 ∧
    t.hp.linkUp = s.hp.linkUp ∧ t.hp.mode = s.hp.mode ∧ t.hp.width = s.hp.width ∧
    keepsBut [.port, .mailboxes, .clerk, .out, .memory, .poison, .mgmt, .free] s t)

/-- With input power good and no thermal trip, a MOD_RESET_N pulse of 100 µs or more, and a pulse of any length once
FW_ACTIVATE has asked for the reset, returns the port, the mailboxes, the Clerk, Abond, the Tallyman, the bays, dies,
units, capsules and power states to their reset values, residency counted from then on: memory reads 0, READY is 0,
nobody owns, no command is left. Module time, package flash, host memory and the queue of waiting commands stay, but a
boot chain that the reset cuts 22 ms after T0 or later has raised TRIES of the slot it tried; and the next record
index is the first multiple of 256 not below the old one. A pulse below 1 µs changes nothing. During a trip a pulse of
100 µs is held, whatever FW_ACTIVATE asked for, and HELD_MODULE_RESET below 90 °C then resets and releases the trip.
(R474, R383, R418, R471, R446.) -/
def Obligations.ModuleResets : Prop :=
  let clean := fun (c : Instr) (s : State) => let u := s.cutBoot; ∃ t, exec c s = .next t ∧
    (∀ a, t.byte a = 0) ∧ t.poison = [] ∧ t.hp = {} ∧ t.mb = {} ∧ t.ck = {} ∧ t.ab = {} ∧ t.tal = {} ∧ t.bays = [] ∧ t.dies = [] ∧
    t.ostlers = [] ∧ t.units = [] ∧ t.capsules = [] ∧ (∀ u, u < 141 → t.power u = { lastTick := s.clk.ticks, idleFrom := s.clk.time.toNat }) ∧ t.boot.ready = false ∧ t.boot.halted = false ∧ t.brd.trip = false ∧
    t.mg.nextIndex.toNat = (u.mg.nextIndex.toNat + 255) / 256 * 256 % 2 ^ 32 ∧ t.mg.log = [] ∧ t.mg.kept = u.mg.kept ∧
    keepsBut [.out, .memory, .poison, .staging, .board, .boot, .port, .mailboxes, .clerk, .stackTab, .ostlers, .abond, .tally, .dies,
      .bays, .millers, .power, .refusals, .units, .capsules, .mgmt] u t
  (∀ (s : State) (ns : Nat), s.brd.pg = true → s.brd.trip = false → 100000 ≤ ns → clean (.moduleReset ns) s) ∧
  (∀ (s : State) (ns : Nat), s.brd.pg = true → s.brd.trip = false → s.boot.nowResetAt.isSome = true → clean (.moduleReset ns) s) ∧
  (∀ (s : State) (ns : Nat), s.boot.nowResetAt = none → ns < 1000 → exec (.moduleReset ns) s = .next s) ∧
  (∀ (s : State) (ns : Nat), s.brd.pg = true → s.brd.trip = true → 100000 ≤ ns →
    exec (.moduleReset ns) s = .next { s with brd := { s.brd with resetHeld := true } }) ∧
  (∀ (s : State) (c : Int), s.brd.resetHeld = true → c < 90 → clean (.heldModuleReset c) s) ∧
  (∀ s : State, s.booting = false → s.cutBoot = s) ∧
  (∀ (s : State) (n : Nat) (k : Fin 2), s.booting = true → s.brd.pg = true → s.boot.t0 = some n → s.reached (n + 22000000) = true → s.flash.ptr.pending = some k → k ≠ s.flash.committed →
    s.flash.ptr.tries < 2 → s.flash.ptr.seq.toNat + 1 < 2 ^ 32 → s.cutBoot.flash.ptr.pending = some k ∧ s.cutBoot.flash.ptr.tries = s.flash.ptr.tries + 1 ∧ keepsBut [.flash] s s.cutBoot) ∧
  (∀ (s : State) (c : Int), 90 ≤ c → exec (.heldModuleReset c) s = .next s)

/-- INRUSH_CLOSE closes the open switch exactly when the sense blade is mated and the input has been above 40.0 V for 10
ms. POWER_GOOD_RISE with the switch closed starts the management ROM; within 5 ms of the fall the management state
stays. MOD_PG_ASSERT from 25 ms after power good asserts MOD_PG and takes T0 if ABREF is present. POWER_GOOD_FALL and
SENSE_BREAK release MOD_PG, count in UVCOUNT, send a UNIT_STATE message (KIND 2) and an in-band interrupt, and leave
no memory, no command and READY 0, as a module reset; SENSE_BREAK also opens the switch. With power good false a fall
changes nothing. LED_PWR is on exactly while MOD_PG is asserted; LED_STAT is off with a halted boot or a failed
module, and on with READY 1 of an image that is not the recovery image; LED_FAULT blinks at 4 Hz in a thermal trip and
is off where no unit is FENCED, nothing failed and no boot halted; an output that is on is always lit, and one that is
off never. (R470, R471, R472, R445, R473, R483.) -/
def Obligations.PowerInput : Prop :=
  (∀ (s : State) (m : Bool) (ns : Nat), s.brd.inrush = false → exec (.inrushClose m ns) s =
    .next { s with brd := { s.brd with sense := m, inrush := m && decide (10000000 ≤ ns), inrushAt := if (m && decide (10000000 ≤ ns)) = true then s.clk.ticks else s.brd.inrushAt } }) ∧
  (∀ s : State, s.brd.inrush = false ∨ s.clk.ticks < s.brd.inrushAt + 900000 → exec .powerGoodRise s = .next s) ∧
  (∀ s : State, s.brd.inrush = true → s.brd.inrushAt + 900000 ≤ s.clk.ticks → s.brd.pg = false → (∀ f, s.brd.fellAt = some f → s.clk.ticks < f + 5000000) →
    ∃ t, exec .powerGoodRise s = .next t ∧ t.brd = { s.brd with pg := true, mgmtRom := true, pgAt := s.clk.ticks, fellAt := none } ∧
      t.out = s.out ++ [.ibi] ∧ t.boot = { s.boot with mgmtDigest := t.boot.mgmtDigest } ∧ keepsBut [.board, .boot, .out] s t) ∧
  (∀ s : State, s.brd.pg = true → s.brd.mgmtRom = true → s.brd.mgmtRun = false → s.brd.pgAt + 25000000 ≤ s.clk.ticks →
    ∃ t, exec .modPgAssert s = .next t ∧ t.brd = { s.brd with mgmtRun := true, modPg := true } ∧
      t.boot = { s.boot with t0 := if s.brd.abrefOk && s.boot.t0.isNone && !s.brd.trip then some s.clk.time.toNat else s.boot.t0 } ∧
      keepsBut [.board, .boot] s t) ∧
  (∀ s : State, s.brd.pg = true →
    let falls := fun (c : Instr) (t : State) => exec c s = .next t ∧ t.brd.pg = false ∧ t.brd.modPg = false ∧ t.brd.mgmtRun = false ∧
      t.brd.fellAt = some s.clk.ticks ∧ t.brd.uvCount.toNat = min (s.brd.uvCount.toNat + 1) 65535 ∧ t.boot.ready = false ∧
      t.boot.t0 = none ∧ t.ck = {} ∧ (∀ a, t.byte a = 0) ∧ t.hp = {} ∧ t.ab = {} ∧
      (∃ m, t.mg.unacked.getLast? = some m ∧ m.kind = 2) ∧ t.out.getLast? = some .ibi ∧
      t.flash = s.cutBoot.flash ∧ t.hostMem = s.hostMem ∧ t.clk = { s.clk with onAbref := false } ∧ t.pending = s.pending
    (∃ t, falls .powerGoodFall t ∧ t.brd.inrush = s.brd.inrush ∧ t.brd.sense = s.brd.sense) ∧
    (∃ t, falls .senseBreak t ∧ t.brd.inrush = false ∧ t.brd.sense = false)) ∧
  (∀ s : State, s.brd.pg = false → exec .powerGoodFall s = .next s) ∧
  (∀ s : State, s.ledPwr = (if s.brd.modPg then .on else .off) ∧ (s.boot.halted = true ∨ s.boot.failed = true → s.ledStat = .off) ∧
    (s.boot.halted = false → s.boot.failed = false → s.boot.ready = true → s.boot.slot ≠ 2 → s.ledStat = .on) ∧
    (s.brd.trip = true → s.ledFault = .blink 4) ∧
    (s.brd.trip = false → s.boot.failed = false → s.boot.halted = false → (∀ x ∈ s.units, x.2.clerk ≠ .fenced) → s.ledFault = .off) ∧
    (∀ k, s.lit k .on = true ∧ s.lit k .off = false))

/-- ABREF_LOSS of more than 10 µs clears ABREFOK, takes every Abond port DOWN, leaves module time where it stands on the
internal oscillator, and raises an in-band interrupt; a shorter one changes nothing. ABREF_RESTORE after 1 ms with
power good sets ABREFOK, and T0 if the boot waits for it. CXL_REFCLK_LOSS is the conventional reset of a link down
with CXLREFOK 0 and an in-band interrupt; CXL_REFCLK_RETURN sets CXLREFOK. CXL_LINK_UP from T0 + 2 ms with the clock
present and 4, 8 or 16 lanes sets the link's width, and its mode to the first of Table 10-2 that the host supports,
service mode where it supports none. (R478, R283, R246, R482.) -/
def Obligations.ReferenceClocks : Prop :=
  (∀ (s : State) (ns : Nat), 10000 < ns → s.brd.abrefOk = true →
    ∃ t, exec (.abrefLoss ns) s = .next t ∧ t.brd = { s.brd with abrefOk := false } ∧ t.clk = { s.clk with onAbref := false } ∧
      (∀ p : Idx64, (t.port p).nbr.state = .down) ∧ t.out.getLast? = some .ibi) ∧
  (∀ (s : State) (ns : Nat), ns ≤ 10000 → exec (.abrefLoss ns) s = .next s) ∧
  (∀ (s : State) (ns : Nat), 1000000 ≤ ns → s.brd.abrefOk = false → s.brd.pg = true →
    ∃ t, exec (.abrefRestore ns) s = .next t ∧ t.brd = { s.brd with abrefOk := true } ∧ t.clk = { s.clk with onAbref := true } ∧
      t.boot = { s.boot with t0 := if s.brd.mgmtRun && s.boot.t0.isNone && !s.brd.trip then some s.clk.time.toNat else s.boot.t0 } ∧
      t.out = s.out ++ [.ibi] ∧ keepsBut [.board, .time, .boot, .out] s t) ∧
  (∀ s : State, s.brd.cxlRefOk = true → ∃ u, exec (.conventionalReset .linkDown) { s with brd := { s.brd with cxlRefOk := false } } = .next u ∧
    exec .cxlRefclkLoss s = .next { u with out := u.out ++ [.ibi] } ∧ u.hp.linkUp = false ∧ u.brd = { s.brd with cxlRefOk := false }) ∧
  (∀ s : State, s.brd.cxlRefOk = false → s.brd.pg = true →
    exec .cxlRefclkReturn s = .next { s with brd := { s.brd with cxlRefOk := true }, out := s.out ++ [.ibi] }) ∧
  (∀ (s : State) (t0 : Nat) (h : BitVec 5) (w : Nat), s.boot.t0 = some t0 → s.reached (t0 + 2000000) = true → s.brd.cxlRefOk = true →
    (w = 4 ∨ w = 8 ∨ w = 16) → s.hp.linkUp = false →
    ∃ m, exec (.cxlLinkUp h w) s = .next { s with hp := { s.hp with linkUp := true, mode := m, width := w } } ∧
      m ≤ 5 ∧ (m < 5 → h.getLsbD m = true) ∧ (∀ k, k < m → k < 5 → h.getLsbD k = false))

/-- A SYNC_IN pulse at a whole second within 100 ms of module time, with the management controller running, sets module
time within 2 ns of that second and steers it from then on; one more than 100 ms away is ignored. With no pulse for 3
s of module time, one latched on the same edge counting (R31), time follows PTP alone; a PTP message then sets module
time, and does not while SYNC_IN steers. While PPS holds SYNC_OUT it rises at a whole second of module time and falls
100 ms later (to 10 ns); a STEPMARK pulse falls when its 1 µs has passed. Nothing else of the part changes. (R480,
R31, R32, R351, R6.) -/
def Obligations.ModuleTimeAndSyncOut : Prop :=
  (∀ (s : State) (utc : U64), utc.toNat % 1000000000 = 0 → s.brd.mgmtRun = true →
    utc.toNat ≤ s.clk.time.toNat + 100000000 → s.clk.time.toNat ≤ utc.toNat + 100000000 →
    ∃ t, exec (.syncInPulse utc) s = .next t ∧ (∃ d : Nat, d ≤ 4 ∧ t.clk.time + 2 = utc + BitVec.ofNat 64 d) ∧
      t.clk.ptpOnly = false ∧ t.clk.lastSync = some utc ∧ t.clk.lastSyncTicks = s.clk.time.toNat ∧ t.clk.ticks = s.clk.ticks ∧
      keepsBut [.time, .free] s t) ∧
  (∀ (s : State) (utc : U64), (s.clk.time.toNat + 100000000 < utc.toNat ∨ utc.toNat + 100000000 < s.clk.time.toNat) →
    exec (.syncInPulse utc) s = .next s) ∧
  (∀ (s : State) (utc : U64), .syncInPulse utc ∈ s.pending → exec .syncInTimeout s = .next s) ∧
  (∀ s : State, s.clk.ptpOnly = false → s.reached (s.clk.lastSyncTicks + 3000000000) = true → (∀ utc, .syncInPulse utc ∉ s.pending) →
    exec .syncInTimeout s = .next { s with clk := { s.clk with ptpOnly := true } }) ∧
  (∀ (s : State) (utc : U64), s.brd.mgmtRun = true → s.clk.ptpOnly = true →
    exec (.ptpMessage utc) s = .next { s with clk := { s.clk with time := utc } }) ∧
  (∀ (s : State) (utc : U64), s.clk.ptpOnly = false → exec (.ptpMessage utc) s = .next s) ∧
  (∀ (s : State) (c : Claim), s.holder 1 0xFF = some c → c.holder = 1 →
    (s.clk.time.toNat % 1000000000 ≤ 10 ∨ 999999990 ≤ s.clk.time.toNat % 1000000000 →
      exec .ppsPulse s = .next { s with brd := { s.brd with syncOut := true } }) ∧
    (99999990 ≤ s.clk.time.toNat % 1000000000 → s.clk.time.toNat % 1000000000 < 999999990 →
      exec .ppsPulseEnd s = .next { s with brd := { s.brd with syncOut := false } })) ∧
  (∀ (s : State) (f : Nat), s.brd.syncFall = some f → s.reached f = true →
    exec .stepmarkEnd s = .next { s with brd := { s.brd with syncOut := false, syncFall := none } })

/-- BOOT_CHAIN after T0 with power good and no trip: a die whose PUF reads fail three times halts the boot with a security
record of CODE 3 from T0 + 3 ms, a replay-protected region that does not authenticate with CODE 5 from T0 + 4 ms;
otherwise, from T0 + 565 ms, where an image is chosen and every test record is accepted, the module is READY from that
slot with no CLAIM left waiting, and else the boot has halted with READY 0 and every die but the Clerk island held
(images and test records are opaque). READY_TIMEOUT 3 s after T0, the chain's end not being latched on the same edge
(then it changes nothing, R31), leaves READY 0 and either starts the chain again or has halted the boot.
RNG_HEALTH_FAIL stops the generator with a record of CODE 10. The earliest times are the model's reading of Table
16-4. (R445, R447, R305, R456, R31, R32.) -/
def Obligations.BootChainEnds : Prop :=
  let last := fun (t : State) (cls code : Byte) (i : U32) => ∃ r, t.mg.log.getLast? = some r ∧ r.cls = cls ∧ r.code = code ∧ r.index = i
  let halted := fun (t : State) => t.boot.halted = true ∧ t.boot.ready = false ∧ t.brd.powered = false
  (∀ (s : State) (r : BootResult) (t0 : Nat), s.boot.t0 = some t0 → s.boot.ready = false → s.boot.halted = false →
    s.boot.failed = false → s.brd.pg = true → s.brd.trip = false →
    ((∃ d : Fin 4, 3 ≤ r.pufReads.getD d 0) → s.reached (t0 + 3000000) = true →
      ∃ t, exec (.bootChain r) s = .next t ∧ halted t ∧ last t 8 3 s.mg.nextIndex ∧
        keepsBut [.boot, .board, .mgmt, .port, .out, .free] s t) ∧
    ((∀ d : Fin 4, r.pufReads.getD d 0 < 3) → r.regionOk = false → s.reached (t0 + 4000000) = true →
      ∃ t, exec (.bootChain r) s = .next t ∧ halted t ∧ last t 8 5 s.mg.nextIndex ∧
        keepsBut [.boot, .board, .mgmt, .port, .out, .free] s t) ∧
    ((∀ d : Fin 4, r.pufReads.getD d 0 < 3) → r.regionOk = true → (∀ ns, ns ≤ 565000000 → s.reached (t0 + ns) = true) →
      ∃ t, exec (.bootChain r) s = .next t ∧
        (if s.chooseImage.slot.isSome && badTestRecord.isNone then t.boot.ready = true ∧ t.boot.halted = false ∧ t.ck.heldClaim = false ∧ s.chooseImage.slot = some t.boot.slot
          else halted t))) ∧
  (∀ (s : State) (t0 : Nat), s.boot.t0 = some t0 → s.boot.ready = false → s.boot.halted = false → s.boot.failed = false →
    s.brd.pg = true → s.reached (t0 + 3000000000) = true → (∀ r, .bootChain r ∉ s.pending) →
    ∃ t, exec .readyTimeout s = .next t ∧ t.boot.ready = false ∧ t.clk = s.clk ∧
      (t.boot.halted = true ∨ t.boot.t0 = if s.brd.pg && s.brd.mgmtRun && s.brd.abrefOk then some s.clk.time.toNat else none)) ∧
  (∀ (s : State) (r : BootResult), .bootChain r ∈ s.pending → exec .readyTimeout s = .next s) ∧
  (∀ s : State, s.boot.rngStopped = false →
    ∃ t, exec .rngHealthFail s = .next t ∧ t.boot = { s.boot with rngStopped := true } ∧ last t 8 10 s.mg.nextIndex ∧
      keepsBut [.boot, .mgmt, .port, .out, .free] s t)

/-- ERROR_RECORD_REPORT of an unsent record that is still kept, REMAP of a cause that is due and CAPSULE_REQ of a stored
capsule add one message of KIND 1, 3 or 5 with the next MSEQ to the unacknowledged ones, and put it on the network
when a collector is set, as a datagram of 32 bytes of header, MVER 1, KIND, MSEQ, MODID, TIME, REF and LEN in their
places (Table 15-5), and the payload. MGMT_RESEND sends every message 100 ms old again, oldest first, but for one
whose ACK is latched on the same edge. ACK removes the messages of its MSEQ. SET_COLLECTOR is taken when no collector
is set, sending what waits, and from the present collector; any other sender's changes nothing. SET_THRESHOLDS takes
the throttle limit if it is not 0 and the bay limit if it lies in 1 to 64. (R419, R417, R434, R31, Table 15-5.) -/
def Obligations.ManagementMessages : Prop :=
  (∀ (s : State) (m : MgmtMsg), ∃ b, s.datagram m = .datagram m.kind m.mseq m.ref b ∧ b.length = 32 + m.payload.length ∧ b.drop 32 = m.payload ∧
    (let h := natLE (b.take 32)
     h / 2 ^ 248 = 1 ∧ h / 2 ^ 240 % 256 = m.kind.toNat ∧ h / 2 ^ 208 % 2 ^ 32 = m.mseq.toNat ∧ h / 2 ^ 144 % 2 ^ 64 = modid.toNat ∧
     h / 2 ^ 64 % 2 ^ 64 = s.clk.time.toNat ∧ h / 2 ^ 32 % 2 ^ 32 = m.ref.toNat ∧ h / 2 ^ 16 % 2 ^ 16 = m.payload.length % 2 ^ 16 ∧
     h.testBit 15 = s.ab.fidValid ∧ (s.ab.fidValid = true → h / 2 ^ 128 % 2 ^ 16 = s.ab.fid.toNat))) ∧
  let sends := fun (c : Instr) (s : State) (kind : Byte) (ref : U32) (payload : List Byte) (t : State) => exec c s = .next t ∧
    t.mg.unacked.getLast? = some ⟨kind, s.mg.mseq, ref, payload, s.clk.time.toNat⟩ ∧ t.mg.mseq = s.mg.mseq + 1 ∧
    (s.mg.unacked.length < 65536 → t.mg.unacked = s.mg.unacked ++ [⟨kind, s.mg.mseq, ref, payload, s.clk.time.toNat⟩] ∧ t.mg.drops = s.mg.drops) ∧
    t.out = s.out ++ (if s.mg.collector.isSome then [s.datagram ⟨kind, s.mg.mseq, ref, payload, s.clk.time.toNat⟩] else []) ∧ keepsBut [.mgmt, .out] s t
  (∀ (s : State) (i : U32) (r : ErrRec), i ∈ s.mg.unsent → s.mg.kept.find? (fun r => r.index = i) = some r →
    ∃ t, sends (.errorRecordReport i) s 1 i r.bytes t ∧ i ∉ t.mg.unsent ∧ t.mg.log = s.mg.log ∧ t.mg.kept = s.mg.kept) ∧
  (∀ (s : State) (n : Nat), n ∈ s.mg.remapDue →
    ∃ t, sends (.remap n) s 3 (BitVec.ofNat 32 n) [] t ∧ t.mg.remapDue = s.mg.remapDue.erase n) ∧
  (∀ (s : State) (i : U32) (k : Capsule), (s.capsules.filterMap (fun x => x.2)).find? (fun k => k.record = i) = some k →
    ∃ t, sends (.capsuleReq i) s 5 i k.data t) ∧
  (∀ s : State, s.mg.collector.isSome = true → ∃ t, exec .mgmtResend s = .next t ∧
    t.out = s.out ++ (s.mg.unacked.filter (fun m => s.reached (m.sentAt + 100000000) && decide (.ack m.mseq ∉ s.pending))).map s.datagram ∧
    t.mg.unacked.map (fun m => (m.kind, m.mseq, m.ref, m.payload)) = s.mg.unacked.map (fun m => (m.kind, m.mseq, m.ref, m.payload)) ∧
    keepsBut [.mgmt, .out] s t) ∧
  (∀ (s : State) (n : U32), (∃ m ∈ s.mg.unacked, m.mseq = n) → ∃ t, exec (.ack n) s = .next t ∧
    t.mg.unacked = s.mg.unacked.filter (fun m => m.mseq ≠ n) ∧
    t.mg = { s.mg with unacked := t.mg.unacked, lastAcked := t.mg.lastAcked } ∧ keepsBut [.mgmt] s t) ∧
  (∀ (s : State) (a b : BitVec 128), s.mg.collector = none → ∃ t, exec (.setCollector a b) s = .next t ∧
    t.mg = { s.mg with collector := some b } ∧
    t.out = s.out ++ s.mg.unacked.map s.datagram ∧ keepsBut [.mgmt, .out] s t) ∧
  (∀ (s : State) (a b c : BitVec 128), s.mg.collector = some c → exec (.setCollector a b) s =
    .next (if a = c then { s with mg := { s.mg with collector := some b } } else s)) ∧
  (∀ (s : State) (n : U16) (b : Byte), ∃ t, exec (.setThresholds n b) s = .next t ∧
    t.mg.throttleLimit = (if n = 0 then s.mg.throttleLimit else n) ∧
    t.mg.bayLimit = (if 1 ≤ b.toNat ∧ b.toNat ≤ 64 then b else s.mg.bayLimit) ∧ keepsBut [.mgmt] s t)

/-- MODULE_FAILURE (an uncorrectable word in Clerk memory, the loss of die 0's Yard stop, a missing heartbeat, a thermal
trip that has come about, three resets of the management controller within 1 s) and CLERK_WATCHDOG after 500 µs clear
READY, leave no accepted command, take every Abond port DOWN and raise remap reason 4. MGMT_WATCHDOG after 100 µs
notes the reset and sends every record again from the last acknowledged one onward. THERMAL_TRIP at 115 °C removes
power, asserts the trip, writes a power record, counts once in SAFETY, takes every Abond port DOWN, leaves every bay,
Miller, port and die reporting BO and no request waiting at an Ostler, and keeps memory, units, flash and time; where
no port was carrying, the commands stay too. Below their limits the last three change nothing. (R433, R420, R383,
R384, R409.) -/
def Obligations.ModuleFailureAndTrip : Prop :=
  let fails := fun (c : Instr) (s : State) => ∃ t, exec c s = .next t ∧ t.boot.ready = false ∧ t.boot.failed = true ∧ t.ck.cmds = [] ∧
    (∀ p : Idx64, (t.port p).nbr.state = .down) ∧ 4 ∈ t.mg.remapDue ∧ t.clk = s.clk ∧ t.brd = s.brd ∧ t.flash = s.flash
  (∀ (s : State) (x : FailCause), s.boot.failed = false →
    (x = .thermalTrip → s.brd.trip = true) →
    (x = .mgmtResets → 3 ≤ (s.mg.resets.filter (fun t => !s.reached (t + 1000000000))).length) →
    fails (.moduleFailure x) s) ∧
  (∀ (s : State) (ns : Nat), s.boot.failed = false → 500000 ≤ ns → fails (.clerkWatchdog ns) s) ∧
  (∀ (s : State) (ns : Nat), ns < 500000 → exec (.clerkWatchdog ns) s = .next s) ∧
  (∀ (s : State) (ns : Nat), 100000 ≤ ns → ∃ t, exec (.mgmtWatchdog ns) s = .next t ∧ t.mg.resets.getLast? = some s.clk.time.toNat ∧
    (s.mg.lastAcked = none → t.mg.unsent = s.mg.kept.map (fun r => r.index) ++ [s.mg.nextIndex]) ∧
    (∀ m ∈ t.mg.unacked, m.kind ≠ 1) ∧ t.mg.nextIndex = nextIndex s.mg.nextIndex ∧
    keepsBut [.mgmt, .port, .out, .free] s t) ∧
  (∀ (s : State) (ns : Nat), ns < 100000 → exec (.mgmtWatchdog ns) s = .next s) ∧
  (∀ (s : State) (c : Int), 115 ≤ c → s.brd.trip = false → ∃ t, exec (.thermalTrip c) s = .next t ∧
    t.brd = { s.brd with trip := true, powered := false } ∧ t.mg.nextIndex = nextIndex s.mg.nextIndex ∧
    (∃ r, t.mg.log.getLast? = some r ∧ r.cls = 4) ∧ t.out.getLast? = some .ibi ∧
    t.tal.tot.safety.toNat = min (s.tal.tot.safety.toNat + 1) 65535 ∧ (∀ p : Idx64, (t.port p).nbr.state = .down) ∧
    (∀ u, u < 140 → (t.power u).state = .bo) ∧ (∀ o ∈ t.ostlers, o.2.queue = []) ∧ ((∀ p : Idx64, (s.port p).nbr.state = .down) → t.ck = s.ck) ∧
    keepsBut [.board, .mgmt, .port, .out, .free, .tally, .power, .abond, .ostlers, .clerk] s t) ∧
  (∀ (s : State) (c : Int), c < 115 → exec (.thermalTrip c) s = .next s)

/-- A corrected read in an activation store counts in its bay's unit alone. A corrected read of an address in stack k adds
1 to CORR of stack k (saturating) and changes no memory and no other stack; before the row's third occasion within 24
h nothing else changes; on the third, with a spare row left in the bank, FIELDROWS rises and the repair joins the list
while it has room; with none left the stack is DEGRADED. An uncorrectable read adds 1 to UNCORR, poisons its line
alone, writes a memory record of CODE 2, and ends the command that consumed it, other than a running UPDATE_LAYER
(CommandsRunAndComplete), with ECC_UNCORRECTED and the stack's unit code. A scrub read in self-refresh changes
nothing; else one that finds nothing advances the scrub; one that finds two or more symbols poisons and fails no
command. A second correction of an SRAM word counts in its unit, for a unit without module addresses together with the
first (the model's choice, log 60), writes a record of CODE 3 and makes its unit due. The refresh rate doubles above
85 °C and returns below 82 °C. (R204, R218, R219, R220, R221, R405, R414, R222.) -/
def Obligations.MemoryErrorEvents : Prop :=
  let others := fun (s t : State) (k : Nat) => ∀ j, j ≠ k → t.stack j = s.stack j
  (∀ (s : State) (a : BitVec 48) (b w k : Nat), storeBay a.toNat = some k →
    ∃ t, exec (.dramReadCorrected a b w) s = .next t ∧ (t.unit (0x1000 + k)).corr.toNat = min ((s.unit (0x1000 + k)).corr.toNat + 1) 0xFFFFFFFF ∧
      (∀ j, j ≠ 0x1000 + k → t.unit j = s.unit j) ∧ keepsBut [.units] s t) ∧
  (∀ (s : State) (a : BitVec 48) (b w k : Nat), stackOf a.toNat = some k →
    let hits := ((s.stack k).rowHits.filter (fun h => s.reached (h.2.2 + 86400000000000) = false ∧ h.1 = b ∧ h.2.1 = w)).length
    ∃ t, exec (.dramReadCorrected a b w) s = .next t ∧ others s t k ∧
      (t.stack k).corr.toNat = min ((s.stack k).corr.toNat + 1) 0xFFFFFFFF ∧ (t.stack k).uncorr = (s.stack k).uncorr ∧
      (hits < 2 → (t.stack k).fieldRows = (s.stack k).fieldRows ∧ keepsBut [.stackTab] s t) ∧
      (2 ≤ hits → s.sparedIn k b < (if k < 16 then 2 else 4) →
        (t.stack k).fieldRows.toNat = min ((s.stack k).fieldRows.toNat + 1) 65535 ∧ t.mg.nextIndex = nextIndex s.mg.nextIndex ∧
        t.flash.repairList.length = min 6144 (s.flash.repairList.length + 1) + (s.flash.repairList.length - 6144)) ∧
      (2 ≤ hits → (if k < 16 then 2 else 4) ≤ s.sparedIn k b → (t.stack k).degraded = true ∧ t.flash = s.flash) ∧
      keepsBut [.stackTab, .flash, .mgmt, .port, .out, .free] s t) ∧
  (∀ (s : State) (a : BitVec 48) (c : Option CmdNo) (k : Nat), stackOf a.toNat = some k → (∀ n, c = some n → s.running n 0x0501 = none) →
    ∃ t, exec (.uncorrectableRead a c) s = .next t ∧ others s t k ∧
      (t.stack k).uncorr.toNat = min ((s.stack k).uncorr.toNat + 1) 0xFFFFFFFF ∧
      (∀ l, t.poison.contains l = (decide (l = a.toNat / 64) || s.poison.contains l)) ∧
      t.mg.nextIndex = nextIndex s.mg.nextIndex ∧
      (∃ r, t.mg.log.getLast? = some r ∧ r.cls = 2 ∧ r.code = 2 ∧ r.unit = stackCode k) ∧
      (∀ n x, c = some n → s.cmd n = some x → x.phase ≠ .ended →
        t.cmd n = some { x with phase := .ended, status := 0x21, detail := stackCode k, errIdx := s.mg.nextIndex }) ∧
      keepsBut [.stackTab, .poison, .clerk, .mgmt, .port, .out, .free] s t) ∧
  (∀ (s : State) (a : BitVec 48) (b w k n : Nat), stackOf a.toNat = some k → (s.stack k).selfRefresh = true → exec (.scrubRead a b w n) s = .next s) ∧
  (∀ (s : State) (a : BitVec 48) (b w k : Nat), stackOf a.toNat = some k → (s.stack k).selfRefresh = false →
    (∃ t, exec (.scrubRead a b w 0) s = .next t ∧ others s t k ∧ keepsBut [.stackTab] s t ∧
      t.stack k = (if (s.stack k).scrubNext + 1 < stackLines k then { s.stack k with scrubNext := (s.stack k).scrubNext + 1 }
        else { s.stack k with scrubNext := 0, scrubTime := s.clk.time })) ∧
    (∀ n, 2 ≤ n → ∃ t, exec (.scrubRead a b w n) s = .next t ∧ t.poison.contains (a.toNat / 64) = true ∧
      (t.stack k).uncorr.toNat = min ((s.stack k).uncorr.toNat + 1) 0xFFFFFFFF ∧
      keepsBut [.stackTab, .poison, .mgmt, .port, .out, .free] s t)) ∧
  (∀ (s : State) (u : U16) (w b : Nat) (syn : Byte), ∃ t, exec (.sramSecondCorrection u w b syn) s = .next t ∧ (t.unit u.toNat).due = true ∧
    (t.unit u.toNat).corr.toNat = min ((s.unit u.toNat).corr.toNat + (if unitKind u.toNat = 1 then 1 else 2)) 0xFFFFFFFF ∧ (t.unit u.toNat).clerk = (s.unit u.toNat).clerk ∧
    (∃ r, t.mg.log.getLast? = some r ∧ r.cls = 2 ∧ r.code = 3 ∧ r.unit = u) ∧ keepsBut [.units, .mgmt, .port, .out, .free] s t) ∧
  (∀ (s : State) (k : Fin 48) (c : Int), ∃ t, exec (.refreshRateChange k c) s = .next t ∧ others s t k ∧
    (t.stack k).hotref = (decide (85 < c) || (decide (82 ≤ c) && (s.stack k).hotref)) ∧ keepsBut [.stackTab] s t)

/-- RESIDUE_DETECTION, whose predicted and actual residues differ at a point of the unit's kind, on a bay, Miller, port or
engine that was ACTIVE up to this edge makes the unit SUSPECT in the Clerk's view alone, queues its test, writes one
record whose index the unit keeps, and ends the command involved with RESIDUE_MISMATCH and the unit code in DETAIL. A
detection that stops a running UPDATE_LAYER which had an update to do leaves DIRTY set in its record, and writes of
the update may have been made (R182). PARITY_ERROR makes such a unit SUSPECT in both views with a control record of
CODE 3. VIEW_COMPARE starts the time of every disagreement and ends that of every unit whose views agree, and changes
nothing else where no stack's health has changed; VIEW_DISAGREEMENT after 100 µs, nothing that clears it being latched
on the same edge (R31), makes the unit SUSPECT in both views with a control record of CODE 4 and queues its test.
CAPSULE_COPY moves the frozen capsule to a slot of the store; CAPSULE_RELEASE frees a slot 24 h after its unit's
verdict. YARD_EDGE_WITHDRAW withdraws the edge with a control record of CODE 7 and remap reason 3. No memory changes.
(R31, R182, R222, R413, R417, R419, R422.) -/
def Obligations.DetectionsMakeUnitsSuspect : Prop :=
  let last := fun (s t : State) (cls code : Byte) (u : U16) =>
    ∃ r, t.mg.log.getLast? = some r ∧ r.cls = cls ∧ r.code = code ∧ r.unit = u ∧ r.index = s.mg.nextIndex
  (∀ (s : State) (u : U16) (code : Byte) (w b : Nat) (syn : BitVec 128) (data : List Byte) (n : CmdNo) (x : Cmd) (a : Applied),
    s.running n 0x0501 = some x → s.updateOf x = some a → code = 0 ∨ residueFires u.toNat code.toNat syn.toNat = true →
    ∃ t, exec (.residueDetection u code w syn data (some n) b) s = .next t ∧ (t.layerRec (x.addr 0)).ro.dirty = true) ∧
  (∀ (s : State) (u : U16) (code : Byte) (w b : Nat) (syn : BitVec 128) (data : List Byte) (c : Option CmdNo),
    hasState u.toNat = true → (s.unit u.toNat).clerk = .active → (s.unit u.toNat).before s.clk.ticks = .active → code ≠ 0 →
    residueFires u.toNat code.toNat syn.toNat = true →
    (∀ n, c = some n → s.running n 0x0501 = none) →
    ∃ t, exec (.residueDetection u code w syn data c b) s = .next t ∧ (t.unit u.toNat).clerk = .suspect ∧
      (t.unit u.toNat).mgmt = (s.unit u.toNat).mgmt ∧ (t.unit u.toNat).queuedTest = true ∧ (t.unit u.toNat).detIdx = s.mg.nextIndex ∧
      last s t 1 code u ∧ (∀ j, j ≠ u.toNat → t.unit j = s.unit j) ∧
      (∀ n x, c = some n → s.cmd n = some x → x.phase ≠ .ended →
        t.cmd n = some { x with phase := .ended, status := 0x22, detail := u, errIdx := s.mg.nextIndex }) ∧
      keepsBut [.units, .clerk, .mgmt, .port, .out, .free] s t) ∧
  (∀ (s : State) (u : U16) (code : Byte) (w b : Nat) (syn : BitVec 128) (data : List Byte) (c : Option CmdNo),
    code ≠ 0 → bits syn.toNat 67 65 = bits syn.toNat 64 62 → exec (.residueDetection u code w syn data c b) s = .next s) ∧
  (∀ (s : State) (u : U16), hasState u.toNat = true → (s.unit u.toNat).clerk = .active → (s.unit u.toNat).before s.clk.ticks = .active →
    ∃ t, exec (.parityError u) s = .next t ∧ (t.unit u.toNat).clerk = .suspect ∧ (t.unit u.toNat).mgmt = .suspect ∧
      last s t 6 3 u ∧ keepsBut [.units, .clerk, .mgmt, .port, .out, .free] s t) ∧
  (∀ s : State, ∃ t, exec .viewCompare s = .next t ∧ (∀ u ∈ stateUnits, (t.unit u).disagreeAt.isSome = s.viewsDiffer u ∧
      (s.viewsDiffer u = true → (s.unit u).disagreeAt.isSome = true → t.unit u = s.unit u)) ∧ keepsBut [.units, .mgmt, .out] s t ∧
    ((∀ k, k < 48 → tget (0, false) s.mg.health k = (s.poisonedLines k, (s.stack k).degraded)) → keepsBut [.units] s t)) ∧
  (∀ (s : State) (u : U16) (t0 : Nat), hasState u.toNat = true → (s.unit u.toNat).disagreeAt = some t0 → s.reached (t0 + 100000) = true →
    (∀ d b w v, .mgmtMailboxWord d b w (.unitState v) ∈ s.pending → v ≠ u) → (∀ o k e, .aliveRise o k e ∈ s.pending → aliveAt u.toNat o.val ≠ some k.val) →
    s.viewsDiffer u.toNat = true → ∃ t, exec (.viewDisagreement u) s = .next t ∧ (t.unit u.toNat).clerk = .suspect ∧
      (t.unit u.toNat).mgmt = .suspect ∧ (t.unit u.toNat).queuedTest = true ∧ (t.unit u.toNat).disagreeAt = none ∧ last s t 6 4 u ∧
      keepsBut [.units, .clerk, .mgmt, .port, .out, .free] s t) ∧
  (∀ (s : State) (u : U16) (data : List Byte) (i : Nat), (s.unit u.toNat).frozen = some data → s.capsuleSlot = some i →
    ∃ t, exec (.capsuleCopy u) s = .next t ∧ (t.unit u.toNat).frozen = none ∧
      t.capsule i = some { unit := u, record := (s.unit u.toNat).detIdx, data := data.take 524288 } ∧
      (∀ j, j ≠ i → t.capsule j = s.capsule j) ∧ keepsBut [.units, .capsules, .mgmt, .free] s t) ∧
  (∀ (s : State) (i : Idx64) (k : Capsule) (j : Nat), s.capsule i = some k → k.judged = some j → s.reached (j + 86400000000000) = true →
    ∃ t, exec (.capsuleRelease i) s = .next t ∧ t.capsule i = none ∧ keepsBut [.capsules] s t) ∧
  (∀ (s : State) (e : Fin 4), e.val ∉ s.ab.edgesOut → ∃ t, exec (.yardEdgeWithdraw e) s = .next t ∧
    t.ab = { s.ab with edgesOut := s.ab.edgesOut ++ [e.val] } ∧ 3 ∈ t.mg.remapDue ∧
    (∃ r, t.mg.log.getLast? = some r ∧ r.cls = 6 ∧ r.code = 7) ∧ keepsBut [.abond, .mgmt, .port, .out, .free] s t)

/-- FARRIER_TEST starts the test of a unit that waits while its die has fewer than four and none earlier waits, waking a
unit in BG or BO. VERDICT after a test that failed anything fences the unit in both views with verdict LASTING, and
lists it while the field fence list has room; after a test that ran to its end and passed, of a SUSPECT unit not on
the list with no record of its pattern class, the unit returns to ACTIVE in both views with verdict TRANSIENT.
SHOEING_DUE makes a unit due 24 hours of module time after its last hot slice, the time in MS apart; SHOEING_SLICE of
a unit that may be tested begins the slice. (R409, R422, R424, R425, R428, R431.) -/
def Obligations.FarrierTestsAndVerdicts : Prop :=
  (∀ (s : State) (u : U16), (s.unit u.toNat).queuedTest = true → (s.unit u.toNat).testing = none → s.testsOn (dieOf u.toNat) < 4 →
    (∀ y ∈ s.units, y.1 ≠ u.toNat → y.2.waits = false) → unitKind u.toNat ≠ 3 →
    ∃ t, exec (.farrierTest u) s = .next t ∧ (∃ k, (t.unit u.toNat).testing = some (s.clk.time.toNat, k)) ∧
      (t.unit u.toNat).queuedTest = false ∧ (t.unit u.toNat).clerk = (s.unit u.toNat).clerk ∧
      (∀ i, powerIndex u.toNat = some i → unitKind u.toNat ≤ 2 → (t.power i).state ≠ .bg ∧ (t.power i).state ≠ .bo) ∧ keepsBut [.units, .power, .dies, .ostlers] s t) ∧
  (∀ (s : State) (u : U16) (r : TestResult) (m : Nat × BitVec 4), hasState u.toNat = true → (s.unit u.toNat).testing = some m →
    (r.failed ≠ 0 ∨ 0 < r.replayFail.toNat ∨ 0 < r.marchFail.toNat) →
    ∃ t, exec (.verdict u r) s = .next t ∧ (t.unit u.toNat).clerk = .fenced ∧ (t.unit u.toNat).mgmt = .fenced ∧
      (t.unit u.toNat).last = 2 ∧ (t.unit u.toNat).testing = none ∧
      (s.flash.fenceList.length < 256 → ∃ e ∈ t.flash.fenceList, e.1 = u)) ∧
  (∀ (s : State) (u : U16) (r : TestResult) (t0 : Nat) (k : BitVec 4), hasState u.toNat = true →
    (s.unit u.toNat).testing = some (t0, k) → (s.unit u.toNat).clerk = .suspect → (s.unit u.toNat).detPattern = 0 →
    r.failed = 0 → r.replayFail = 0 → r.marchFail = 0 → r.interrupted = false → r.ownPath = false → r.stressHeldOff = false →
    r.ran = 7 → k.getLsbD 1 = true → k.getLsbD 2 = true → (∀ e ∈ s.flash.fenceList, e.1 ≠ u) →
    ∃ t, exec (.verdict u r) s = .next t ∧ (t.unit u.toNat).clerk = .active ∧ (t.unit u.toNat).mgmt = .active ∧
      (t.unit u.toNat).last = 1 ∧ (t.unit u.toNat).testing = none ∧ t.flash = s.flash) ∧
  (∀ (s : State) (u : U16), hasState u.toNat = true → (s.unit u.toNat).due = false → (s.unit u.toNat).cool = false →
    s.reached ((s.unit u.toNat).lastSlice + 86400000000000 + (s.msTime - (s.unit u.toNat).msAtSlice)) = true →
    ∃ t, exec (.shoeingDue u) s = .next t ∧ t.unit u.toNat = { s.unit u.toNat with due := true, dueSince := s.clk.time.toNat } ∧
      (∀ j, j ≠ u.toNat → t.unit j = s.unit j) ∧ keepsBut [.units] s t) ∧
  (∀ (s : State) (u : U16) (c : Int), hasState u.toNat = true → s.sliceReady u.toNat = true → c < 115 →
    ∃ t, exec (.shoeingSlice u c) s = .next t ∧ (t.unit u.toNat).shoeing = true ∧ (t.unit u.toNat).testing = some (s.clk.time.toNat, 6) ∧
      (unitKind u.toNat = 1 → ∃ x ∈ t.ck.claims, x.res = 3 ∧ x.holder = 6 ∧ x.bay.toNat = unitIndex u.toNat))

/-- FREQUENCY_SWITCH of a bay that wants a step: a higher one changes nothing until the rail of its die has settled (10
mV/µs from the rail's last start); then, or for a lower one at once, it is taken, a lowered one with the rail to
follow 1 µs later; while its clock is stretched, or a trip of the bay is latched on the same edge, it is held and
counts in DEFER. RAIL_LOWER at its time brings VCORE to the setpoint where that is lower, and never under it.
DROOP_TRIP of a running bay stretches its clock, counts once per stretch, and leaves a wanted or held change as it is.
STRETCH_END after 32 clean cycles, shown by the detectors and run since the last trip, ends the stretch and adds its
whole cycles; HELD_CHANGE_APPLY after 256 unstretched cycles takes the held step, a raise once the rail has settled.
Fewer cycles change nothing. No other bay changes. (R361, R378, R379, R380, R359.) -/
def Obligations.FrequencyAndDroop : Prop :=
  let others := fun (s t : State) (b : Idx64) => ∀ j : Nat, j ≠ b.val → t.bay j = s.bay j
  (∀ (s : State) (b : Idx64) (k : BitVec 5), (s.bay b).want = some k →
    ((s.bay b).step < k → s.reached ((s.die (b / 16)).railAt + 100 * ((s.die (b / 16)).vcore.toNat - (s.die (b / 16)).railFrom.toNat)) = false →
      exec (.frequencySwitch b) s = .next s) ∧
    ((k ≤ (s.bay b).step ∨ s.reached (s.die (b / 16)).railSettled = true) →
      ((s.bay b).stretched = true ∨ s.tripsNow b = true → ∃ t, exec (.frequencySwitch b) s = .next t ∧ others s t b ∧
        t.bay b = { s.bay b with want := none, held := some k } ∧
        t.die (b / 16) = { s.die (b / 16) with defer := BitVec.ofNat 32 (min ((s.die (b / 16)).defer.toNat + 1) 0xFFFFFFFF) } ∧
        keepsBut [.bays, .dies] s t) ∧
      ((s.bay b).stretched = false → s.tripsNow b = false → ∃ t, exec (.frequencySwitch b) s = .next t ∧ others s t b ∧
        t.bay b = { s.bay b with step := k, want := none, held := none } ∧
        t.die (b / 16) = (if (s.bay b).step < k then s.die (b / 16) else { s.die (b / 16) with railLowerAt := some (s.clk.time.toNat + 1000) }) ∧
        keepsBut [.bays, .dies] s t))) ∧
  (∀ (s : State) (d : Fin 4) (r : Nat), (s.die d).railLowerAt = some r → s.reached r = true →
    ∃ t, exec (.railLower d) s = .next t ∧ (t.die d).railLowerAt = none ∧
      (t.die d).vcore = (if s.setpoint d < (s.die d).vcore.toNat then BitVec.ofNat 16 (s.setpoint d).toNat else (s.die d).vcore) ∧
      (∀ j, j ≠ d.val → t.die j = s.die j) ∧ keepsBut [.dies] s t) ∧
  (∀ (s : State) (b : Idx64), (s.power b).state = .a0 → ∃ t, exec (.droopTrip b) s = .next t ∧ others s t b ∧
    (t.bay b).stretched = true ∧ (t.bay b).cleanFrom = s.clk.ticks ∧ (t.bay b).want = (s.bay b).want ∧ (t.bay b).held = (s.bay b).held ∧ (t.bay b).step = (s.bay b).step ∧
    (t.die (b / 16)).stretches.toNat = min ((s.die (b / 16)).stretches.toNat + (if (s.bay b).stretched then 0 else 1)) 0xFFFFFFFF ∧
    keepsBut [.bays, .dies] s t) ∧
  (∀ (s : State) (b : Idx64), (s.power b).state ≠ .a0 → exec (.droopTrip b) s = .next s) ∧
  (∀ (s : State) (b : Idx64) (n : Nat), (s.bay b).stretched = true → 32 ≤ n → 32 ≤ s.cleanCycles b → s.tripsNow b = false →
    ∃ t, exec (.stretchEnd b n) s = .next t ∧ others s t b ∧ (t.bay b).stretched = false ∧ (t.bay b).cleanFrom = s.clk.ticks ∧ (t.bay b).step = (s.bay b).step ∧
    (t.die (b / 16)).strcyc.toNat = min ((s.die (b / 16)).strcyc.toNat +
      ((s.clk.ticks - (s.bay b).stretchAt) * (800 + 50 * (s.bay b).step.toNat) + (s.bay b).stretchFrac) / 2000) (2 ^ 64 - 1) ∧ keepsBut [.bays, .dies] s t) ∧
  (∀ (s : State) (b : Idx64) (n : Nat), n < 32 ∨ s.cleanCycles b < 32 ∨ s.tripsNow b = true → exec (.stretchEnd b n) s = .next s) ∧
  (∀ (s : State) (b : Idx64) (n : Nat) (k : BitVec 5), (s.bay b).held = some k → (s.bay b).stretched = false → 256 ≤ n → 256 ≤ s.cleanCycles b →
    (k ≤ (s.bay b).step ∨ s.reached (s.die (b / 16)).railSettled = true) → s.tripsNow b = false →
    ∃ t, exec (.heldChangeApply b n) s = .next t ∧ others s t b ∧
      t.bay b = { s.bay b with step := k, want := none, held := none } ∧ keepsBut [.bays, .dies] s t) ∧
  (∀ (s : State) (b : Idx64) (n : Nat), n < 256 ∨ s.cleanCycles b < 256 → exec (.heldChangeApply b n) s = .next s)

/-- BOOST_STEP of an adaptive running bay that runs at its planned step, with no cut, lowering, pacing or limit on it, no
change held or waiting, no brake, a junction of at most 90 °C, at most 1,250 A, FMAX above it and 1 ms of module time
since the last step raises the boost by one, and with it the plan clamped by R363, if the reservation leaves room, and
otherwise keeps all but the samples of the junction and the current. BOOST_WITHDRAW of a boosted bay above 90 °C,
above 1,250 A, over the power cap, under the brake or with a change held takes all its boost (a bay that leaves
THROTTLED by it is reported). A bay without boost is left alone but for the samples; IPEAK keeps the largest current.
(R365, R363, R374.) -/
def Obligations.BoostFollowsItsConditions : Prop :=
  (∀ (s : State) (b : Idx64) (c : Int) (i : Nat),
    let u := s.sampleBay b c i
    let x := u.bay b
    x.fixed = false → (s.power b).state = .a0 → s.tal.braked = false → s.tal.cutC = 0 → s.loweredOn b = 0 → x.safe = [] → x.pace = none →
    x.plan.toNat = s.planOf 0 x.boost → x.step = x.plan → x.boost ≤ 4 → x.held = none → x.want = none → c ≤ 90 → i ≤ 1250 →
    27 + x.boost ≤ (s.tal.set.fmax.toNat - 800) / 50 → (x.boost = 0 ∨ s.reached (x.boostAt + 1000000) = true) →
    ∃ t, exec (.boostStep b c i) s = .next t ∧
      (if u.reserved + u.boostPower (b / 16) (27 + x.boost) ≤ s.tal.set.capw.toNat * 1000
       then (t.bay b).boost = x.boost + 1 ∧ (t.bay b).boostAt = s.clk.time.toNat ∧ (t.bay b).plan = BitVec.ofNat 5 (s.planOf 0 (x.boost + 1)) ∧
         (t.bay b).want = (if BitVec.ofNat 5 (s.planOf 0 (x.boost + 1)) = x.step then none else some (BitVec.ofNat 5 (s.planOf 0 (x.boost + 1))))
       else t = u) ∧ (∀ j : Nat, j ≠ b.val → t.bay j = s.bay j) ∧ keepsBut [.bays, .dies] s t) ∧
  (∀ (s : State) (low boost : Nat), s.planOf low boost = (if s.tal.braked then (s.tal.set.fmin.toNat - 800) / 50
    else max ((s.tal.set.fmin.toNat - 800) / 50) (min ((s.tal.set.fmax.toNat - 800) / 50) (min 26 ((s.tal.set.fmax.toNat - 800) / 50) - s.tal.cutC - low + boost)))) ∧
  (∀ (s : State) (b : Idx64) (c : Int) (i : Nat), 0 < (s.bay b).boost →
    (90 < c ∨ 1250 < i ∨ s.tal.set.capw.toNat * 1000 < (s.sampleBay b c i).reserved ∨ s.tal.braked = true ∨ (s.bay b).held.isSome = true) →
    ∃ t, exec (.boostWithdraw b c i) s = .next t ∧ (t.bay b).boost = 0 ∧ (t.bay b).plan = BitVec.ofNat 5 (s.planOf (s.loweredOn b) 0) ∧
      (∀ j : Nat, j ≠ b.val → t.bay j = s.bay j) ∧ keepsBut [.bays, .dies, .mgmt, .out] s t) ∧
  (∀ (s : State) (b : Idx64) (c : Int) (i : Nat), (s.bay b).boost = 0 → exec (.boostWithdraw b c i) s = .next (s.sampleBay b c i)) ∧
  (∀ (s : State) (b : Idx64) (c : Int) (i : Nat), let t := s.sampleBay b c i
    (t.bay b) = { s.bay b with tj := some c } ∧ (∀ j : Nat, j ≠ b.val → t.bay j = s.bay j) ∧
    ((s.die (b / 16)).hottest ≤ c → (t.die (b / 16)).tmax = BitVec.ofInt 8 c) ∧ (t.die (b / 16)).ipeak.toNat = max (s.die (b / 16)).ipeak.toNat (min i 65535) ∧ keepsBut [.bays, .dies] s t)

/-- THERMAL_THROTTLE from 100 °C lowers the bay by one step and begins an episode, counted in SAFETY and THERM with a
power record, and acts again only after 20 µs; INPUT_POWER_LIMIT above 4,500 W and CORE_CURRENT_LIMIT above 1,350 A
lower every bay of the module or die by one step; THERMAL_FLOOR from 105 °C at step 0 halves issue; MILLER_THERMAL
from 100 °C halves the Miller; STACK_TEMPERATURE_LIMIT from 95 °C halves the stack's rate. A limit that begins stops
the filler of the bays of its dies. Below the thresholds nothing acts (a current is still kept in IPEAK, a bay's
sample in TMAX). Each row's limit of a bay is its own; the lowest decides (R363). SAFETY_RELEASE of an episode whose
condition has held for its time ends the halving of rows 2, 4 and 8, and raises by one step the limit of row 1, 5, 6
or 7 of each bay that it holds, gone once the bay would run no faster without it; a value not yet low enough starts
the wait again; the value measured is kept as a sample. (R382, R384, R388, R389, Table 13-5.) -/
def Obligations.SafetyLimitsAct : Prop :=
  let calm := fun (s : State) (d j : Nat) => if j / 16 = d ∧ (List.range 64).any (fun b => b / 16 = d && (s.bay b).fill != 0) = true then (s.bay j).stopFill else s.bay j
  let lowered := fun (s t : State) (row b : Nat) =>
    (t.bay b).limit row = some (BitVec.ofNat 5 (min (s.bay b).step.toNat (match (s.bay b).fsafe with | some k => k.toNat | none => 31) - 1)) ∧ (t.bay b).fill = 0
  let begins := fun (s t : State) (row unit : Nat) => t.inEpisode row unit = true ∧ t.mg.nextIndex = nextIndex s.mg.nextIndex ∧
    t.tal.tot.safety.toNat = min (s.tal.tot.safety.toNat + 1) 65535 ∧ keepsBut [.bays, .dies, .tally, .stackTab, .millers, .power, .mgmt, .port, .out, .free] s t
  (∀ (s : State) (b : Idx64) (c : Int), 100 ≤ c → s.inEpisode 1 b = false → ∃ t, exec (.thermalThrottle b c) s = .next t ∧
    begins s t 1 b ∧ lowered s t 1 b ∧ (∀ j : Nat, j ≠ b.val → t.bay j = calm s (b / 16) j) ∧
    (t.die (b / 16)).therm.toNat = min ((s.die (b / 16)).therm.toNat + 1) 0xFFFFFFFF) ∧
  (∀ (s : State) (b : Idx64) (c : Int), c < 100 ∨ s.actsAgain 1 b 20000 = false → exec (.thermalThrottle b c) s = .next (s.sampleTj b c)) ∧
  (∀ (s : State) (b : Idx64) (c : Int), 105 ≤ c → (s.bay b).step = 0 → s.inEpisode 2 b = false → ∃ t, exec (.thermalFloor b c) s = .next t ∧
    begins s t 2 b ∧ t.bay b = { calm s (b / 16) b with halfIssue := true, tj := some c }) ∧
  (∀ (s : State) (b : Idx64) (c : Int), c < 105 ∨ (s.bay b).step ≠ 0 → exec (.thermalFloor b c) s = .next (s.sampleTj b c)) ∧
  (∀ (s : State) (g : Fin 8) (c : Int), 100 ≤ c → s.inEpisode 4 g = false → ∃ t, exec (.millerThermal g c) s = .next t ∧
    begins s t 4 g ∧ tget false t.millerHalf g = true) ∧
  (∀ (s : State) (d : Fin 4) (a : Nat), 1350 < a → a ≤ 65535 → s.inEpisode 5 d = false → ∃ t, exec (.coreCurrentLimit d a) s = .next t ∧
    begins s t 5 d ∧ (∀ b : Idx64, b / 16 = d.val → lowered s t 5 b) ∧ (∀ b : Idx64, b / 16 ≠ d.val → t.bay b = s.bay b) ∧
    (t.die d).ipeak.toNat = max (s.die d).ipeak.toNat a ∧ (t.die d).ilimit.toNat = min ((s.die d).ilimit.toNat + 1) 0xFFFFFFFF) ∧
  (∀ (s : State) (d : Fin 4) (a : Nat), a ≤ 1350 → ∃ t, exec (.coreCurrentLimit d a) s = .next t ∧
    t.die d = { s.die d with ipeak := BitVec.ofNat 16 (max (s.die d).ipeak.toNat a) } ∧ keepsBut [.dies] s t) ∧
  (∀ (s : State) (w : Nat), 4500 < w → s.inEpisode 6 0 = false → ∃ t, exec (.inputPowerLimit w) s = .next t ∧
    begins s t 6 0 ∧ (∀ b : Idx64, lowered s t 6 b)) ∧
  (∀ (s : State) (w : Nat), w ≤ 4500 → exec (.inputPowerLimit w) s = .next s) ∧
  (∀ (s : State) (k : Fin 48) (c : Int), 95 ≤ c → s.inEpisode 8 k = false → ∃ t, exec (.stackTemperatureLimit k c) s = .next t ∧
    begins s t 8 k ∧ (t.stack k).halfRate = true ∧ (∀ b : Idx64, stackDie k = some (b / 16) → (t.bay b).stackHot = true)) ∧
  (∀ (s : State) (row : Fin 8) (u : Nat) (v : Int) (e : Episode), s.episode (row.val + 1) u = some e →
    (releases (row.val + 1) v = false → exec (.safetyRelease row u v) s =
      .next ((s.sampled (row.val + 1) u v).onEpisode (row.val + 1) u (fun x => { x with quiet := s.clk.time.toNat, rising := false }))) ∧
    (releases (row.val + 1) v = true → s.reached (e.quiet + e.wait) = true → ∃ t, exec (.safetyRelease row u v) s = .next t ∧
      (row.val = 1 → t.bay u = { s.bay u with halfIssue := false, tj := some v, fillAt := (t.bay u).fillAt } ∧ t.inEpisode 2 u = false ∧ keepsBut [.bays, .dies, .tally] s t) ∧
      (row.val = 3 → tget false t.millerHalf u = false ∧ t.inEpisode 4 u = false ∧ keepsBut [.millers, .tally] s t) ∧
      (row.val = 7 → (t.stack u).halfRate = false ∧ (t.stack u).temp = BitVec.ofInt 8 v ∧ t.inEpisode 8 u = false) ∧
      (∀ (b : Idx64) (k : BitVec 5), (row.val = 0 ∧ u = b.val) ∨ ((row.val = 4 ∨ row.val = 6) ∧ u = b / 16) ∨ row.val = 5 →
        (s.bay b).limit (row.val + 1) = some k →
        (t.bay b).limit (row.val + 1) = (if (s.bay b).without (row.val + 1) ≤ k.toNat + 1 then none else some (k + 1)))))

/-- BUDGET_WINDOW_END of a new 50 µs window with no command waiting for energy ends the brake, counting it in BRAKES,
applies the settings that waited and leaves none waiting, and keeps the reserve at or below 8,000,000 µJ. BRAKE at the
window limit brakes and holds every bay's plan at FMIN. TRIM_INTERVAL of a new millisecond moves the trim by the rule
of R362, clamped to VOFFLO and VOFFHI; a setpoint above VCORE moves VCORE to it, one below it is followed 1 µs later.
K_CORRECTION of a new 10 ms sets K to the rounded ratio, in 1/1024, of the measured energy to the modelled energy of
the windows accounted since the last, and writes a power record outside 0.95 to 1.05. TREADMILL_RAMP and
TREADMILL_DECAY move a waiting bay's filler toward TLEVEL from 5 µs and toward 0 from 10 ms, by at most 16 per µs,
only of bays named in TREAD and not while a safety limit acts on the die; a bay whose filler reaches 0 idles from then
on; of a bay whose work has begun, both move the combined activity toward the work's level at that slope, filler being
the remainder, and end there. (R361, R362, R369, R372, R373, R385, R386, R387, R388, R396.) -/
def Obligations.EnergyWindowsAndTrim : Prop :=
  (∀ (s : State) (w : WindowCounts), s.clk.time.toNat / 50000 ≠ s.tal.lastWindow → (∀ y ∈ s.ck.cmds, y.phase ≠ .energyWait) →
    ∃ t, exec (.budgetWindowEnd w) s = .next t ∧ t.tal.braked = false ∧
    t.tal.next = [] ∧ t.tal.nextOrder = [] ∧ t.tal.lastWindow = s.clk.time.toNat / 50000 ∧
    t.tal.tot.brakes.toNat = min (s.tal.tot.brakes.toNat + (if s.tal.braked then 1 else 0)) 0xFFFFFFFF ∧
    (s.tal.reserve.toNat ≤ 8000000 → t.tal.reserve.toNat ≤ 8000000) ∧
    (s.tal.next = [] → s.tal.nextOrder = [] → t.tal.set = s.tal.set) ∧
    (∀ c b, s.tal.next = [(c, b)] → s.tal.nextOrder = [] → t.tal.set = { b with order := s.tal.set.order }) ∧
    keepsBut [.tally, .clerk, .bays, .dies, .power, .port, .out, .mgmt] s t) ∧
  (∀ (s : State) (w : WindowCounts), s.clk.time.toNat / 50000 = s.tal.lastWindow → exec (.budgetWindowEnd w) s = .next s) ∧
  (∀ (s : State) (p : Nat), s.tal.set.capw.toNat * 50 + min s.tal.reserve.toNat 20000 ≤ p → s.tal.braked = false →
    ∃ t, exec (.brake p) s = .next t ∧ t.tal = { s.tal with braked := true } ∧
      (∀ b : Idx64, (t.bay b).plan = BitVec.ofNat 5 s.fminStep) ∧ keepsBut [.tally, .bays, .dies, .mgmt, .out] s t) ∧
  (∀ (s : State) (p : Nat), p < s.tal.set.capw.toNat * 50 → exec (.brake p) s = .next s) ∧
  (∀ (s : State) (d : Fin 4) (tj : Int) (n : Nat), s.clk.time.toNat / 1000000 ≠ (s.die d).lastTrim →
    let x := ((dieBays d).foldl State.countStretch s).die d
    let still := (∀ b : Idx64, b / 16 = d.val → (s.bay b).stretched = false) ∧ x.strcycInt = 0 ∧ tj ≤ 95
    ∃ t, exec (.trimInterval d tj n) s = .next t ∧
      (still → (t.die d).vtrim = max s.trimLo (min s.trimHi (x.vtrim - 5))) ∧
      (n < x.strcycInt * 1000 → (t.die d).vtrim = max s.trimLo (min s.trimHi (x.vtrim + 5))) ∧
      (¬still → x.strcycInt * 1000 ≤ n → (t.die d).vtrim = max s.trimLo (min s.trimHi x.vtrim)) ∧
      (n < x.strcycInt * 100 → x.vtrim = s.trimHi →
        (t.die d).droopfb.toNat = min ((s.die d).droopfb.toNat + 1) 65535 ∧ t.inEpisode 7 d = true) ∧
      (t.die d).strcycInt = 0 ∧ (t.die d).lastTrim = s.clk.time.toNat / 1000000 ∧
      (¬(n < x.strcycInt * 100 ∧ x.vtrim = s.trimHi) → s.railOn d = true →
        (t.die d).vcore = (if (x.vcore.toNat : Int) < t.setpoint d then BitVec.ofNat 16 (t.setpoint d).toNat else x.vcore) ∧
        (t.setpoint d < x.vcore.toNat → x.railLowerAt = none → (t.die d).railLowerAt = some (s.clk.time.toNat + 1000)))) ∧
  (∀ (s : State) (m k : Nat), s.clk.time.toNat / 10000000 ≠ s.tal.lastK → 0 < s.tal.modelled →
    let v := min 65535 ((2048 * m * 1000000000 / s.tal.modelled + 1) / 2)
    ∃ t, exec (.kCorrection m k) s = .next t ∧ t.tal.tot.kcorr.toNat = v ∧ t.tal.modelled = 0 ∧
      t.tal.tot.emeas.toNat = min (s.tal.tot.emeas.toNat + m) (2 ^ 64 - 1) ∧
      (if v * 100 < 95 * 1024 ∨ 105 * 1024 < v * 100 then t.mg.nextIndex = nextIndex s.mg.nextIndex else t.mg = s.mg) ∧
      keepsBut [.tally, .mgmt, .port, .out, .free] s t) ∧
  (∀ (s : State) (b : Idx64) (w : Nat), (s.bay b).waitStart = some w → s.tal.set.tread.getLsbD b = true →
    let now := s.clk.time.toNat
    let tl := s.tal.set.tlevel.toNat
    let room := fun (a z : Nat) => 16 * (z - max (s.bay b).fillAt a) / 1000
    (s.reached (w + 5000) = true → s.reached (w + 10000000) = false → w + 5000 ≤ now → now < w + 10000000 → s.limitOnDie (b / 16) = false →
      ∃ t, exec (.treadmillRamp b) s = .next t ∧
        t.bay b = { s.bay b with fill := toward (s.bay b).fill tl (room (w + 5000) now), fillAt := now } ∧ keepsBut [.bays, .power] s t) ∧
    (s.limitOnDie (b / 16) = true → exec (.treadmillRamp b) s = .next s ∧ exec (.treadmillDecay b) s = .next s) ∧
    (s.reached (w + 10000000) = true → w + 10000000 ≤ now → s.limitOnDie (b / 16) = false → ∃ t, exec (.treadmillDecay b) s = .next t ∧
      t.bay b = { s.bay b with fill := toward (toward (s.bay b).fill tl (room (w + 5000) (w + 10000000))) 0 (room (w + 10000000) now), fillAt := now } ∧
      ((s.bay b).fill ≠ 0 → (t.bay b).fill = 0 → (t.power b).idleFrom = now) ∧ keepsBut [.bays, .power] s t)) ∧
  (∀ (s : State) (b : Idx64), s.tal.set.tread.getLsbD b = false → exec (.treadmillRamp b) s = .next s ∧ exec (.treadmillDecay b) s = .next s) ∧
  (∀ (s : State) (b : Idx64) (w : Nat), (s.bay b).waitStart = none → s.tal.set.tread.getLsbD b = true → (s.bay b).work = some w →
    let c := toward (s.bay b).combined w (16 * (s.clk.time.toNat - (s.bay b).fillAt) / 1000)
    ∃ t, exec (.treadmillRamp b) s = .next t ∧ exec (.treadmillDecay b) s = .next t ∧
      t.bay b = { s.bay b with work := if c = w then none else some w, combined := if c = w then 0 else c, fill := c - w, fillAt := s.clk.time.toNat } ∧
      (∀ j : Nat, j ≠ b.val → t.bay j = s.bay j) ∧ keepsBut [.bays] s t) ∧
  (∀ cur target room : Nat, toward cur target room = (if cur < target then min target (cur + room) else max target (cur - room)))

/-- A dispatched ENERGY_BUDGET_SET or CAP_ORDER_SET puts its settings last in the line of those that wait for the 50 µs
boundary and goes on working; nothing takes effect yet. A dispatched FREQ_MODE sets the mode of exactly the bays of
its mask (all of them for a mask of 0), with MODE 1 ends their boost and their pacing, and ends. (R373, R377, R366,
Table 12-22.) -/
def Obligations.EnergyCommands : Prop :=
  (∀ (s : State) (c : CmdNo) (x : Cmd), s.running c 0x0701 = some x → ∃ t, exec (.energyBudgetSet c) s = .next t ∧
    t.tal = { s.tal with next := s.tal.next ++ [(c, { capw := BitVec.ofNat 16 (x.p 0 2), fmin := BitVec.ofNat 16 (x.p 2 2), fmax := BitVec.ofNat 16 (x.p 4 2), vofflo := BitVec.ofNat 8 (x.p 6 1), voffhi := BitVec.ofNat 8 (x.p 7 1), tread := BitVec.ofNat 64 (x.p 8 8), tlevel := BitVec.ofNat 8 (x.p 16 1), order := s.tal.set.order })] } ∧
    t.cmd c = some { x with phase := .working } ∧ keepsBut [.tally, .clerk] s t) ∧
  (∀ (s : State) (c : CmdNo) (x : Cmd), s.running c 0x0702 = some x → ∃ t, exec (.capOrderSet c) s = .next t ∧
    t.tal = { s.tal with nextOrder := s.tal.nextOrder ++ [(c, BitVec.ofNat 8 (x.p 0 1))] } ∧
    t.cmd c = some { x with phase := .working } ∧ keepsBut [.tally, .clerk] s t) ∧
  (∀ (s : State) (c : CmdNo) (x : Cmd), s.running c 0x0703 = some x → ∃ t, exec (.freqMode c) s = .next t ∧
    (∀ b : Idx64, if x.p 8 8 = 0 ∨ (x.p 8 8).testBit b
      then (t.bay b).fixed = decide (x.p 0 1 = 1) ∧ (t.bay b).boost = (if x.p 0 1 = 1 then 0 else (s.bay b).boost) ∧ (t.bay b).pace = (if x.p 0 1 = 1 then none else (s.bay b).pace) ∧ (t.bay b).step = (s.bay b).step else t.bay b = s.bay b) ∧
    t.cmd c = some { x with phase := .ended, status := x.normalStatus } ∧ keepsBut [.bays, .dies, .clerk, .mgmt, .out] s t)

/-- A dispatched PSTATE_REQ for BG, BO, DO or MS of a unit that no reason of Table 14-2 holds back begins the entry, which
POWER_STATE_REACHED ends; a unit already there ends the request; a refused one ends with REFUSED_STATE and the
refuser's code in DETAIL, adds one to LOGTOTAL and enters the log. The ports that an entry to BO, DO or MS powers down
are DOWN from its beginning. A request for DI with no reason against it sends every A0 bay of the die toward BG, but
for those on their way already; with no bay in A0 it is DONE (log 34). A request for A0 of a bay in BG or BO begins
its wake. No memory changes. (R397, R395, R404, R408, Table 14-2.) -/
def Obligations.PowerStateRequests : Prop :=
  let entry := fun (exe : CmdNo → Instr) (code : Nat) (p : PState) =>
    (∀ (s : State) (c : CmdNo) (x : Cmd) (u : Nat), s.running c 0x0801 = some x → x.p 2 1 = code → powerIndex (x.p 0 2) = some u →
      ((s.power u).state = p → exec (exe c) s = .next (s.doneCmd c)) ∧
      ((s.power u).state ≠ p → s.refusalOf c u p = none → ∃ t, exec (exe c) s = .next t ∧
        t.power u = { s.power u with entering := some p, req := some c } ∧ (∀ j, j ≠ u → t.power j = s.power j) ∧
        (∃ y, t.cmd c = some y ∧ (y.phase = .working ∨ y.phase = .ended)) ∧ (∀ k ∈ entryPorts u p, k < 64 → (t.port k).nbr.state = .down) ∧
        ((∀ k ∈ entryPorts u p, (s.port k).nbr.state = .down) → t.cmd c = some { x with phase := .working } ∧ keepsBut [.power, .clerk] s t)) ∧
      (∀ why by_ info, (s.power u).state ≠ p → s.refusalOf c u p = some (why, by_, info) → ∃ t, exec (exe c) s = .next t ∧
        t.cmd c = some { x with phase := .ended, status := 0x13, detail := by_ } ∧
        t.logTotal.toNat = min (s.logTotal.toNat + 1) 0xFFFFFFFF ∧
        (∃ r, t.refusals.getLast? = some r ∧ r.reason = BitVec.ofNat 8 why ∧ r.refuser = by_ ∧ r.seq = x.hdr.seq) ∧
        (t.power u).state = (s.power u).state ∧ keepsBut [.power, .clerk, .refusals] s t))
  entry .pstateReqBg 1 .bg ∧ entry .pstateReqBo 2 .bo ∧ entry .pstateReqDo 4 .do_ ∧ entry .pstateReqMs 5 .ms ∧
  (∀ (s : State) (c : CmdNo) (x : Cmd) (u : Nat), s.running c 0x0801 = some x → x.p 2 1 = 3 → powerIndex (x.p 0 2) = some u →
    136 ≤ u → u < 140 → (s.power u).state ≠ .di → s.refusalOf c u .di = none →
      ((∃ b : Idx64, b / 16 = u - 136 ∧ (s.power b).state = .a0) → ∃ t, exec (.pstateReqDi c) s = .next t ∧
        (t.power u).req = some c ∧ (∀ b : Idx64, b / 16 = u - 136 → s.awake b = true → (t.power b).entering = some .bg) ∧
        (∀ b : Idx64, s.awake b = false → t.power b = s.power b) ∧ t.cmd c = some { x with phase := .working } ∧ keepsBut [.power, .clerk] s t) ∧
      ((∀ b : Idx64, b / 16 = u - 136 → (s.power b).state ≠ .a0) → exec (.pstateReqDi c) s = .next (s.doneCmd c))) ∧
  (∀ (s : State) (c : CmdNo) (x : Cmd) (b : Idx64), s.running c 0x0801 = some x → x.p 2 1 = 0 → x.p 3 1 % 2 = 0 → x.p 0 2 = 0x1000 + b →
    (s.power b).state ≠ .a0 → (s.unit (0x1000 + b)).clerk ≠ .fenced → ∃ t, exec (.pstateReqA0 c) s = .next t ∧
      t.power b = { s.power b with waking := true, wakeFrom := if (s.power b).waking then (s.power b).wakeFrom else s.clk.ticks, req := some c, sequenced := false } ∧
      t.cmd c = some { x with phase := .working } ∧ keepsBut [.power, .clerk] s t) ∧
  (∀ (s : State) (c : CmdNo) (x : Cmd) (b : Idx64), s.running c 0x0801 = some x → x.p 2 1 = 0 → x.p 0 2 = 0x1000 + b →
    (s.power b).state = .a0 → (s.power b).entering = none → exec (.pstateReqA0 c) s = .next (s.doneCmd c))

/-- IDLE_BG_ENTRY of a bay or Miller idle for 10 µs in A0, on which no command runs and no transfer is in flight, which no
wake latched on the edge wants, that no self-test runs on and whose filler is at 0, begins its entry to BG.
POWER_STATE_REACHED of a unit that enters another state, with no work on it and no crossing to drain, ends the entry
in that state: it is counted, the elapsed time goes to the state it leaves, and the request completes; while work or a
crossing is left it changes nothing. A die in DO has every bay and port in BO, VCORE at 0 and its stacks in self-
refresh; with the module in MS every die is in DO, every Miller in BO and every stack in self-refresh. WAKE_COMPLETE
of a waking unit that is supplied, and not woken in sequence, ends its wake with its longest time counted: a bay,
Miller, port or the module is in A0, a port in A0 trains if it can, and a die has its rail on and its stacks out of
self-refresh. (R396, R398, R401, R402, R403, R404, R405, R406, R408.) -/
def Obligations.PowerStateTransitions : Prop :=
  (∀ (s : State) (u : U16) (i : Nat), powerIndex u.toNat = some i → i < 72 → (s.power i).state = .a0 → (s.power i).entering = none →
    (s.power i).waking = false → (∀ y ∈ s.ck.cmds, s.cmdUses y i = false) → s.wakeLatched s.ck.nextCmd i = false → s.crossing i = false →
    s.reached ((s.power i).idleFrom + 10000) = true → (i < 64 → (s.bay i).fill = 0) → (s.unit u.toNat).testing = none →
    ∃ t, exec (.idleBgEntry u) s = .next t ∧ t.power i = { s.power i with entering := some .bg, req := none } ∧
      (∀ j, j ≠ i → t.power j = s.power j) ∧ keepsBut [.power] s t) ∧
  (∀ (s : State) (u : U16) (i : Nat), powerIndex u.toNat = some i → s.reached ((s.power i).idleFrom + 10000) = false →
    exec (.idleBgEntry u) s = .next s) ∧
  (∀ (s : State) (u : Nat) (p : PState), (s.power u).entering = some p → s.entryWaits u p = true → exec (.powerStateReached u) s = .next s) ∧
  (∀ (s : State) (u : Nat) (p : PState), u < 72 → (s.power u).entering = some p → s.entryWaits u p = false → p = .bg ∨ p = .bo → (s.power u).state ≠ p →
    ∃ t, exec (.powerStateReached u) s = .next t ∧
    (t.power u).state = p ∧ (t.power u).entering = none ∧ (t.power u).req = none ∧ (t.power u).lastchg = s.clk.time ∧
    ((s.power u).state = .a0 → (t.power u).ta0.toNat = min ((s.power u).ta0.toNat + (s.clk.ticks - (s.power u).lastTick)) (2 ^ 64 - 1)) ∧
    (p = .bg → (t.power u).nlight.toNat = min ((s.power u).nlight.toNat + 1) 0xFFFFFFFF) ∧
    (p = .bo → (t.power u).ndeep.toNat = min ((s.power u).ndeep.toNat + 1) 0xFFFFFFFF) ∧
    (∀ c x, (s.power u).req = some c → s.cmd c = some x → x.phase ≠ .ended → ∃ y, t.cmd c = some y ∧ y.phase = .ended ∧ y.status = x.normalStatus) ∧
    keepsBut [.power, .clerk, .dies, .bays, .ostlers, .staging, .free] s t) ∧
  (∀ (s : State) (u : Nat), 72 ≤ u → u < 136 → (s.power u).entering = some .bo → s.entryWaits u .bo = false → (s.power u).state ≠ .bo →
    ∃ t, exec (.powerStateReached u) s = .next t ∧ (t.power u).state = .bo ∧ (t.port (u - 72)).nbr.state = .down ∧ (t.power u).entering = none) ∧
  (∀ (s : State) (d : Fin 4), (s.power (136 + d.val)).entering = some .do_ → s.entryWaits (136 + d.val) .do_ = false → ∃ t, exec (.powerStateReached (136 + d.val)) s = .next t ∧
    (t.power (136 + d.val)).state = .do_ ∧ (∀ b : Idx64, b / 16 = d.val → (t.power b).state = .bo ∧ (t.power (72 + b)).state = .bo) ∧
    (t.die d).vcore = 0 ∧ (∀ k, k < 24 → stackDie k = some d.val → (t.stack k).selfRefresh = true)) ∧
  (∀ (s : State), (s.power 140).entering = some .ms → s.entryWaits 140 .ms = false → ∃ t, exec (.powerStateReached 140) s = .next t ∧
    (t.power 140).state = .ms ∧ (∀ d : Fin 4, (t.power (136 + d.val)).state = .do_) ∧ (∀ g : Fin 8, (t.power (64 + g.val)).state = .bo) ∧
    (∀ k, k < 48 → (t.stack k).selfRefresh = true)) ∧
  (∀ (s : State) (u : Nat) (ok : Bool) (f : List (Nat × Nat)), u < 72 → (s.power u).waking = true → (s.power u).entering = none → s.supplied u = true →
    (s.power u).sequenced = false → (s.power u).req = none → ∃ t, exec (.wakeComplete u ok f) s = .next t ∧
      (t.power u).state = .a0 ∧ (t.power u).waking = false ∧ (t.power u).idleFrom = s.clk.time.toNat ∧
      (t.power u).wakemax.toNat = max (s.power u).wakemax.toNat (min (s.clk.ticks - (s.power u).wakeFrom) 0xFFFFFFFF) ∧
      keepsBut [.power, .bays, .dies, .ostlers] s t) ∧
  (∀ (s : State) (p : Idx64) (ok : Bool) (f : List (Nat × Nat)), (s.power (72 + p)).waking = true → (s.power (72 + p)).entering = none → s.supplied (72 + p) = true →
    ∃ t, exec (.wakeComplete (72 + p) ok f) s = .next t ∧ (t.power (72 + p)).state = .a0 ∧
      ((s.port p).enable = false → (t.port p) = s.port p) ∧ (t.portCanTrain p = true → (s.port p).nbr.state = .down → (t.port p).nbr.state = .training)) ∧
  (∀ (s : State) (u : Nat) (ok : Bool) (f : List (Nat × Nat)), (s.power u).waking = false ∨ (s.power u).entering.isSome = true ∨ s.supplied u = false →
    exec (.wakeComplete u ok f) s = .next s)

/-- Over an insecure CXL.io stream PORT_ENABLE_WRITE, RETRAIN, PORT_CLRCNT, FID_WRITE, RT_DATA_WRITE and the counter reads
change nothing; else, while the host is not the owner, the five writes count once in NOTOWNER and change nothing else.
For the owner they set the selected port's control fields (ENABLE 0 without RETRAIN takes the port DOWN), retrain it
(TRAINING when it may train, else DOWN), clear its link counters and its die's engine counters but for events of that
edge, set FID, FIDVALID and POLLINT and probe every trained port, and set the routing entry that RT_INDEX names with
its reserved bits 0. LINK_COUNTER_READ and ENGINE_COUNTER_READ of word 0 copy the counters with the time; every word
answers its 32 bits of the copied block. (R246, R249, R262, R280, R299.) -/
def Obligations.AbondRegisters : Prop :=
  (∀ (s : State) (v : U32) (ev ev' : List Nat) (w : Fin 16), s.ioOpen = false →
    exec (.portEnableWrite v) s = .next s ∧ exec .retrain s = .next s ∧ exec (.portClrcnt ev ev') s = .next s ∧
    exec (.fidWrite v) s = .next s ∧ exec (.rtDataWrite v) s = .next s ∧ exec (.linkCounterRead w) s = .next s ∧ exec (.engineCounterRead w) s = .next s) ∧
  (∀ (s : State) (v : U32) (ev ev' : List Nat), s.ioOpen = true → s.ck.owner ≠ .host →
    let counted : State := { s with hp := { s.hp with notOwner := BitVec.ofNat 32 (min (s.hp.notOwner.toNat + 1) 0xFFFFFFFF) } }
    exec (.portEnableWrite v) s = .next counted ∧ exec .retrain s = .next counted ∧ exec (.portClrcnt ev ev') s = .next counted ∧
    exec (.fidWrite v) s = .next counted ∧ exec (.rtDataWrite v) s = .next counted) ∧
  (∀ (s : State) (v : U32) (ev ev' : List Nat), s.ioOpen = true → s.ck.owner = .host →
    (∃ t, exec (.portEnableWrite v) s = .next t ∧ (t.port s.ab.portSel.toNat).enable = v.getLsbD 0 ∧
      (t.port s.ab.portSel.toNat).maxRate = v.getLsbD 1 ∧ (t.port s.ab.portSel.toNat).parkEn = v.getLsbD 2 ∧
      (t.port s.ab.portSel.toNat).parkIdle.toNat = v.toNat / 65536 ∧
      (v.getLsbD 0 = false → v.getLsbD 3 = false → (t.port s.ab.portSel.toNat).nbr.state = .down)) ∧
    (∃ t, exec .retrain s = .next t ∧
      (t.port s.ab.portSel.toNat).nbr.state = (if s.portCanTrain s.ab.portSel.toNat then .training else .down)) ∧
    (∃ t, exec (.portClrcnt ev ev') s = .next t ∧ t.port s.ab.portSel.toNat = { s.port s.ab.portSel.toNat with ctrs := .cleared ev } ∧
      t.engine (s.ab.portSel.toNat / 16) = { s.engine (s.ab.portSel.toNat / 16) with ctrs := .cleared ev' } ∧
      (∀ j, j ≠ s.ab.portSel.toNat → t.port j = s.port j) ∧ keepsBut [.abond] s t) ∧
    (∃ t, exec (.fidWrite v) s = .next t ∧ t.ab.fid = BitVec.setWidth 16 v ∧ t.ab.fidValid = v.getLsbD 31 ∧
      t.ab.pollInt.toNat = v.toNat / 65536 % 1024 ∧
      (∀ p : Idx64, (t.port p).nbr = (s.port p).nbr ∧
        (t.port p).probeSent = (if (s.port p).nbr.trained then some s.clk.time.toNat else (s.port p).probeSent)) ∧ keepsBut [.abond, .out] s t) ∧
    (∃ t, exec (.rtDataWrite v) s = .next t ∧ tget 0 t.ab.rt s.ab.rtIndex.toNat = BitVec.ofNat 16 (v.toNat &&& 0xFF3F) ∧
      (∀ j, j ≠ s.ab.rtIndex.toNat → tget 0 t.ab.rt j = tget 0 s.ab.rt j) ∧ t.ab = { s.ab with rt := t.ab.rt } ∧ keepsBut [.abond] s t)) ∧
  (∀ (s : State) (w : Fin 16), s.ioOpen = true →
    let p := s.ab.portSel.toNat
    let e := s.ab.engSel.toNat
    (∃ t, exec (.linkCounterRead w) s = .next t ∧ natLE t.resp = (t.port p).block / 2 ^ (32 * w.val) % 2 ^ 32 ∧
      t.port p = (if w = 0 then { s.port p with copy := (s.port p).ctrs, snap := s.clk.time } else s.port p) ∧
      (∀ j, j ≠ p → t.port j = s.port j) ∧ keepsBut [.abond, .reply] s t) ∧
    (∃ t, exec (.engineCounterRead w) s = .next t ∧ natLE t.resp = (t.engine e).block / 2 ^ (32 * w.val) % 2 ^ 32 ∧
      t.engine e = (if w = 0 then { s.engine e with copy := (s.engine e).ctrs, snap := s.clk.time } else s.engine e) ∧
      keepsBut [.abond, .reply] s t))

/-- TRAINING of a port that may train (one that trains within its 21.4 ms, or one DOWN that waits for nothing), with the
partner present, lanes that pass, codeword lock, at most 200 ppm and a common version, takes the width of the lanes
that pass (at 128 Gb/s where offered and allowed), restarts the link's sequence numbers, sends its PROBE, alone
unacknowledged, where the partner gave a credit, and enters the partner's reply: CONFLICT for its own FID, NOFID for a
partner without one, else UP. With no common version the port is INCOMPATIBLE; where a physical step fails, and at
TRAINING_TIMEOUT of a step past its latest time whose end is not latched on that edge, it is DOWN for 100 ms.
TRAINING_RETRY and LOST_RETRAIN start training again when their time has come. (R243, R244, R246, R247, R250, R258,
Table 09-2.) -/
def Obligations.PortsTrain : Prop :=
  (∀ (s : State) (p : Idx64) (r : TrainResult), s.portCanTrain p = true →
    ((s.port p).nbr.state = .training ∧ s.reached ((s.port p).trainingSince + 21400001) = false ∨ (s.port p).nbr.state = .down ∧ (s.port p).retryAt = none) →
    let w128 := if r.offers128 && !(s.port p).maxRate then widest r.pass128 else 0
    let w := if w128 = 0 then widest r.pass64 else w128
    let good := r.present = true ∧ w ≠ 0 ∧ r.locked = true ∧ r.ppm ≤ 200
    (good → r.vmask.getLsbD 0 = true ∨ r.vmask.getLsbD 1 = true → ∃ t, exec (.training p r) s = .next t ∧
      (t.port p).nbr.width.toNat = w ∧ (t.port p).nbr.rate = (if w128 = 0 then 1 else 0) ∧
      (t.port p).nbr.ver = (if r.vmask.getLsbD 1 then 2 else 1) ∧ (t.port p).nbr.rev = r.reversed ∧
      (t.port p).nbr.id = r.reply.modid ∧ (t.port p).nbr.fid = r.reply.fid ∧
      (t.port p).nbr.state = (if s.ab.fidValid ∧ r.reply.fidValid ∧ r.reply.fid = s.ab.fid then .conflict
        else if r.reply.fidValid then .up else .nofid) ∧
      (t.port p).rxSeq = 0xFFF ∧
      (if 0 < r.credits.getD 0 0 then (t.port p).txSeq = 1 ∧ (t.port p).unacked.map (fun u => (u.1.kind, u.1.seq)) = [(2, 0)] ∧ (t.port p).credits = r.credits.set 0 (r.credits.getD 0 0 - 1)
       else (t.port p).txSeq = 0 ∧ (t.port p).unacked = [] ∧ (t.port p).credits = r.credits) ∧
      (∀ j : Nat, j ≠ p.val → t.port j = s.port j) ∧ keepsBut [.abond, .port, .out, .mgmt] s t) ∧
    (good → r.vmask.getLsbD 0 = false → r.vmask.getLsbD 1 = false → ∃ t, exec (.training p r) s = .next t ∧
      (t.port p).nbr.state = .incompatible) ∧
    (¬good → ∃ t, exec (.training p r) s = .next t ∧ (t.port p).nbr.state = .down ∧
      (t.port p).retryAt = some (s.clk.time.toNat + 100000000))) ∧
  (∀ (s : State) (p : Idx64) (k : Fin 6), (s.port p).nbr.state = .training →
    let due := s.reached ((s.port p).trainingSince + [1000000, 21000000, 21100000, 21200000, 21300000, 21400000].getD k.val 0)
    let ends := s.latched (fun i => match i with | .training q _ => q = p | _ => false)
    (due = true → ends = false → ∃ t, exec (.trainingTimeout p k) s = .next t ∧
      (t.port p).nbr.state = .down ∧ (t.port p).retryAt = some (s.clk.time.toNat + 100000000)) ∧
    (due = false ∨ ends = true → exec (.trainingTimeout p k) s = .next s)) ∧
  (∀ (s : State) (p : Idx64) (r : Nat), s.portCanTrain p = true → (s.port p).retryAt = some r → s.reached r = true →
    ((s.port p).nbr.state = .down → ∃ t, exec (.trainingRetry p) s = .next t ∧ (t.port p).nbr.state = .training ∧
      (t.port p).trainingSince = s.clk.time.toNat ∧ keepsBut [.abond, .port, .out, .mgmt] s t) ∧
    ((s.port p).nbr.state = .lost → ∃ t, exec (.lostRetrain p) s = .next t ∧ (t.port p).nbr.state = .training ∧
      (t.port p).trainingSince = s.clk.time.toNat ∧ keepsBut [.abond, .port, .out, .mgmt] s t))

/-- On a trained link: HEARTBEAT in order takes the flit's SEQ as last received; with nothing queued, owed or to be sent
again a NULL acknowledges it and returns one credit of its VC; out of order it is counted and not acknowledged. NULL
gives its credits and PARK bit and is not acknowledged. FLIT_DISCARD counts in CRCERR, and its corrected symbols in
FECCORR, and sends a NAK, where R256 allows no NULL the next flit being to carry it; a flit of reserved KIND or on a
wrong VC counts in PROTERR and is acknowledged. HEARTBEAT_SEND after 1 µs sends a sequenced flit. NEIGHBOUR_LOST after
4 µs without acknowledgement, none latched on that edge, makes the entry LOST for 100 µs with a link record and counts
in PEERLOST. PARK and UNPARK switch the transmit side, with a NULL where R256 allows one. On a link not trained flits
change nothing. TRANSIT_TIMEOUT, with no credit latched, counts and drops the received flits held over 1 ms. Memory
never changes. (R31, R253, R254, R255, R256, R257, R258, R259, R267.) -/
def Obligations.LinkLayerFlits : Prop :=
  let linkOnly := fun (s t : State) => keepsBut [.abond, .out] s t
  (∀ (s : State) (p : Idx64) (f : Flit) (n : Nat), (s.port p).nbr.trained = false →
    exec (.heartbeat p f) s = .next s ∧ exec (.null p f) s = .next s ∧ exec (.reservedKindFlit p f) s = .next s ∧ exec (.flitDiscard p n) s = .next s) ∧
  (∀ (s : State) (p : Idx64) (f : Flit), (s.port p).nbr.trained = true →
    (f.seq = (s.port p).rxSeq + 1 → ∃ t, exec (.heartbeat p f) s = .next t ∧ (t.port p).rxSeq = f.seq ∧ (t.port p).discarding = false ∧
      ((s.port p).egress = [] → (s.port p).resend = [] → f.nak = false → (s.port p).nakDue = false → (∀ v : Nat, (s.port p).owed.getD v 0 = 0) →
        t.out.getLast? = some (.flit p { ack := f.seq, crvc := f.vc, crcnt := 1, park := (s.port p).nbr.parkTx })) ∧ linkOnly s t) ∧
    (f.seq ≠ (s.port p).rxSeq + 1 → ∃ t, exec (.heartbeat p f) s = .next t ∧ (t.port p).rxSeq = (s.port p).rxSeq ∧
      (t.port p).ctrs.crcerr.toNat = min ((s.port p).ctrs.crcerr.toNat + 1) 0xFFFFFFFF ∧ linkOnly s t) ∧
    (∃ t, exec (.null p f) s = .next t ∧ (t.port p).rxSeq = (s.port p).rxSeq ∧ (t.port p).nbr.parkRx = f.park ∧
      (t.port p).ctrs.rxflits.toNat = min ((s.port p).ctrs.rxflits.toNat + 1) (2 ^ 64 - 1) ∧ linkOnly s t) ∧
    (f.seq = (s.port p).rxSeq + 1 → f.kindOk = false → ∃ t, exec (.reservedKindFlit p f) s = .next t ∧ (t.port p).rxSeq = f.seq ∧
      (t.port p).ctrs.proterr.toNat = min ((s.port p).ctrs.proterr.toNat + 1) 65535 ∧ linkOnly s t)) ∧
  (∀ (s : State) (p : Idx64) (n : Nat), (s.port p).nbr.trained = true → ∃ t, exec (.flitDiscard p n) s = .next t ∧ (t.port p).discarding = true ∧
    (t.port p).ctrs.crcerr.toNat = min ((s.port p).ctrs.crcerr.toNat + 1) 0xFFFFFFFF ∧
    (t.port p).ctrs.feccorr.toNat = min ((s.port p).ctrs.feccorr.toNat + n) (2 ^ 64 - 1) ∧ (t.port p).rxSeq = (s.port p).rxSeq ∧
    (s.mayCtl p = false → t.out = s.out ∧ (t.port p).nakDue = true) ∧
    (s.mayCtl p = true → (∀ v : Nat, (s.port p).owed.getD v 0 = 0) → (t.port p).nakDue = false ∧
      ∃ g : Flit, t.out = s.out ++ [.flit p g] ∧ g.kind = 0 ∧ g.ack = (s.port p).rxSeq ∧ g.nak = true ∧ g.park = (s.port p).nbr.parkTx) ∧ linkOnly s t) ∧
  (∀ (s : State) (p : Idx64), s.portUp p = true → s.reached ((s.port p).lastSeqSent + 1000) = true → (s.port p).egress = [] → (s.port p).resend = [] →
    (s.port p).unacked.length < 2047 → 0 < (s.port p).credits.getD 0 0 → ∃ t, exec (.heartbeatSend p) s = .next t ∧
      (∃ g : Flit, t.out = s.out ++ [.flit p g] ∧ g.kind = 1 ∧ g.vc = 0 ∧ g.src = s.ab.fid ∧ g.seq = (s.port p).txSeq ∧ g.ack = (s.port p).rxSeq ∧
        g.nak = (s.port p).nakDue ∧ g.park = (s.port p).nbr.parkTx) ∧
      (t.port p).txSeq = (s.port p).txSeq + 1 ∧ (t.port p).unacked.length = (s.port p).unacked.length + 1 ∧ linkOnly s t) ∧
  (∀ (s : State) (p : Idx64) (f : Flit) (n : Nat) (us : List (Flit × Nat)), (s.port p).nbr.trained = true → (s.port p).unacked = (f, n) :: us →
    s.reached (n + 4000) = true →
    (s.ackLatched p = true → exec (.neighbourLost p) s = .next s) ∧
    (s.ackLatched p = false → ∃ t, exec (.neighbourLost p) s = .next t ∧ (t.port p).nbr.state = .lost ∧
      (t.port p).retryAt = some (s.clk.time.toNat + 100000) ∧ (t.port p).unacked = [] ∧ (t.port p).egress = [] ∧
      (t.port p).ctrs.peerlost.toNat = min ((s.port p).ctrs.peerlost.toNat + 1) 65535 ∧ t.mg.nextIndex = nextIndex s.mg.nextIndex)) ∧
  (∀ (s : State) (p : Idx64), s.portUp p = true → (s.port p).parkEn = true → (s.port p).nbr.parkTx = false → (s.port p).egress = [] → (s.port p).resend = [] →
    s.reached ((s.port p).lastTraffic + 1000 * min 1000 (max 5 (s.port p).parkIdle.toNat)) = true → s.trafficLatched p = false → ∃ t, exec (.park p) s = .next t ∧
      (t.port p).nbr.parkTx = true ∧ (t.port p).ctrs.parks.toNat = min ((s.port p).ctrs.parks.toNat + 1) 65535 ∧
      (∃ g : Flit, t.out = s.out ++ [.flit p g] ∧ g.kind = 0 ∧ g.ack = (s.port p).rxSeq ∧ g.park = true) ∧ linkOnly s t) ∧
  (∀ (s : State) (p : Idx64), (s.port p).nbr.parkTx = true → (s.port p).trafficWaits = true → ∃ t, exec (.unpark p) s = .next t ∧
    (t.port p).nbr.parkTx = false ∧ (s.mayCtl p = false → t.out = s.out) ∧
    (s.mayCtl p = true → ∃ g : Flit, t.out = s.out ++ [.flit p g] ∧ g.kind = 0 ∧ g.ack = (s.port p).rxSeq ∧ g.park = false) ∧ linkOnly s t) ∧
  (∀ (s : State) (p : Idx64), s.latched (fun i => match flitOf i with | some (q, f) => q = p.val && 0 < f.crcnt.toNat | none => false) = false →
    ∃ t, exec (.transitTimeout p) s = .next t ∧
    (t.port p).ctrs.transitdrop.toNat = min ((s.port p).ctrs.transitdrop.toNat +
      ((s.port p).egress.filter (fun q => q.ingress.isSome && s.reached (q.since + 1000001))).length) 0xFFFFFFFF ∧
    keepsBut [.abond, .out, .clerk, .mgmt, .port, .free] s t)

/-- PROBE_TIMER 1 ms after the last probe of an UP port and PROBE_RETRY 10 µs after an unanswered one, no reply latched,
send a PROBE. On a trained link a PROBE in order without a source route is answered on its port with the module's own
fields. A PROBE_REPLY in order without a source route enters the partner's identity, and makes the neighbour LOST when
an UP port's partner has changed. SWITCH_ROUTE on an UP link of an in-order flit for another identifier with a route
and TTL left queues or sends it on the route's port with TTL one less and every field but the link's own (SEQ, ACK,
NAK, credits, PARK) as it was; with TTL 0 it is dropped, counted in TTLDROP, with a link record. (R248, R250, R251,
R261, R264.) -/
def Obligations.ProbesAndSwitching : Prop :=
  (∀ (s : State) (p : Idx64), s.portUp p = true → s.reached ((s.port p).lastProbe + 1000000) = true → ∃ t, exec (.probeTimer p) s = .next t ∧
    (t.port p).probeSent = some s.clk.time.toNat ∧ (t.port p).lastProbe = s.clk.time.toNat ∧ t.out.getLast? = some (.probe p false (s.ownProbe p [])) ∧
    keepsBut [.abond, .out] s t) ∧
  (∀ (s : State) (p : Idx64) (n : Nat), (s.port p).probeSent = some n → s.reached (n + 10000) = true →
    let answered := s.latched (fun i => match i with | .probeReply q _ _ => q = p | _ => false)
    (answered = true → exec (.probeRetry p) s = .next s) ∧
    (answered = false → ∃ t, exec (.probeRetry p) s = .next t ∧
      (t.port p).probeSent = some s.clk.time.toNat ∧ t.out.getLast? = some (.probe p false (s.ownProbe p [])) ∧ keepsBut [.abond, .out] s t)) ∧
  (∀ (s : State) (p : Idx64) (f : Flit) (m : Probe), f.seq = (s.port p).rxSeq + 1 → f.sr = false → (s.port p).nbr.trained = true → f.vc = 0 →
    (f.kind = 2 → ∃ t, exec (.probe p f m) s = .next t ∧ (t.port p).rxSeq = f.seq ∧
      .probe p true (s.ownProbe p []) ∈ t.out ∧ keepsBut [.abond, .out] s t) ∧
    (f.kind = 3 → (s.port p).nbr.state ≠ .up ∨ (s.port p).nbr.id = m.modid → ∃ t, exec (.probeReply p f m) s = .next t ∧
      (t.port p).probeSent = none ∧ (t.port p).nbr.id = m.modid ∧ (t.port p).nbr.fid = m.fid ∧ (t.port p).nbr.port = m.port ∧
      (t.port p).nbr.state = (if s.ab.fidValid ∧ m.fidValid ∧ m.fid = s.ab.fid then .conflict else if m.fidValid then .up else .nofid) ∧
      keepsBut [.abond, .out, .port, .mgmt] s t) ∧
    (f.kind = 3 → (s.port p).nbr.state = .up → (s.port p).nbr.id ≠ m.modid → ∃ t, exec (.probeReply p f m) s = .next t ∧
      (t.port p).nbr.state = .lost)) ∧
  (∀ (s : State) (p : Idx64) (f : Flit), f.seq = (s.port p).rxSeq + 1 → f.sr = false → s.ab.fidValid = true → f.dst ≠ s.ab.fid →
    (s.port p).nbr.state = .up → (s.port p).kindOk f = true →
    (∀ e, 0 < f.ttl.toNat → s.egressOf f.dst = some e → (s.port e).nbr.ver ≠ 1 → ∃ t, exec (.switchRoute p f) s = .next t ∧
      (∃ g : Flit, g = { f with ttl := f.ttl - 1, seq := g.seq, ack := g.ack, nak := g.nak, crvc := g.crvc, crcnt := g.crcnt, park := g.park, fec := g.fec } ∧
        (.flit e g ∈ t.out ∨ ∃ n, ⟨g, n, some p.val⟩ ∈ (t.port e).egress)) ∧ keepsBut [.abond, .out] s t) ∧
    (f.ttl = 0 → ∃ t, exec (.switchRoute p f) s = .next t ∧
      (t.port p).ctrs.ttldrop.toNat = min ((s.port p).ctrs.ttldrop.toNat + 1) 0xFFFFFFFF ∧ t.mg.nextIndex = nextIndex s.mg.nextIndex))

/-- For a flit in order on an UP link, on its VC and addressed to the module: MEM_WRITE inside one of the named stall's
PEER windows with the W right and no partly written poisoned line stores exactly its bytes and is answered with status
0 where a route exists; outside, memory stays and the answer is 0x20. MEM_READ inside such a window with the R right
is answered with the bytes of memory, which stays. MEM_DATA for an outstanding read of a running command, other than a
RESTORE or a MOVE to host memory, that writes no poisoned line in part, stores the bytes asked for and ends the
access. RESP with status 0 ends the access of a write; with another status or UNREACH it ends the command. (R206,
R209, R219, R261, R264.) -/
def Obligations.PeerMemoryAccesses : Prop :=
  let ours := fun (s : State) (p : Idx64) (f : Flit) =>
    f.seq = (s.port p).rxSeq + 1 ∧ f.sr = false ∧ (s.port p).nbr.state = .up ∧ f.kindOk = true ∧ s.ab.fidValid = true ∧ f.dst = s.ab.fid
  let peers := fun (s : State) (f : Flit) => (s.windowsOf f.stall.toNat).filter (fun w => w.2.peer)
  (∀ (s : State) (p : Idx64) (f : Flit) (m : MemMsg), ours s p f →
    (allowed (peers s f) false true m.addr.toNat m.data.length = true → s.partPoisoned m.addr.toNat m.data.length = false →
      ∃ t, exec (.memWrite p f m) s = .next t ∧
        (∀ c, t.byte c = if m.addr.toNat ≤ c ∧ c < m.addr.toNat + m.data.length then m.data.getD (c - m.addr.toNat) 0 else s.byte c) ∧
        ((s.egressOf f.src).isSome = true → .resp f.src f.tag false 0 0 [] ∈ t.out) ∧
        keepsBut [.memory, .poison, .abond, .out] s t) ∧
    (allowed (peers s f) false true m.addr.toNat m.data.length = false → ∃ t, exec (.memWrite p f m) s = .next t ∧
        ((s.egressOf f.src).isSome = true → .resp f.src f.tag false 0x20 0 [] ∈ t.out) ∧ keepsBut [.abond, .out] s t) ∧
    (allowed (peers s f) true false m.addr.toNat m.len = true → s.poisoned m.addr.toNat m.len = false → ∃ t, exec (.memRead p f m) s = .next t ∧
        ((s.egressOf f.src).isSome = true → .memReq f.src f.tag true m.addr.toNat m.len
          ((List.range m.len).map (fun i => s.byte (m.addr.toNat + i))) ∈ t.out) ∧ keepsBut [.abond, .out] s t) ∧
    (∀ (y : Xfer) (x : Cmd), s.ab.xfers.find? (fun y => y.tag = f.tag && y.read && y.peer = f.src) = some y → s.cmd y.cmd = some x →
      x.runs = true → x.op ≠ 0x0B04 → ¬(x.op = 0x0201 ∧ x.p 24 1 = 1) → s.partPoisoned y.dst y.len = false → ∃ t, exec (.memData p f m) s = .next t ∧
        t.ab.xfers = s.ab.xfers.erase y ∧
        (∀ c, t.byte c = if y.dst ≤ c ∧ c < y.dst + y.len then m.data.getD (c - y.dst) 0 else s.byte c) ∧
        keepsBut [.memory, .poison, .abond, .out, .clerk] s t)) ∧
  (∀ (s : State) (p : Idx64) (f : Flit) (m : RespMsg) (y : Xfer), ours s p f → m.unreach = false →
    s.ab.xfers.find? (fun y => y.tag = f.tag && y.peer = f.src) = some y →
    (m.status = 0 → y.read = false → (∀ cl ∈ s.ab.colls, cl.cmd ≠ y.cmd) → ∃ t, exec (.resp p f m) s = .next t ∧
      t.ab.xfers = s.ab.xfers.erase y ∧ keepsBut [.abond, .out, .clerk] s t) ∧
    (∀ x, m.status ≠ 0 → s.cmd y.cmd = some x → x.phase ≠ .ended → ∃ t z, exec (.resp p f m) s = .next t ∧ t.cmd y.cmd = some z ∧
      z.phase = .ended ∧ z.status = m.status ∧ z.detail = m.detail ∧ (∀ w ∈ t.ab.xfers, w.tag ≠ f.tag) ∧ keepsBut [.abond, .out, .clerk] s t)) ∧
  (∀ (s : State) (p : Idx64) (f : Flit) (m : RespMsg) (y : Xfer) (x : Cmd), ours s p f → m.unreach = true → y ∈ s.ab.xfers → y.tag = f.tag →
    s.cmd y.cmd = some x → x.phase ≠ .ended → ∃ t z, exec (.resp p f m) s = .next t ∧ t.cmd y.cmd = some z ∧ z.phase = .ended ∧
      z.status = (if m.status = 0x10 then 0x10 else 0x41))

/-- COLL_ALLREDUCE, COLL_REDSCATTER, COLL_ALLGATHER and COLL_ALLTOALL, dispatched with an instance number and stopped by
no access, on a module whose FID is in the group descriptor, go to work as a collective of that group, instance,
member list and rank, and where every member has a route, no grant is held and their own sources can be read, work on
while data is outstanding, else end; COLL_ALLTOALL, where no other collective waits for slots or grants, copies the
module's own block. COLL_BARRIER of a group of one is done at once; in a larger group a leaf sends its parent an
ARRIVE of its rank and instance where a route exists. (R268, R269, R276.) -/
def Obligations.CollectivesStart : Prop :=
  let rankIn := fun (s : State) (x : Cmd) => if s.ab.fidValid then indexOf s.ab.fid (s.groupDesc (x.addr 0)).members else none
  (∀ (s : State) (c : CmdNo) (x : Cmd) (g n : U32) (r : Nat), x.grp = some (g, n) → rankIn s x = some r → (∀ d ∈ s.ab.colls, d.cmd ≠ c) →
    let ms := (s.groupDesc (x.addr 0)).members
    let clear := ms.length ≠ 1 ∧ (∀ i m, i ≠ r → ms[i]? = some m → (s.egressOf m).isSome = true) ∧ (∀ h ∈ (s.group g.toNat).held, h.inst ≠ n) ∧
      (x.op ≠ 0x0605 → ∀ k ∈ s.chunks x.chunkTable.1 x.chunkTable.2, k.owner < ms.length) ∧
      (x.op = 0x0601 ∨ x.op = 0x0602 → ∀ k ∈ s.chunks x.chunkTable.1 x.chunkTable.2, k.owner = r → ∀ i, 16384 * i < k.len →
        s.badElem x true false ((x.desc 8).daddr + 4 * (k.off + 16384 * i)) (4 * min 16384 (k.len - 16384 * i)) = none)
    let starts := fun (exe : CmdNo → Instr) => ∃ t cl y, exec (exe c) s = .next t ∧ cl ∈ t.ab.colls ∧ cl.cmd = c ∧ cl.group = g ∧ cl.inst = n ∧
      cl.members = (s.groupDesc (x.addr 0)).members ∧ cl.rank = r ∧ t.cmd c = some y ∧ y.phase ≠ .running ∧
      (clear → (cl.need ≠ [] ∨ cl.toSend ≠ [] ∨ cl.toWrite ≠ [] → y.phase = .working) ∧
        (cl.need = [] → cl.toSend = [] → cl.toWrite = [] → y.phase = .ended ∧ y.status = x.normalStatus))
    (s.begins c 0x0601 = some x → starts .collAllreduce) ∧ (s.begins c 0x0602 = some x → starts .collRedscatter) ∧
    (s.begins c 0x0603 = some x → starts .collAllgather) ∧
    (s.begins c 0x0605 = some x → starts .collAlltoall ∧ ((∀ d ∈ s.ab.colls, d.toGrant = []) → ∀ t, exec (.collAlltoall c) s = .next t → ∀ i, i < x.p 24 8 →
      t.byte ((x.desc 16).daddr + x.p 24 8 * r + i) = s.byte ((x.desc 8).daddr + x.p 24 8 * r + i)))) ∧
  (∀ (s : State) (c : CmdNo) (x : Cmd) (g n : U32), s.begins c 0x0604 = some x → x.grp = some (g, n) → s.ab.fidValid = true →
    (s.groupDesc (x.addr 0)).members = [s.ab.fid] → (∀ b ∈ s.ab.barriers, b.group ≠ g ∧ b.cmd ≠ c) →
    ∃ t, exec (.collBarrier c) s = .next t ∧ t.cmd c = some { x with phase := .ended, status := x.normalStatus } ∧
      (t.group g.toNat).lastRelease = s.clk.time ∧ keepsBut [.clerk, .abond] s t) ∧
  (∀ (s : State) (c : CmdNo) (x : Cmd) (g n : U32) (r e : Nat), s.begins c 0x0604 = some x → x.grp = some (g, n) → rankIn s x = some r →
    0 < r → (s.groupDesc (x.addr 0)).members.length ≤ 16 * r + 1 →
    s.egressOf ((s.groupDesc (x.addr 0)).members.getD ((r - 1) / 16) 0) = some e →
    ∃ t h, exec (.collBarrier c) s = .next t ∧ .coll ((s.groupDesc (x.addr 0)).members.getD ((r - 1) / 16) 0) h [] ∈ t.out ∧
      h.op = 4 ∧ h.group = g ∧ h.inst = n ∧ h.rank = BitVec.ofNat 16 r ∧ h.abort = false)

/-- For a flit in order on an UP link and on its operation's VC, addressed to the module, of a group in use, with the
collective of its instance in progress, and an access that no window or poisoned line stops: ALLTOALL_DATA and
ALLGATHER_DATA (but for the chunk's last segment, which may also stage a replica by R463) that is still needed is
stored at its segment's place and nowhere else and needed no more. REDSCATTER_DATA still needed, not the segment's
last, is added to its accumulator slot, which latches the rank, and memory stays. SEG_GRANT of a segment to send,
whose route carries it, sends the segment's data; a grant whose collective has not started is held. (R269, R270, R271,
R272, R274, R279.) -/
def Obligations.CollectiveData : Prop :=
  let ours := fun (s : State) (p : Idx64) (f : Flit) (h : CollHdr) => f.seq = (s.port p).rxSeq + 1 ∧ f.sr = false ∧
    (s.port p).nbr.state = .up ∧ f.kindOk = true ∧ collVcOk f h.op.toNat = true ∧ s.ab.fidValid = true ∧ f.dst = s.ab.fid ∧ s.usesGroup h.group = true
  (∀ (s : State) (p : Idx64) (f : Flit) (h : CollHdr) (data : List Byte) (cl : Coll) (x : Cmd), ours s p f h → s.collOf h = some (cl, x) →
    cl.need.contains (h.rank.toNat, h.chunk.toNat, h.segment.toNat) = true →
    let a := (cl.place x h.chunk.toNat h.segment.toNat).1
    let n := x.gatherWidth * (cl.place x h.chunk.toNat h.segment.toNat).2
    s.badElem x false true a n = none →
    let lands := fun (c : Instr) => ∃ t, exec c s = .next t ∧
      (∀ b, t.byte b = if a ≤ b ∧ b < a + n then data.getD (b - a) 0 else s.byte b) ∧
      (∃ d ∈ t.ab.colls, d.cmd = cl.cmd ∧ d.need = cl.need.erase (h.rank.toNat, h.chunk.toNat, h.segment.toNat)) ∧
      keepsBut [.memory, .poison, .abond, .out, .clerk] s t
    (x.op ≠ 0x0603 ∨ (∃ y ∈ cl.need.erase (h.rank.toNat, h.chunk.toNat, h.segment.toNat), y.2.1 = h.chunk.toNat) →
      lands (.allgatherData p f h data)) ∧
    (x.op = 0x0605 → lands (.alltoallData p f h data))) ∧
  (∀ (s : State) (p : Idx64) (f : Flit) (h : CollHdr) (d : SegData) (cl : Coll) (x : Cmd) (a : AccSlot), ours s p f h →
    s.collOf h = some (cl, x) → cl.need.contains (h.rank.toNat, h.chunk.toNat, h.segment.toNat) = true →
    s.ab.slots.find? (fun a => a.group = cl.group && a.inst = cl.inst && a.chunk = h.chunk.toNat && a.segment = h.segment.toNat) = some a →
    a.ranks.length + 1 ≠ cl.members.length →
    ∃ t, exec (.redscatterData p f h d) s = .next t ∧
      (∃ b ∈ t.ab.slots, b.ranks = a.ranks ++ [h.rank.toNat] ∧ b.sums.length = a.sums.length ∧
        (∀ i, i < a.sums.length → b.sums.getD i 0 = a.sums.getD i 0 + wireUnits (segValue d h.wire.toNat i).rat)) ∧
      keepsBut [.abond, .out, .clerk] s t) ∧
  (∀ (s : State) (p : Idx64) (f : Flit) (h : CollHdr), ours s p f h → s.collOf h = none →
    ∃ t, exec (.segGrant p f h) s = .next t ∧ h ∈ (t.group h.group.toNat).held ∧ keepsBut [.abond, .out] s t) ∧
  (∀ (s : State) (p : Idx64) (f : Flit) (h : CollHdr) (cl : Coll) (x : Cmd) (st : Stall) (e : Nat), ours s p f h → s.collOf h = some (cl, x) →
    cl.toSend.contains (h.rank.toNat, h.chunk.toNat, h.segment.toNat) = true → (x.op = 0x0603 ∨ x.op = 0x0605) → s.stall x.stallNo = some st →
    s.egressOf (cl.members.getD h.rank.toNat 0) = some e → (s.port e).nbr.ver ≠ 1 →
    let span := cl.sendSpan x h.rank.toNat h.chunk.toNat h.segment.toNat
    s.badElem x true false span.1 span.2 = none →
    ∃ t g, exec (.segGrant p f h) s = .next t ∧
      .coll (cl.members.getD h.rank.toNat 0) g ((List.range span.2).map (fun i => s.byte (span.1 + i))) ∈ t.out ∧
      g.group = cl.group ∧ g.inst = cl.inst ∧ g.chunk = h.chunk ∧ g.segment = h.segment ∧ g.op = (if x.op = 0x0605 then 3 else 2))

/-- For a flit in order on an UP link and on its operation's VC, addressed to the module, of a group in use, with the
barrier of its instance in progress on a link that is not Abond 1.2: ARRIVE of a child, while another child is
missing, latches the child's rank and combines its header by R277. RELEASE from the parent at a leaf that has arrived
completes a COLL_BARRIER. ABORT ends the command with PEER_LOST and removes the barrier. POLL_ANS ends the wait for
its sender's answer; POLL is answered with a POLL_ANS that says it has arrived, where a route exists. POLL_SEND at
POLLINT polls every member waited for; POLL_TIMEOUT 3 µs after a POLL with no answer, and none latched on that edge
(the model's overdue), ends the command with PEER_LOST. An ARRIVE of an instance that has not started is held. (R276,
R277, R279, R390.) -/
def Obligations.BarrierMessages : Prop :=
  let ours := fun (s : State) (p : Idx64) (f : Flit) (h : CollHdr) => f.seq = (s.port p).rxSeq + 1 ∧ f.sr = false ∧
    (s.port p).nbr.state = .up ∧ f.kindOk = true ∧ s.ab.fidValid = true ∧ f.dst = s.ab.fid ∧ s.usesGroup h.group = true ∧ (s.port p).nbr.ver ≠ 1
  (∀ (s : State) (p : Idx64) (f : Flit) (h : CollHdr) (b : Barrier) (x : Cmd), ours s p f h → s.barrierOf h = some (b, x) →
    (f.vc = 3 → b.sentUp = false → (childrenOf b.rank b.members.length).contains h.rank.toNat = true → b.arrivals.contains h.rank.toNat = false →
      (∃ k ∈ childrenOf b.rank b.members.length, k ≠ h.rank.toNat ∧ k ∉ b.arrivals) →
      ∃ t d, exec (.arrive p f h) s = .next t ∧ d ∈ t.ab.barriers ∧ d.cmd = b.cmd ∧ d.arrivals = b.arrivals ++ [h.rank.toNat] ∧
        d.comb.nf = (b.comb.nf || h.nf) ∧ d.comb.nrm = (b.comb.nrm || h.nrm) ∧ d.comb.clk.toNat = max b.comb.clk.toNat h.clk.toNat ∧
        d.comb.arrival.toNat = max b.comb.arrival.toNat h.arrival.toNat ∧ keepsBut [.abond, .out] s t) ∧
    (f.vc = 3 → b.rank ≠ 0 → h.rank.toNat = parentOf b.rank → b.sentUp = true → childrenOf b.rank b.members.length = [] → x.op = 0x0604 →
      ∃ t, exec (.release p f h) s = .next t ∧ t.cmd b.cmd = some { x with phase := .ended, status := x.normalStatus } ∧
        (∀ d ∈ t.ab.barriers, d.cmd ≠ b.cmd) ∧ (t.group b.group.toNat).lastRelease = s.clk.time ∧ keepsBut [.abond, .out, .clerk] s t) ∧
    (collVcOk f h.op.toNat = true → ∃ t z, exec (.abort p f h) s = .next t ∧ t.cmd b.cmd = some z ∧ z.phase = .ended ∧ z.status = 0x41 ∧ z.detail = 0xFFFF ∧
      (∀ d ∈ t.ab.barriers, d.cmd ≠ b.cmd) ∧ keepsBut [.abond, .out, .clerk] s t) ∧
    (f.vc = 0 → ∃ t d, exec (.pollAns p f h) s = .next t ∧ d ∈ t.ab.barriers ∧ d.cmd = b.cmd ∧
      d.polled = b.polled.filter (fun y => b.members.getD y.1 0 ≠ f.src) ∧ keepsBut [.abond, .out] s t) ∧
    (f.vc = 0 → (s.egressOf f.src).isSome = true → (∃ y ∈ s.ck.cmds, y.grp = some (h.group, h.inst)) → ∃ t g, exec (.poll p f h) s = .next t ∧
      .coll f.src g [] ∈ t.out ∧ g.op = 7 ∧ g.group = h.group ∧ g.inst = h.inst ∧ g.arrived = true ∧ keepsBut [.abond, .out] s t)) ∧
  (∀ (s : State) (p : Idx64) (f : Flit) (h : CollHdr), ours s p f h → f.vc = 3 → s.barrierOf h = none →
    (s.group h.group.toNat).nextInst.toNat ≤ h.inst.toNat →
    ∃ t, exec (.arrive p f h) s = .next t ∧ { h with op := 4, abort := false } ∈ (t.group h.group.toNat).held ∧ keepsBut [.abond, .out] s t) ∧
  (∀ (s : State) (b : Barrier) (x : Cmd), s.ab.barriers = [b] → s.cmd b.cmd = some x → x.runs = true →
    (s.reached (b.lastPoll + 1000 * min 1000 (max 10 s.ab.pollInt.toNat)) = true → ∃ t, exec (.pollSend b.group) s = .next t ∧
      (∃ d, t.ab.barriers = [d] ∧ d.lastPoll = s.clk.time.toNat ∧ (∀ m ∈ b.waitsFor, ∃ y ∈ d.polled, y.1 = m)) ∧ keepsBut [.abond, .out, .clerk] s t) ∧
    ((s.overdue b).isSome = false → exec (.pollTimeout b.group) s = .next s) ∧
    (s.pending = [] → ((s.overdue b).isSome = true ↔ ∃ y ∈ b.polled, s.reached (y.2 + 3000) = true)) ∧
    ((s.overdue b).isSome = true → ∃ t z, exec (.pollTimeout b.group) s = .next t ∧ t.ab.barriers = [] ∧
      t.cmd b.cmd = some z ∧ z.phase = .ended ∧ z.status = 0x41 ∧ keepsBut [.abond, .out, .clerk] s t))

/-- On an edge of the Ostler's clock: OSTLER_REQUEST in a slot that the Ostler does not serve, that is masked, or whose
requester has no power (R399) changes nothing, and neither does ALIVE_RISE of the last. A LOCK of more than 16 beats,
in any slot but an egress's link slot, which is never locked, latches no request, adds one to LOCKREFUSED and writes a
record. Any other request, while no lock is held, waits last in its slot with its slack at the latch, (DL - NOW) as a
16-bit signed number not below -32,767, DL being NOW + 32,767 where the request has no deadline; nothing else changes.
ALIVE_FALL masks the slot, drops its waiting requests, counts them in MASKDROP, and ends a locked sequence of the slot
that is in progress; ALIVE_RISE lets it take part from the next edge. (R228, R229, R230, R236, R237, R239, R399.) -/
def Obligations.OstlerRequests : Prop :=
  let ostOnly := fun (s t : State) (o : Nat) => keepsBut [.ostlers] s t ∧ t.ostSel = s.ostSel ∧ ∀ j, j ≠ o → t.ostler j = s.ostler j
  (∀ (s : State) (o : Fin 808) (slot : Fin 21) (e : Bool) (dl : Option U16) (beats : Nat) (lock : Option Nat) (c : Option CmdNo),
    let x := s.ostler o
    let now := s.edge o e
    let d := match dl with | some d => d | none => BitVec.ofNat 16 (now + 32767)
    let asked := if 744 ≤ o.val ∧ slot.val = 19 then none else lock
    (slotUsed o slot = false ∨ s.clamped o slot = true ∨ tget false x.masked slot = true → exec (.ostlerRequest o slot dl beats lock c e) s = .next s) ∧
    (slotUsed o slot = true → s.clamped o slot = false → tget false x.masked slot = false → (∀ l, asked = some l → l ≤ 16) → x.lock = none →
      ∃ t, exec (.ostlerRequest o slot dl beats lock c e) s = .next t ∧ ostOnly s t o ∧
        (∃ r : Request, r.dl = d ∧ r.latched = now ∧ r.slack0 = max (-32767) (d - BitVec.ofNat 16 now).toInt ∧
          r.beats = beats ∧ r.lock = asked ∧ r.underLock = false ∧
          tget [] (t.ostler o).queue slot = tget [] x.queue slot ++ [r]) ∧
        (∀ j : Nat, j ≠ slot → tget [] (t.ostler o).queue j = tget [] x.queue j) ∧
        t.ostler o = { x with queue := (t.ostler o).queue }) ∧
    (slotUsed o slot = true → s.clamped o slot = false → tget false x.masked slot = false → (∃ l, asked = some l ∧ 16 < l) →
      ∃ t, exec (.ostlerRequest o slot dl beats lock c e) s = .next t ∧
        t.ostler o = { x with ctrs := { x.ctrs with lockrefused := (t.ostler o).ctrs.lockrefused } } ∧
        (t.ostler o).ctrs.lockrefused.toNat = min (x.ctrs.lockrefused.toNat + 1) 65535 ∧
        (∃ r, t.mg.log.getLast? = some r ∧ r.cls = 6 ∧ r.code = 2) ∧
        t.mg.nextIndex = nextIndex s.mg.nextIndex ∧ keepsBut [.ostlers, .mgmt, .clerk, .port, .out, .free] s t)) ∧
  (∀ (s : State) (o : Fin 808) (slot : Fin 21) (e : Bool),
    let x := s.ostler o
    let plain := fun (l : List Request) => l.map (fun r => { r with underLock := false })
    (∃ t, exec (.aliveFall o slot e) s = .next t ∧ ostOnly s t o ∧ tget false (t.ostler o).masked slot = true ∧
      tget [] (t.ostler o).queue slot = [] ∧ (∀ j : Nat, j ≠ slot → plain (tget [] (t.ostler o).queue j) = plain (tget [] x.queue j)) ∧
      (x.lock = none → ∀ j : Nat, j ≠ slot → tget [] (t.ostler o).queue j = tget [] x.queue j) ∧
      (t.ostler o).ctrs.maskdrop.toNat = min (x.ctrs.maskdrop.toNat + (tget [] x.queue slot).length) 65535 ∧
      (x.busy = true → s.edge o e ≤ x.busyUntil → ∀ k, (t.ostler o).lock = some k → k.1 ≠ slot)) ∧
    (s.clamped o slot = true → exec (.aliveRise o slot e) s = .next s) ∧
    (s.clamped o slot = false → ∃ t, exec (.aliveRise o slot e) s = .next t ∧ ostOnly s t o ∧ tget false (t.ostler o).masked slot = false ∧
      (t.ostler o).queue = x.queue ∧ (∀ now, now ≤ s.edge o e → (t.ostler o).front slot now = none)))

/-- ARBITRATION_BOUNDARY with no edge of the clock in the present nanosecond, or while beats of a transfer are left,
changes nothing. At the last beat of a transfer of a locked sequence the next request of its slot that is ready and
fits in the beats left follows, the sequence holding what is left. At a boundary a waiting COMMIT makes the shadow
offsets active; with no eligible slot the Ostler is idle. Else a slot of least effective slack (slack plus the active
offset) among the eligible ones is granted, of equal ones the first after the slot last granted (on an egress the link
slot goes first). Its oldest request leaves; without LOCK no other slot's queue changes, XFERS counts it, its beats
are due to BEATS, which has every beat moved before, and its negative slack counts in MISS, or in LOCKMISS when it
fell under a lock. (R231, R232, R233, R234, R236, R241.) -/
def Obligations.OstlerArbitration : Prop :=
  ∀ (s : State) (o : Fin 808) (e : Bool),
    let x := (s.ostler o).applyCommit
    let now := s.edge o e
    let dist := fun (k : Nat) => (k + 21 - (x.last + 1) % 21) % 21
    (s.edges o = 0 ∨ ((s.ostler o).busy = true ∧ now < (s.ostler o).busyUntil) → exec (.arbitrationBoundary o e) s = .next s) ∧
    (∀ k n r rest, 0 < s.edges o → (s.ostler o).busy = true → (s.ostler o).busyUntil = now → (s.ostler o).lock = some (k, n) →
      tget [] (s.ostler o).queue k = r :: rest → tget false (s.ostler o).masked k = false → tget 0 (s.ostler o).rising k ≤ now → r.beats ≤ n →
      ∃ t, exec (.arbitrationBoundary o e) s = .next t ∧ (t.ostler o).lock = some (k, n - r.beats) ∧ tget [] (t.ostler o).queue k = rest ∧
        (t.ostler o).active = (s.ostler o).active ∧ (t.ostler o).ctrs.xfers.toNat = min ((s.ostler o).ctrs.xfers.toNat + 1) (2 ^ 64 - 1) ∧
        keepsBut [.ostlers] s t ∧ (∀ j, j ≠ o.val → t.ostler j = s.ostler j)) ∧
    (0 < s.edges o → (s.ostler o).boundary now = true → ∃ t, exec (.arbitrationBoundary o e) s = .next t ∧
      (t.ostler o).active = (if (s.ostler o).pending then (s.ostler o).shadow else (s.ostler o).active) ∧ (t.ostler o).pending = false ∧
      keepsBut [.ostlers] s t ∧ t.ostSel = s.ostSel ∧ (∀ j, j ≠ o.val → t.ostler j = s.ostler j) ∧
      ((∀ k, k < 21 → s.eligible o x now k = false) → t.ostler o = { x with busy := false, lock := none }) ∧
      ((∃ k, k < 21 ∧ s.eligible o x now k = true) → ∃ w r rest, w < 21 ∧ s.eligible o x now w = true ∧
        tget [] x.queue w = r :: rest ∧ (t.ostler o).last = w ∧ (t.ostler o).busy = true ∧ (t.ostler o).spare < 257 ∧
        257 * (t.ostler o).busyUntil = 257 * now - (if x.busy = true ∧ x.busyUntil = now then x.spare else 0) + r.beats * s.beatTime o + (t.ostler o).spare ∧
        (∀ k q, k < 21 → ¬(o.val ≥ 744 ∧ w = 19) → s.eligible o x now k = true → x.front k now = some q →
          x.effective w r now ≤ x.effective k q now ∧ (x.effective w r now = x.effective k q now → dist w ≤ dist k)) ∧
        (r.lock = none → tget [] (t.ostler o).queue w = rest ∧ (∀ k, k ≠ w → tget [] (t.ostler o).queue k = tget [] x.queue k) ∧
          (t.ostler o).ctrs.xfers.toNat = min (x.ctrs.xfers.toNat + 1) (2 ^ 64 - 1) ∧
          (t.ostler o).due = r.beats ∧ (t.ostler o).ctrs.beats.toNat = min (x.ctrs.beats.toNat + x.due) (2 ^ 64 - 1) ∧
          (t.ostler o).ctrs.miss.toNat = min (x.ctrs.miss.toNat + (if r.slack now < 0 ∧ r.underLock = false then 1 else 0)) 0xFFFFFFFF ∧
          (t.ostler o).ctrs.lockmiss.toNat = min (x.ctrs.lockmiss.toNat + (if r.slack now < 0 ∧ r.underLock = true then 1 else 0)) 0xFFFFFFFF)))

/-- Over an insecure CXL.io stream OSTLER_COMMIT, OSTLER_CLRCNT and OSTLER_COUNTER_READ change nothing; else COMMIT and
CLRCNT of a host that is not the owner only count in NOTOWNER. For the owner COMMIT makes the selected Ostler, or
every one with ALL, copy its shadow offsets at its next boundary, and CLRCNT clears the selected Ostler's counters but
for events of that edge, beats still to move counting later; with 808 to 1,023 selected both change nothing.
OSTLER_COUNTER_READ of word 0 copies the selected Ostler's counters with the time; every word answers its 32 bits of
the copy. A crossing that loses a transfer writes a control record of CODE 1 and fails its running command, other than
an UPDATE_LAYER, with one of the statuses of a failed command, a free value (log 5), and that status's DETAIL. (R30,
R241, R242, R299.) -/
def Obligations.OstlerRegisters : Prop :=
  (∀ (s : State) (all : Bool) (ev : List Nat) (w : Fin 16), s.ioOpen = false →
    exec (.ostlerCommit all) s = .next s ∧ exec (.ostlerClrcnt ev) s = .next s ∧ exec (.ostlerCounterRead w) s = .next s) ∧
  (∀ (s : State) (all : Bool) (ev : List Nat), s.ioOpen = true → s.ck.owner ≠ .host →
    let counted : State := { s with hp := { s.hp with notOwner := BitVec.ofNat 32 (min (s.hp.notOwner.toNat + 1) 0xFFFFFFFF) } }
    exec (.ostlerCommit all) s = .next counted ∧ exec (.ostlerClrcnt ev) s = .next counted) ∧
  (∀ (s : State) (all : Bool) (ev : List Nat), s.ioOpen = true → s.ck.owner = .host → 808 ≤ s.ostSel.toNat →
    exec (.ostlerCommit all) s = .next s ∧ exec (.ostlerClrcnt ev) s = .next s) ∧
  (∀ (s : State) (all : Bool) (ev : List Nat) (w : Fin 16), s.ioOpen = true → s.ck.owner = .host → s.ostSel.toNat < 808 →
    (∃ t, exec (.ostlerCommit all) s = .next t ∧ keepsBut [.ostlers] s t ∧ t.ostSel = s.ostSel ∧
      (∀ o, t.ostler o = if o < 808 ∧ (all = true ∨ o = s.ostSel.toNat) then { s.ostler o with pending := true } else s.ostler o)) ∧
    (∃ t, exec (.ostlerClrcnt ev) s = .next t ∧ keepsBut [.ostlers] s t ∧ t.ostSel = s.ostSel ∧
      (∀ o, t.ostler o = if o = s.ostSel.toNat then { (s.ostler o).moved (s.cycles o) (s.beatTime o) with ctrs := .cleared ev } else s.ostler o)) ∧
    (∃ t, exec (.ostlerCounterRead w) s = .next t ∧ natLE t.resp = (t.ostler s.ostSel.toNat).block / 2 ^ (32 * w.val) % 2 ^ 32 ∧ keepsBut [.ostlers, .reply] s t ∧
      t.ostSel = s.ostSel ∧
      (∀ o, t.ostler o = if o = s.ostSel.toNat ∧ w = 0 then (let x := (s.ostler o).moved (s.cycles o) (s.beatTime o); { x with copy := x.ctrs, snap := s.clk.time }) else s.ostler o))) ∧
  (∀ (x : Ostler) (now unit : Nat), 0 < unit → x.busy = true →
    (x.moved now unit).due = min x.due ((257 * x.busyUntil - x.spare - 257 * now + unit - 1) / unit) ∧
    (x.moved now unit).ctrs.beats.toNat = min (x.ctrs.beats.toNat + (x.due - (x.moved now unit).due)) (2 ^ 64 - 1)) ∧
  (∀ (s : State) (c : CmdNo) (x : Cmd) (unit : U16) (crossing : Nat), s.cmd c = some x → x.runs = true → s.running c 0x0501 = none →
    ∃ t y, exec (.crossingLoss c unit crossing) s = .next t ∧ t.cmd c = some y ∧ y.phase = .ended ∧
      y.status ∈ failStatuses ∧ y.detail = lossDetail y.status unit ∧ (∃ r, t.mg.log.getLast? = some r ∧ r.cls = 6 ∧ r.code = 1 ∧ r.unit = unit) ∧
      y.errIdx = s.mg.nextIndex ∧ t.mg.nextIndex = nextIndex s.mg.nextIndex ∧ keepsBut [.clerk, .mgmt, .port, .out, .free] s t) ∧
  (∀ (s : State) (c : CmdNo) (unit : U16) (crossing : Nat), s.cmd c = none → ∃ t, exec (.crossingLoss c unit crossing) s = .next t ∧
    (∃ r, t.mg.log.getLast? = some r ∧ r.cls = 6 ∧ r.code = 1 ∧ r.unit = unit) ∧ keepsBut [.mgmt, .port, .out, .free] s t)

/-- For every Ostler, slot and waiting request, the effective slack at any cycle is the request's slack plus the slot's
active priority offset read as a 12-bit signed number, with no wrapping; for every request that an OSTLER_REQUEST
latches it lies from -34,815 to 34,814. (R231.) -/
def Obligations.EffectiveSlackIsExact : Prop :=
  (∀ (x : Ostler) (slot now : Nat) (r : Request), x.effective slot r now = r.slack now + (tget (0 : BitVec 12) x.active slot).toInt) ∧
  (∀ (s t : State) (o : Fin 808) (slot : Fin 21) (e : Bool) (dl : Option U16) (beats : Nat) (lock : Option Nat) (c : Option CmdNo),
    exec (.ostlerRequest o slot dl beats lock c e) s = .next t → ∀ r ∈ tget [] (t.ostler o).queue slot, r ∉ tget [] (s.ostler o).queue slot →
      ∀ now : Nat, -34815 ≤ (t.ostler o).effective slot r now ∧ (t.ostler o).effective slot r now ≤ 34814)

/-- Over an insecure CXL.io stream DOORBELL, RCI_WRITE, QUEUE_ATTACH, QUEUE_DETACH and RINGERR_CLEAR change nothing. Else
DOORBELL of an attached queue takes the low 16 bits as QPI and wakes the queue. RCI_WRITE sets RCI and wakes.
QUEUE_ATTACH of a queue neither attached nor draining takes its fields and, where they are legal, attaches it with
indices and flags 0; else it stays detached. QUEUE_DETACH clears ENABLE and RINGERR and leaves DRAIN only while
accepted commands are outstanding; DRAIN_END clears it when none is. RINGERR_CLEAR of a set RINGERR clears it, unless
it is set again on that edge, and wakes; COHERENT_WAKE_SNOOP, over a secure stream, of the cached line of the next
slot forgets the line and wakes. No other queue changes. (R293, R313, R325, R326, R327.) -/
def Obligations.QueueRegisters : Prop :=
  let only := fun (s t : State) (q : Idx64) (ps : List Part) => t.ck = { s.ck with queues := t.ck.queues } ∧ (∀ j, j ≠ q.val → t.queue j = s.queue j) ∧ keepsBut (.clerk :: ps) s t
  let woken := fun (s : State) (x : Queue) => { x with wake := some (x.wake.getD (s.clk.time.toNat, s.clk.time)) }
  ∀ (s : State) (q : Idx64) (v : U32) (again : Bool),
    let x := s.queue q
    (s.ioOpen = false → exec (.doorbell q v) s = .next s ∧ exec (.rciWrite q v) s = .next s ∧ exec (.queueAttach q v) s = .next s ∧
      exec (.queueDetach q) s = .next s ∧ exec (.ringerrClear q again) s = .next s) ∧
    (s.ioOpen = true → s.hp.mode ≠ 5 → x.enable = true → x.loc ≠ 3 → v.toNat < 65536 → ∃ t, exec (.doorbell q v) s = .next t ∧
      t.queue q = woken s { x with qpi := BitVec.setWidth 16 v } ∧ t.mb = { s.mb with db := t.mb.db } ∧ only s t q [.mailboxes]) ∧
    (s.ioOpen = true → ∃ t, exec (.rciWrite q v) s = .next t ∧ t.queue q = woken s { x with rci := BitVec.setWidth 17 v } ∧ only s t q []) ∧
    (s.ioOpen = true → x.enable = false → x.drain = false → v.getLsbD 31 = true → ∃ t, exec (.queueAttach q v) s = .next t ∧ only s t q [] ∧
      (t.queue q).loc = BitVec.ofNat 2 (v.toNat / 2 ^ 28) ∧ (t.queue q).csize = BitVec.ofNat 4 (v.toNat / 2 ^ 24) ∧ (t.queue q).cohwake = v.getLsbD 30 ∧
      (t.queue q).qbase = x.qbase ∧ (t.queue q).rbase = x.rbase ∧
      ((t.queue q).enable = true ↔ 4 ≤ (t.queue q).csize.toNat ∧ x.qbase.toNat % 64 = 0 ∧ x.rbase.toNat % 32 = 0 ∧
        ((t.queue q).loc = 1 ∨ ((t.queue q).loc = 2 ∧ inTier 1 x.qbase.toNat (64 * 2 ^ (t.queue q).csize.toNat) = true ∧
          inTier 1 x.rbase.toNat (64 * 2 ^ (t.queue q).csize.toNat) = true))) ∧
      ((t.queue q).enable = true → (t.queue q).qpi = 0 ∧ (t.queue q).qci = 0 ∧ (t.queue q).rpi = 0 ∧ (t.queue q).rci = 0 ∧
        (t.queue q).ringerr = false ∧ (t.queue q).noroom = false ∧ (t.queue q).drain = false)) ∧
    (x.enable = true ∨ x.drain = true → exec (.queueAttach q v) s = .next s) ∧
    (s.ioOpen = true → x.enable = true → ∃ t, exec (.queueDetach q) s = .next t ∧ only s t q [] ∧
      t.queue q = { x with enable := false, drain := decide (s.outstanding q ≠ 0), ringerr := false, granted := false, wake := none }) ∧
    (x.drain = true → s.outstanding q = 0 → ∃ t, exec (.drainEnd q) s = .next t ∧ t.queue q = { x with drain := false } ∧ only s t q []) ∧
    (s.outstanding q ≠ 0 → exec (.drainEnd q) s = .next s) ∧
    (s.ioOpen = true → x.ringerr = true → ∃ t, exec (.ringerrClear q again) s = .next t ∧ t.queue q = woken s { x with ringerr := again } ∧ only s t q []) ∧
    (let line := (x.qbase.toNat + 64 * (x.qci.toNat % 2 ^ x.csize.toNat)) / 64
     x.enable = true → x.loc = 1 → x.cohwake = true → s.hp.mode ≤ 2 → s.memOpen = true → line ∈ s.hp.qcache → ∃ t, exec (.coherentWakeSnoop q) s = .next t ∧
      t.queue q = woken s x ∧ line ∉ t.hp.qcache ∧ t.hp = { s.hp with qcache := t.hp.qcache } ∧ only s t q [.port])

/-- Over a CXL.io stream that is not insecure (over an insecure one every write is refused, R295): outside service mode a
DOORBELL of a queue with no ring attached, of a queue attached by a fabric peer, or with bits 31 to 16 not all zero
adds one to DBSTRAY, saturating, and leaves every queue as it was; in service mode every doorbell adds one to NOTOWNER
instead. No doorbell of any kind writes memory or host memory, changes CAUSE or the pending bits, or sends anything
from the part. (R315.) -/
def Obligations.DoorbellsDiscarded : Prop :=
  ∀ (s : State) (q : Idx64) (v : U32),
    (s.ioOpen = false → exec (.doorbell q v) s = .next s) ∧
    (s.ioOpen = true → s.hp.mode ≠ 5 → (s.queue q).enable = false ∨ (s.queue q).loc = 3 ∨ 65536 ≤ v.toNat → ∃ t, exec (.doorbell q v) s = .next t ∧
      t.mb.dbStray.toNat = min (s.mb.dbStray.toNat + 1) 65535 ∧ keepsBut [.mailboxes] s t) ∧
    (s.ioOpen = true → s.hp.mode = 5 → ∃ t, exec (.doorbell q v) s = .next t ∧ t.hp.notOwner.toNat = min (s.hp.notOwner.toNat + 1) 0xFFFFFFFF ∧
      t.mb.dbStray = s.mb.dbStray ∧ keepsBut [.mailboxes, .port] s t) ∧
    (∀ t, exec (.doorbell q v) s = .next t → t.hp.cause = s.hp.cause ∧ t.hp.pba = s.hp.pba ∧ keepsBut [.mailboxes, .port, .clerk] s t)

/-- PACKET_READ of a woken host-memory queue that the port reaches, no queue of a lower number woken on the same edge,
with reply room takes the packet at QCI, advances QCI, and writes one receipt at RPI, whose status byte is ACCEPTED
exactly when the packet was issued as the next command and counted in ACCEPTS. More unread packets than the ring holds
set RINGERR, too little reply room sets NOROOM, and nothing is read. A CMD_FLIT in order on an UP link for the
attached peer queue of its sender whose ring has room stores its 64 bytes at QPI, advances QPI, and wakes the queue.
(R321, R326, R327, R329, R330.) -/
def Obligations.PacketsAreRead : Prop :=
  (∀ (s : State) (q : Idx64) (w : Nat × U64),
    let x := s.queue q
    let ready := s.clerkRuns = true ∧ x.enable = true ∧ x.wake = some w ∧ x.loc = 1 ∧ s.hp.mode ≠ 5 ∧ s.ringOpen = true ∧ s.earlierQueue q w.1 = false ∧ x.ringerr = false
    let at_ := x.rbase.toNat + 32 * (x.rpi.toNat % (2 * 2 ^ x.csize.toNat))
    (ready → 2 ^ x.csize.toNat < x.unread → ∃ t, exec (.packetRead q) s = .next t ∧ t.queue q = { x with ringerr := true, wake := none } ∧
      keepsBut [.clerk] s t) ∧
    (ready → x.unread ≤ 2 ^ x.csize.toNat → x.unread ≠ 0 → x.freeReplies < 2 * (s.outstanding q + 1) → ∃ t, exec (.packetRead q) s = .next t ∧
      t.queue q = { x with noroom := true, wake := none } ∧ keepsBut [.clerk] s t) ∧
    (ready → x.unread ≤ 2 ^ x.csize.toNat → x.unread ≠ 0 → 2 * (s.outstanding q + 1) ≤ x.freeReplies → s.cmd s.ck.nextCmd = none →
      ∃ t, exec (.packetRead q) s = .next t ∧ (t.queue q).qci = x.qci + 1 ∧ (t.queue q).rpi = x.rpi + 1 ∧ (t.queue q).noroom = false ∧
        (∀ a, a < at_ ∨ at_ + 32 ≤ a → tget 0 t.hostMem a = tget 0 s.hostMem a) ∧
        ((tget 0 t.hostMem at_ = 0x01 ∧ t.ck.nextCmd = s.ck.nextCmd + 1 ∧ (t.queue q).accepts.toNat = min (x.accepts.toNat + 1) 0xFFFFFFFF ∧
            ∃ y, t.cmd s.ck.nextCmd = some y ∧ y.phase = .issued ∧ y.hdr = Header.ofBytes (s.readHost (x.qbase.toNat + 64 * (x.qci.toNat % 2 ^ x.csize.toNat)) 64)) ∨
          (tget 0 t.hostMem at_ ≠ 0x01 ∧ t.ck.nextCmd = s.ck.nextCmd ∧ t.ck.cmds = s.ck.cmds ∧ (t.queue q).accepts = x.accepts)))) ∧
  (∀ (s : State) (p q : Idx64) (f : Flit) (r : List Byte),
    let x := s.queue q
    let at_ := x.qbase.toNat + 64 * (x.qpi.toNat % 2 ^ x.csize.toNat)
    f.seq = (s.port p).rxSeq + 1 → f.sr = false → (s.port p).nbr.state = .up → f.kindOk = true → s.ab.fidValid = true → f.dst = s.ab.fid → f.payload = BitVec.ofNat 8 q :: r →
    x.enable = true → x.loc = 3 → x.attfid = f.src → x.unread < 2 ^ x.csize.toNat →
    ∃ t, exec (.cmdFlit p f) s = .next t ∧ (∀ i, i < 64 → t.byte (at_ + i) = (slice f.payload 8 64).getD i 0) ∧
      (∀ a, a < at_ ∨ at_ + 64 ≤ a → t.byte a = s.byte a) ∧ (t.queue q).qpi = x.qpi + 1 ∧ (t.queue q).tags = x.tags ++ [f.tag] ∧
      (t.queue q).wake.isSome = true ∧ (∀ j, j ≠ q.val → t.queue j = s.queue j) ∧ keepsBut [.memory, .poison, .clerk, .abond, .out] s t)

/-- COMMAND_DISPATCH of an issued command that nothing holds, whose contents, last checks and regions pass and which the
Tallyman grants its power, starts it: it runs, dispatched now, with that reservation and its bays; where one of these
fails it ends, or waits for energy under ENWAIT; a held one stays as it is, and one whose deadline has passed ends
with status 0x40. COMMAND_COMPLETE of an ended command that no earlier collective of its group, and no insecure stream
before its reply ring, keeps back removes it from the command table and, for a queue in host memory whose reply is not
lost, writes its 32 bytes at RPI, the first its status, and advances RPI; after a thermal trip none completes so
(R383). DEADLINE_EXPIRY once the deadline has passed ends a command, undispatched or running, with status 0x40, unless
its opcode is free of deadlines once dispatched or its completion is latched on that edge; before the deadline or
without one it does nothing; a running ROUND_START stops its round and the inner ones. (R31, R268, R320, R322, R329,
R332, R333.) -/
def Obligations.CommandsRunAndComplete : Prop :=
  (∀ (s : State) (c : CmdNo) (x : Cmd), s.cmd c = some x → x.phase = .issued → s.clerkRuns = true → s.overDeadline x = true →
    ∃ t, exec (.commandDispatch c) s = .next t ∧ t.cmd c = some { x with phase := .ended, status := 0x40, detail := 0 } ∧ keepsBut [.clerk] s t) ∧
  (∀ (s : State) (c : CmdNo) (x : Cmd), s.cmd c = some x → x.phase = .issued → s.clerkRuns = true → s.overDeadline x = false → s.cannotRun x = none →
    (s.held x = true → exec (.commandDispatch c) s = .next s) ∧
    (s.held x = false → s.unitsFor x = [] → (s.unitsNeeded x).any s.sliceHolds = false → ∃ t y, exec (.commandDispatch c) s = .next t ∧
      t.cmd c = some y ∧ (y.phase = .running ∨ y.phase = .ended ∨ (y.phase = .energyWait ∧ x.hdr.enwait = true)) ∧
      (y.phase = .running → y.disp = true ∧ y.tstart = s.clk.time ∧ y.hdr = x.hdr ∧ y.params = x.params) ∧ t.ck.nextCmd = s.ck.nextCmd) ∧
    (s.held x = false → s.unitsFor x = [] → (s.unitsNeeded x).any s.sliceHolds = false → x.op ≠ 0x0606 →
      let u := s.endSlices (s.unitsNeeded x)
      let y := { x with descs := ((descOffs x.op).filter (fun o => x.addr o != 0 && u.readable x (x.addr o) 64)).map (fun o => (o, u.readNat (x.addr o) 64)), bays := u.bayMaskOf x }
      u.badRegion y ((u.contentsOf y).flatMap (fun r => reads r.1 r.2)) = none → u.lateCheck y = none → u.badRegion y (u.dispatchRegions y) = none →
      ∀ mw low, ((if x.grp.isNone then u.takeInstance x.no else u).grant y).1 = some (mw, low) → ∃ t z, exec (.commandDispatch c) s = .next t ∧ t.cmd c = some z ∧
        z.phase = .running ∧ z.disp = true ∧ z.tstart = s.clk.time ∧ z.hdr = x.hdr ∧ z.params = x.params ∧ z.bays = y.bays ∧ z.reserved = mw ∧ z.lowered = low)) ∧
  (∀ (s : State) (c : CmdNo) (x : Cmd), s.cmd c = some x →
    (x.phase ≠ .ended → exec (.commandComplete c) s = .next s) ∧
    (x.phase = .ended → x.unnumbered = true → s.contentsPending x = true ∨ s.numberWait x = true → exec (.commandComplete c) s = .next s) ∧
    (x.phase = .ended → x.unnumbered = true → s.contentsPending x = false → s.numberWait x = false →
      s.brd.trip = false → exec (.commandComplete c) s = exec (.commandComplete c) (s.takeInstance c)) ∧
    (s.brd.trip = true → exec (.commandComplete c) s = .next s) ∧
    (x.phase = .ended → x.unnumbered = false → s.mustWait x = true ∨ s.replyBlocked x = true → exec (.commandComplete c) s = .next s) ∧
    (x.phase = .ended → x.unnumbered = false → s.mustWait x = false → s.replyBlocked x = false → s.brd.trip = false → ∃ t, exec (.commandComplete c) s = .next t ∧ t.cmd c = none ∧
      (∀ q : Idx64, x.origin = .queue q → x.lost = false → (s.queue q).loc = 1 →
        let at_ := (s.queue q).rbase.toNat + 32 * ((s.queue q).rpi.toNat % (2 * 2 ^ (s.queue q).csize.toNat))
        (t.queue q).rpi = (s.queue q).rpi + 1 ∧ tget 0 t.hostMem at_ = x.status ∧
        (∀ a, a < at_ ∨ at_ + 32 ≤ a → tget 0 t.hostMem a = tget 0 s.hostMem a)))) ∧
  (∀ (s : State) (c : CmdNo) (x : Cmd), s.cmd c = some x →
    let due := s.reached (x.wakeTick + 10 * x.hdr.deadline.toNat)
    (x.hdr.deadline = 0 ∨ due = false → exec (.deadlineExpiry c) s = .next s) ∧
    (x.hdr.deadline ≠ 0 → due = true → x.op = 0x0B02 → x.phase = .working → s.endsNow c = false →
      exec (.deadlineExpiry c) s = .next (s.stopNested 0x40 8 (x.p 0 1))) ∧
    (x.hdr.deadline ≠ 0 → x.runs = true → s.endsNow c = true → exec (.deadlineExpiry c) s = .next s) ∧
    (x.hdr.deadline ≠ 0 → due = true → x.phase ≠ .ended → ¬(x.disp = true ∧ deadlineFree x.op = true) → ¬(x.op = 0x0B02 ∧ x.phase = .working) →
      (x.runs = true → s.endsNow c = false) → ∃ t, exec (.deadlineExpiry c) s = .next t ∧ t.cmd c = some { x with phase := .ended, status := 0x40, detail := 0 } ∧ keepsBut [.clerk] s t))

/-- A dispatched CAPS that no access stops, and likewise ENERGY_REPORT, PSTATE_REPORT, ERRLOG_READ (records, or health
with its KIND), ATTEST report or CERT_READ gives the bytes of its record: from a host queue or a round they are stored
at DEST and nowhere else, from a peer queue or the attach channel they become the command's result. It then ends.
NUMERICS_STATS stores the named bays' counter records, then the stall's copy of its last close where asked, and CLEAR
zeroes those bays' counters. ENERGY_REPORT first counts the stretched cycles up to now, and with CLEAR zeroes the
totals it wrote and keeps KCORR. CERT_READ into a LIMIT too small gives the length alone and ends with REFUSED_STATE.
(R335, R330, R148, R346, R394, R408, R418, R222, R453, R454.) -/
def Obligations.QueriesAnswer : Prop :=
  let answered := fun (s t : State) (x : Cmd) (dest : Nat) (bs : List Byte) (status : Byte) (detail : U16) =>
    let peer := match x.origin with | .queue q => (s.queue q).loc == 3 | .attach _ => true | .round _ _ => false
    let ended := { x with phase := .ended, status := status, detail := detail }
    if peer then (∀ a, t.byte a = s.byte a) ∧ t.cmd x.no = some { ended with result := bs }
    else (∀ i, i < bs.length → t.byte (dest + i) = bs.getD i 0) ∧ (∀ a, a < dest ∨ dest + bs.length ≤ a → t.byte a = s.byte a) ∧
      t.cmd x.no = some { ended with wrote := x.wrote ++ [⟨dest, bs.length, true⟩] }
  ∀ (s : State) (c : CmdNo) (x : Cmd),
    (s.begins c 0x0001 = some x → ∃ t, exec (.caps c) s = .next t ∧ answered s t x (x.addr 0) s.capsRecord x.normalStatus x.detail ∧
      keepsBut [.memory, .poison, .clerk] s t) ∧
    (s.begins c 0x0704 = some x → ∃ t, exec (.energyReport c) s = .next t ∧ answered s t x (x.addr 0) ((List.range 64).foldl State.countStretch s).energyReport x.normalStatus x.detail ∧
      (x.p 8 1 % 2 = 0 → keepsBut [.memory, .poison, .clerk, .bays, .dies] s t) ∧
      (x.p 8 1 % 2 = 1 → t.tal = { s.tal with tot := { kcorr := s.tal.tot.kcorr } } ∧ (∀ d : Fin 4, (t.die d).ipeak = 0 ∧ (t.die d).pinvolt = 0 ∧ (t.die d).vtrim = (s.die d).vtrim) ∧
        keepsBut [.memory, .poison, .clerk, .tally, .bays, .dies] s t)) ∧
    (s.begins c 0x0802 = some x → ∃ t, exec (.pstateReport c) s = .next t ∧ answered s t x (x.addr 0) s.powerReport x.normalStatus x.detail ∧
      keepsBut [.memory, .poison, .clerk] s t) ∧
    (s.begins c 0x0902 = some x → x.p 16 1 = 0 → ∃ t, exec (.errlogRead c) s = .next t ∧
      answered s t x (x.addr 0) ((indicesFrom (x.p 12 4) (BitVec.ofNat 32 (x.p 8 4))).flatMap (fun i => match s.logged i with
        | some r => r.bytes
        | none => List.replicate 124 0 ++ List.replicate 4 0xFF)) x.normalStatus x.detail ∧ keepsBut [.memory, .poison, .clerk] s t) ∧
    (s.begins c 0x0902 = some x → x.p 16 1 = 1 → ∃ t, exec (.errlogReadHealth c) s = .next t ∧
      answered s t x (x.addr 0) (((List.range 48).filter (fun k => (x.addr 24).testBit k)).flatMap s.healthRecord) x.normalStatus x.detail ∧
      keepsBut [.memory, .poison, .clerk] s t) ∧
    (s.begins c 0x0A01 = some x → x.p 0 1 = 0 → ∃ t, exec (.attestReport c) s = .next t ∧
      answered s t x (x.addr 16) (s.report (s.readNat (x.addr 8) 32) 0 s.boot.m6.toNat) x.normalStatus x.detail ∧ keepsBut [.memory, .poison, .clerk] s t) ∧
    (s.begins c 0x0A02 = some x → ∃ t, exec (.certRead c) s = .next t ∧ keepsBut [.memory, .poison, .clerk] s t ∧
      (let bs := s.certs (x.p 0 1)
       if x.p 16 4 < 4 + bs.length then answered s t x (x.addr 8) (bytesLE 4 bs.length) 0x13 16
       else answered s t x (x.addr 8) (bytesLE 4 bs.length ++ bs) x.normalStatus x.detail)) ∧
    (s.begins c 0x0405 = some x → ∃ t, exec (.numericsStats c) s = .next t ∧
      (let bs := s.numericsStats x
       (∀ i, i < bs.length → t.byte (x.addr 8 + i) = bs.getD i 0) ∧ (∀ a, a < x.addr 8 ∨ x.addr 8 + bs.length ≤ a → t.byte a = s.byte a)) ∧
      (∀ b : Idx64, t.bay b = if (x.p 16 2).testBit 0 ∧ (x.p 0 8).testBit b then { s.bay b with ctrs := {} } else s.bay b) ∧
      (∃ z, t.cmd c = some z ∧ z.phase = .ended ∧ z.status = x.normalStatus) ∧ keepsBut [.memory, .poison, .clerk, .bays] s t)

/-- A dispatched PEER_ATTACH with ACTION ATTACH takes the queue asked for, or the lowest-numbered free one for 0xFF, as a
peer queue (LOC 3) of the sender with its ring at RINGADDR, attached with indices 0; DETACH detaches its queue, which
drains while its commands are outstanding; GRANT gives an attached peer queue full rights. Each ends with DONE and the
queue's number in DETAIL. An ATTACH that finds no free queue and a GRANT of no peer queue end with REFUSED_STATE and
DETAIL 1. No other queue and no memory changes. (R325, R330, R334, Table 12-21.) -/
def Obligations.PeerQueues : Prop :=
  ∀ (s : State) (c : CmdNo) (x : Cmd) (q : Idx64), s.running c 0x0606 = some x →
    let free := fun (k : Nat) => (s.queue k).enable = false ∧ (s.queue k).drain = false
    let only := fun (t : State) (y : Queue) => t.queue q = y ∧ (∀ j, j ≠ q.val → t.queue j = s.queue j) ∧ keepsBut [.clerk] s t
    let ended := fun (t : State) (status : Byte) (detail : U16) => t.cmd c = some { x with phase := .ended, status := status, detail := detail }
    (∀ f, x.p 0 1 = 0 → s.peerOf x = some f → free q → (x.p 1 1 = q ∨ (x.p 1 1 = 0xFF ∧ ∀ k, k < q.val → ¬free k)) →
      ∃ t, exec (.peerAttach c) s = .next t ∧ ended t 0x00 (BitVec.ofNat 16 q) ∧
        only t { s.queue q with qbase := BitVec.ofNat 64 (x.addr 8), rbase := 0, loc := 3, cohwake := false, csize := BitVec.ofNat 4 (x.p 2 1), attfid := f, tags := [], enable := true, drain := false, ringerr := false, noroom := false, qpi := 0, qci := 0, rpi := 0, rci := 0, granted := false, wake := none }) ∧
    (x.p 0 1 = 0 → (x.p 1 1 ≠ 0xFF → ¬free (x.p 1 1)) → (x.p 1 1 = 0xFF → ∀ k, k < 64 → ¬free k) →
      ∃ t, exec (.peerAttach c) s = .next t ∧ ended t 0x13 1 ∧ (∀ j, t.queue j = s.queue j) ∧ keepsBut [.clerk] s t) ∧
    (x.p 0 1 = 1 → x.p 1 1 = q → (s.queue q).enable = true → ∃ t, exec (.peerDetach c) s = .next t ∧ ended t 0x00 (BitVec.ofNat 16 q) ∧
      only t { s.queue q with enable := false, drain := decide (s.outstanding q ≠ 0), ringerr := false, granted := false, wake := none }) ∧
    (x.p 0 1 = 5 → x.p 1 1 = q → (s.queue q).enable = true → (s.queue q).loc = 3 → ∃ t, exec (.grant c) s = .next t ∧
      ended t 0x00 (BitVec.ofNat 16 q) ∧ only t { s.queue q with granted := true }) ∧
    (x.p 0 1 = 5 → x.p 1 1 = q → (s.queue q).enable = false ∨ (s.queue q).loc ≠ 3 → ∃ t, exec (.grant c) s = .next t ∧
      ended t 0x13 1 ∧ only t (s.queue q))

/-- A dispatched UNIT_FENCE of a bay, Miller, port or engine makes it FENCED in both views and ends. UNIT_RETURN of a
FENCED unit whose last verdict was TRANSIENT and that the field fence list does not name makes it ACTIVE in both
views; of any other it ends with REFUSED_STATE and changes no unit. FARRIER_RUN, stopped by no access, of such a unit
makes an ACTIVE one SUSPECT in both views, queues its test and goes on working until the verdict. FARRIER_RUN of unit
code 0x6000 makes every unit due for shoeing and ends. None changes memory. (R422, R424, R425, R430, Table 12-24.) -/
def Obligations.UnitCommands : Prop :=
  ∀ (s : State) (c : CmdNo) (x : Cmd),
    let u := x.p 0 2
    let memoryKept := fun (t : State) => (∀ a, t.byte a = s.byte a) ∧ t.poison = s.poison ∧ (∀ a, tget 0 t.hostMem a = tget 0 s.hostMem a)
    (s.running c 0x0903 = some x → x.p 2 1 = 0 → hasState u = true → ∃ t z, exec (.unitFence c) s = .next t ∧ (t.unit u).clerk = .fenced ∧
      (t.unit u).mgmt = .fenced ∧ (∀ j, j ≠ u → t.unit j = s.unit j) ∧ t.cmd c = some z ∧ z.phase = .ended ∧ memoryKept t) ∧
    (s.running c 0x0903 = some x → x.p 2 1 = 1 → hasState u = true → (s.unit u).clerk = .fenced → (s.unit u).last = 1 →
      (∀ e ∈ s.flash.fenceList, e.1.toNat ≠ u) → ∃ t, exec (.unitReturn c) s = .next t ∧ (t.unit u).clerk = .active ∧ (t.unit u).mgmt = .active ∧
        (∀ j, j ≠ u → t.unit j = s.unit j) ∧ t.cmd c = some { x with phase := .ended, status := x.normalStatus } ∧ memoryKept t) ∧
    (s.running c 0x0903 = some x → x.p 2 1 = 1 → (s.unit u).clerk ≠ .fenced ∨ (s.unit u).last ≠ 1 ∨ (∃ e ∈ s.flash.fenceList, e.1.toNat = u) →
      ∃ t, exec (.unitReturn c) s = .next t ∧ t.cmd c = some { x with phase := .ended, status := 0x13, detail := 0 } ∧ keepsBut [.clerk] s t) ∧
    (s.begins c 0x0901 = some x → hasState u = true → ∃ t, exec (.farrierRun c) s = .next t ∧ (t.unit u).run = some c ∧
      ((t.unit u).queuedTest = true ∨ (t.unit u).testing.isSome = true) ∧ (∀ j, j ≠ u → t.unit j = s.unit j) ∧
      ((s.unit u).clerk = .active → (t.unit u).clerk = .suspect ∧ (t.unit u).mgmt = .suspect) ∧
      ((s.unit u).clerk ≠ .active → (t.unit u).clerk = (s.unit u).clerk ∧ (t.unit u).mgmt = (s.unit u).mgmt) ∧
      t.cmd c = some { x with phase := .working } ∧ keepsBut [.units, .clerk, .mgmt] s t) ∧
    (s.begins c 0x0901 = some x → u = 0x6000 → ∃ t, exec (.farrierRunMarkDue c) s = .next t ∧
      (∀ v ∈ stateUnits, (t.unit v).due = true ∧ (t.unit v).clerk = (s.unit v).clerk) ∧ t.cmd c = some { x with phase := .ended, status := x.normalStatus } ∧
      keepsBut [.units, .clerk] s t)

/-- A dispatched ATTEST key setup from a host queue with full rights, with a host key on the curve, streams that exist,
and a running generator, stopped by no access, ends and leaves 80 bytes of waiting keys in each stream asked for and
in no other. FW_STAGE of the slot in use ends with REFUSED_STATE; else an image that fails its check ends it with
AUTH_FAIL and leaves the flash as it is, and one that passes has the slot erased, not VALID and not PENDING; the
command then programs the image, and ends DONE with the slot VALID where the slot verifies when read back, else
AUTH_FAIL. FW_ACTIVATE of a VALID slot that no FW_STAGE in progress names and whose SVN is not below the counter makes
it PENDING with TRIES 0, or clears PENDING for the committed slot, and ends; with NOW it also asks for a module reset,
and is refused while a round runs or a micro-batch is live. The boot pointer's sequence number has room for the writes
(log 9). (R455, R457, R458, R438, Table 12-23.) -/
def Obligations.FirmwareAndKeys : Prop :=
  let none_ := fun (s : State) => (∀ r ∈ s.ck.rounds, ∀ rd, r.2 = some rd → rd.run = none) ∧ (∀ k ∈ s.stallsLoaded, k.2.live = [])
  ∀ (s : State) (c : CmdNo) (x : Cmd),
    (s.begins c 0x0A01 = some x → x.p 0 1 = 1 → s.hostFull x = true → s.boot.rngStopped = false →
      let blk := s.readBytes (x.addr 8) 130
      let want := fun (k : Nat) => (fieldAt blk 129 1).testBit k
      blk.getD 32 0 = 4 → onCurve (natBE ((blk.drop 33).take 48)) (natBE ((blk.drop 81).take 48)) = true → fieldAt blk 129 1 ≠ 0 →
      (∀ k, want k = true → k < 2 ∧ s.streamExists k = true) → ∃ t z, exec (.ideKeySetup c) s = .next t ∧ t.cmd c = some z ∧ z.phase = .ended ∧ z.status = x.normalStatus ∧
        (want 0 = true → t.hp.ide0.inactive.length = 80 ∧ t.hp.ide0 = { s.hp.ide0 with inactive := t.hp.ide0.inactive }) ∧ (want 0 = false → t.hp.ide0 = s.hp.ide0) ∧
        (want 1 = true → t.hp.ide1.inactive.length = 80 ∧ t.hp.ide1 = { s.hp.ide1 with inactive := t.hp.ide1.inactive }) ∧ (want 1 = false → t.hp.ide1 = s.hp.ide1) ∧
        t.hp = { s.hp with ide0 := t.hp.ide0, ide1 := t.hp.ide1 } ∧ keepsBut [.port, .memory, .poison, .clerk, .free] s t) ∧
    (s.begins c 0x0A03 = some x → x.p 12 1 = s.boot.slot → ∃ t, exec (.fwStage c) s = .next t ∧
      t.cmd c = some { x with phase := .ended, status := 0x13, detail := 12 } ∧ keepsBut [.clerk] s t) ∧
    (s.begins c 0x0A03 = some x → x.p 12 1 ≠ s.boot.slot → x.p 12 1 < 2 → s.flash.ptr.seq.toNat + 1 < 2 ^ 32 → ∃ t, exec (.fwStage c) s = .next t ∧
      (let img := s.readBytes (x.addr 0) (x.p 8 4)
       let rd : Reader := fun off n => slice img off n
       let good := imgFails rd (x.p 8 4) = none ∧ imgKind rd = 1 ∧ s.flash.counter.toNat ≤ (imgSvn rd).toNat
       (good → t.cmd c = some { x with phase := .working } ∧ t.flash.ptr.valid (x.p 12 1) = false ∧ t.flash.ptr.valid (1 - x.p 12 1) = s.flash.ptr.valid (1 - x.p 12 1) ∧
         (∀ k, t.flash.ptr.pending = some k → k.val ≠ x.p 12 1 ∧ s.flash.ptr.pending = some k) ∧
         (∀ a, t.flashByte a = if slotBase (x.p 12 1) ≤ a ∧ a < slotBase (x.p 12 1) + 0x3000000 then Config.erasedByte a else s.flashByte a) ∧ keepsBut [.flash, .clerk] s t) ∧
       (¬good → (∃ z, t.cmd c = some z ∧ z.phase = .ended ∧ z.status = 0x60) ∧ t.flash = s.flash)) ∧ keepsBut [.flash, .clerk, .mgmt, .port, .out, .free] s t) ∧
    (s.cmd c = some x → x.op = 0x0A03 → x.phase = .working → s.brd.trip = false → x.p 12 1 < 2 → s.flash.ptr.seq.toNat + 1 < 2 ^ 32 → ∃ t z, exec (.fwStage c) s = .next t ∧ t.cmd c = some z ∧ z.phase = .ended ∧
      (let img := s.readBytes (x.addr 0) (x.p 8 4)
       (∀ a, t.flashByte a = if slotBase (x.p 12 1) ≤ a ∧ a < slotBase (x.p 12 1) + img.length then img.getD (a - slotBase (x.p 12 1)) 0 else s.flashByte a) ∧
       (if (imgFails (t.slotReader (x.p 12 1)) (slotSize (x.p 12 1))).isSome then z.status = 0x60 ∧ t.flash.ptr = s.flash.ptr
        else z.status = x.normalStatus ∧ t.flash.ptr.valid (x.p 12 1) = true)) ∧ keepsBut [.flash, .clerk] s t) ∧
    (∀ slot : Fin 2, s.running c 0x0A04 = some x → x.p 0 1 = slot → s.flash.ptr.valid slot = true → (∀ y ∈ s.ck.cmds, y.no ≠ c → y.op = 0x0A03 → y.p 12 1 = slot → y.phase = .ended) → s.flash.counter.toNat ≤ (imgSvn (s.slotReader slot)).toNat → s.flash.ptr.seq.toNat + 2 < 2 ^ 32 →
      let chosen := fun (t : State) => t.flash.ptr.pending = (if s.flash.committed = slot then none else some slot) ∧
        (s.flash.committed ≠ slot → t.flash.ptr.tries = 0) ∧ t.flash.committed = s.flash.committed ∧ t.flash.bytes = s.flash.bytes
      (x.p 1 1 % 2 = 0 → ∃ t, exec (.fwActivate c) s = .next t ∧ t.cmd c = some { x with phase := .ended, status := x.normalStatus } ∧ chosen t ∧
        keepsBut [.flash, .clerk] s t) ∧
      (x.p 1 1 % 2 = 1 → none_ s → ∃ t, exec (.fwActivateNow c) s = .next t ∧ t.cmd c = some { x with phase := .ended, status := x.normalStatus } ∧ chosen t ∧
        t.boot = { s.boot with nowResetAt := some s.clk.time.toNat } ∧ keepsBut [.flash, .boot, .clerk] s t) ∧
      (x.p 1 1 % 2 = 1 → ¬none_ s → ∃ t, exec (.fwActivateNow c) s = .next t ∧ t.cmd c = some { x with phase := .ended, status := 0x13, detail := 0xFFFF } ∧
        keepsBut [.clerk] s t))

/-- A dispatched STALL_LOAD makes its stall from its parameters with no live micro-batch, gives each version record it is
the first to name version 0 on side 0, and ends; STALL_SWITCH moves its ACTIVE bays to the stall and ends unless
another stall still runs on one; EVICT with PARK clears VALID of the other side of each version record and notes the
park area; EVICT with DROP, once nothing issued earlier for the stall runs, removes it, leaving its bays without a
stall and holding no layer record that no loaded stall names; WINDOW_SET, once no running command relies on its slot,
replaces that slot alone; QUIESCE, when nothing issued before it runs on its stalls, ends the micro-batches that were
live when it was issued. No other stall changes. (R193, R207, R210, R337, R339, R340, R341, R357.) -/
def Obligations.StallsLoadAndSwitch : Prop :=
  let others := fun (s t : State) (k : Nat) => ∀ j, j ≠ k → t.stall j = s.stall j
  let ended := fun (t : State) (x : Cmd) => ∃ z, t.cmd x.no = some z ∧ z.phase = .ended ∧ z.status = x.normalStatus
  ∀ (s : State) (c : CmdNo) (x : Cmd),
    let k := x.stallNo
    (s.begins c 0x0101 = some x → x.p 16 8 ≠ 0 ∨ s.boot.rngStopped = false → ∃ t st, exec (.stallLoad c) s = .next t ∧ t.stall k = some st ∧
      st.layers = s.layerTable (x.addr 0) (x.p 32 4) ∧ st.bays = BitVec.ofNat 64 (x.p 8 8) ∧ st.budget = BitVec.ofNat 16 (x.p 38 2) ∧
      st.numaddr = BitVec.ofNat 48 (x.addr 24) ∧ st.numcal = BitVec.ofNat 16 (x.p 36 2) ∧ st.windows = x.loadWindows ∧ st.live = [] ∧ st.parked = none ∧
      (x.p 16 8 ≠ 0 → st.seed = BitVec.ofNat 64 (x.p 16 8)) ∧ st.num.now.hdr.step = 0 ∧ st.num.now.hdr.lsexp = 16 ∧
      st.num.now.hdr.mode = (if BitVec.ofNat 16 (x.p 40 2) = 0 then 0 else 1) ∧
      (∀ e ∈ st.layers, e.vaddr ≠ 0 → s.namedElsewhere k e.vaddr.toNat = false → t.vers e.vaddr.toNat = { valid0 := true }) ∧
      others s t k ∧ ended t x ∧ keepsBut [.memory, .poison, .clerk, .bays, .mgmt, .port, .out, .free] s t) ∧
    (∀ st, s.running c 0x0102 = some x → s.stall k = some st →
      let mask := if x.p 0 8 = 0 then st.bays.toNat else x.p 0 8
      ((∀ b : Idx64, mask.testBit b = true → s.bayActive b = true → s.bayBusy b k = false) → ∃ t, exec (.stallSwitch c) s = .next t ∧
        (∀ b : Idx64, t.bay b = if mask.testBit b ∧ s.bayActive b = true then { s.bay b with stall := some k } else s.bay b) ∧
        t.stall k = some { st with parked := none } ∧ others s t k ∧ ended t x ∧
        keepsBut (if st.parked = none then [.bays, .clerk] else [.bays, .clerk, .memory, .poison]) s t) ∧
      ((∃ b : Idx64, mask.testBit b = true ∧ s.bayActive b = true ∧ s.bayBusy b k = true) → exec (.stallSwitch c) s = .next s)) ∧
    (∀ st, s.begins c 0x0103 = some x → s.stall k = some st →
      (x.p 0 1 = 1 → st.live = [] → (∀ p ∈ s.ck.pubs, p.converting = true → ∀ e ∈ st.layers, e.vaddr.toNat ≠ p.vaddr) → ∃ t, exec (.stallEvictPark c) s = .next t ∧ t.stall k = some { st with parked := some (x.addr 8) } ∧
        (∀ e ∈ st.layers, e.vaddr ≠ 0 → (t.vers e.vaddr.toNat).cur = (s.vers e.vaddr.toNat).cur ∧
          (if (s.vers e.vaddr.toNat).cur then (t.vers e.vaddr.toNat).valid0 = false else (t.vers e.vaddr.toNat).valid1 = false)) ∧ others s t k ∧ ended t x ∧
        keepsBut [.clerk, .memory, .poison, .mgmt, .port, .out, .free] s t) ∧
      (x.p 0 1 = 0 → (s.quiesceIssued k c).stallBusy k c = false → ∃ t, exec (.stallEvictDrop c) s = .next t ∧ t.stall k = none ∧ others s t k ∧ ended t x ∧
        (∀ b : Idx64, t.bay b = if (s.bay b).stall = some k then { s.bay b with stall := none } else s.bay b) ∧
        (∀ e ∈ st.layers, (∀ y ∈ t.stallsLoaded, ∀ e' ∈ y.2.layers, e'.lraddr.toNat ≠ e.lraddr.toNat) → t.lrec e.lraddr.toNat = none) ∧
        keepsBut [.clerk, .memory, .poison, .bays, .mgmt, .port, .out, .free] s t)) ∧
    (s.running c 0x0104 = some x → let w := if (Window.ofNat (x.p 16 16)).valid then Window.ofNat (x.p 16 16) else {}
      (s.slotUsed c k (x.p 0 1) = true → exec (.windowSet c) s = .next s) ∧
      (s.slotUsed c k (x.p 0 1) = false → k = 0xFF → ∃ t, exec (.windowSet c) s = .next t ∧ tget {} t.ck.svc (x.p 0 1) = w ∧
        (∀ j, j ≠ x.p 0 1 → tget {} t.ck.svc j = tget {} s.ck.svc j) ∧ t.ck.stalls = s.ck.stalls ∧ ended t x ∧ keepsBut [.clerk] s t) ∧
      (∀ st, s.slotUsed c k (x.p 0 1) = false → k ≠ 0xFF → s.stall k = some st → ∃ t ws, exec (.windowSet c) s = .next t ∧
        t.stall k = some { st with windows := ws } ∧ tget {} ws (x.p 0 1) = w ∧ (∀ j, j ≠ x.p 0 1 → tget {} ws j = tget {} st.windows j) ∧
        t.ck.svc = s.ck.svc ∧ others s t k ∧ ended t x ∧ keepsBut [.clerk] s t)) ∧
    (s.cmd c = some x → x.op = 0x0B05 → x.runs = true → x.stage = 0 → (∀ j, j < 64 → (x.p 0 8).testBit j = true → (s.quiesceIssued j c).stallBusy j c = false) → ∃ t, exec (.quiesce c) s = .next t ∧
      (∀ j st, j < 64 → (x.p 0 8).testBit j = true → s.stall j = some st → ∃ st', t.stall j = some st' ∧ st'.layers = st.layers ∧
        st'.live = st.live.filter (fun m => !x.left.contains (256 * j + m.mb.toNat))) ∧
      (∀ j, j < 64 → (∀ m ∈ x.left, m / 256 ≠ j) → t.stall j = s.stall j) ∧ ended t x ∧ keepsBut [.clerk, .memory, .poison, .mgmt, .port, .out, .free] s t)

/-- Of a command that has a bay and whose accesses nothing stops: a dispatched MOVE between local addresses stores LEN
bytes of SRC at DST, from SRC to host memory there alone, and ends; a MOVE from another module's memory asks for it
and goes on working, or ends with UNREACHABLE where no flit can leave. GATHER of local memory stores element idx[k] of
SRC at DST + k ESIZE, and SCATTER stores element k at DST + idx[k] ESIZE (of equal indices the last), and each ends
when it has no other access outstanding. A source byte that a piece running at the same time writes is a free value
(log 29). No byte outside the destination changes. (R206, R209, R226, Table 12-16.) -/
def Obligations.DataMoves : Prop :=
  let ended := fun (t : State) (x : Cmd) => ∃ z, t.cmd x.no = some z ∧ z.phase = .ended ∧ z.status = x.normalStatus
  ∀ (s : State) (c : CmdNo) (x : Cmd),
    (s.begins c 0x0201 = some x → s.noBay x = false →
      let a := gaAddr (x.p 0 8)
      let d := gaAddr (x.p 8 8)
      let len := x.p 16 8
      (s.localGa (x.p 0 8) = true → s.localGa (x.p 8 8) = true → x.p 24 1 ≠ 1 → ∃ t, exec (.move c) s = .next t ∧
        (∀ i, i < len → a = d ∨ a + i < d ∨ d + len ≤ a + i → t.byte (d + i) = s.byte (a + i)) ∧
        (∀ b, b < d ∨ d + len ≤ b → t.byte b = s.byte b) ∧ ended t x ∧ keepsBut [.memory, .poison, .clerk, .free] s t) ∧
      (s.localGa (x.p 0 8) = true → x.p 24 1 = 1 → ∃ t, exec (.move c) s = .next t ∧
        (∀ i, i < len → tget 0 t.hostMem (x.p 8 8 + i) = s.byte (a + i)) ∧
        (∀ b, b < x.p 8 8 ∨ x.p 8 8 + len ≤ b → tget 0 t.hostMem b = tget 0 s.hostMem b) ∧ ended t x ∧ keepsBut [.hostMem, .clerk] s t) ∧
      (s.localGa (x.p 0 8) = false → 0 < len → a + len ≤ 2 ^ 48 → s.ab.fidValid = true → (s.egressOf (BitVec.ofNat 16 (x.p 0 8 / 2 ^ 48))).isSome = true →
        ∃ t, exec (.move c) s = .next t ∧ t.cmd c = some { x with phase := .working } ∧
          (∃ y ∈ t.ab.xfers, y.cmd = c ∧ y.read = true ∧ y.peer = BitVec.ofNat 16 (x.p 0 8 / 2 ^ 48)) ∧ keepsBut [.abond, .out, .clerk] s t) ∧
      (s.localGa (x.p 0 8) = false → 0 < len → s.ab.fidValid = false → ∃ t, exec (.move c) s = .next t ∧
        t.cmd c = some { x with phase := .ended, status := 0x41, detail := 0xFFFF } ∧ keepsBut [.abond, .clerk] s t)) ∧
    (s.running c 0x0202 = some x → s.noBay x = false →
      let n := x.p 24 4
      let e := x.p 28 4
      let from_ := fun (k : Nat) => gaAddr (x.p 0 8) + s.readNat (x.addr 16 + 4 * k) 4 * e
      s.localGa (x.p 0 8) = true → (∀ y ∈ s.ab.xfers, y.cmd ≠ c) → (∀ k, k < n → s.badElem x true false (from_ k) e = none) →
      s.badElem x true false (x.addr 16) (4 * n) = none → s.badElem x false true (x.addr 8) (n * e) = none →
      ∃ t, exec (.gather c) s = .next t ∧
        (∀ k j, k < n → j < e → from_ k + j < x.addr 8 ∨ x.addr 8 + n * e ≤ from_ k + j → t.byte (x.addr 8 + k * e + j) = s.byte (from_ k + j)) ∧
        (∀ b, b < x.addr 8 ∨ x.addr 8 + n * e ≤ b → t.byte b = s.byte b) ∧ ended t x ∧ keepsBut [.memory, .poison, .clerk, .free] s t) ∧
    (s.running c 0x0203 = some x → s.noBay x = false →
      let n := x.p 24 4
      let e := x.p 28 4
      let to_ := fun (k : Nat) => gaAddr (x.p 8 8) + s.readNat (x.addr 16 + 4 * k) 4 * e
      s.localGa (x.p 8 8) = true → (∀ y ∈ s.ab.xfers, y.cmd ≠ c) → (∀ k, k < n → s.badElem x false true (to_ k) e = none ∧ s.badElem x true false (x.addr 0 + k * e) e = none) →
      s.badElem x true false (x.addr 16) (4 * n) = none →
      ∃ t, exec (.scatter c) s = .next t ∧
        (∀ k j, k < n → j < e → (∀ i, k < i → i < n → to_ i ≠ to_ k) → (∀ i, i < n → x.addr 0 + k * e + j < to_ i ∨ to_ i + e ≤ x.addr 0 + k * e + j) →
          t.byte (to_ k + j) = s.byte (x.addr 0 + k * e + j)) ∧
        (∀ b, (∀ k, k < n → b < to_ k ∨ to_ k + e ≤ b) → t.byte b = s.byte b) ∧ ended t x ∧ keepsBut [.memory, .poison, .clerk, .free] s t)

/-- When no access stops them, their stall has an ACTIVE bay and every bay that holds a kept tensor they name is ACTIVE,
dispatched MATMUL_FWD, MATMUL_BWD, ATTN_FWD, ATTN_BWD, VECTOR_OP, MATMUL_REF, SCALE_SCAN and CONVERT end with the
status that their events give: DONE, INEXACT or PROMOTED (or what was set before); a SAVE asks for a place in the
spill window, without which one that the micro-batch does not keep ends with REFUSED_STATE (log 24). Every byte they
change lies in a span the command notes as written, and each such span starts at a part of a destination tensor, at a
statistics, error or range record it names, at a part of the spill it makes for SAVE, or is a 4-byte scale record of
an operand as it is stored (its INEXACT mark). Nothing changes but memory, poison of lines written whole, the Clerk's
records of the command and the stall, the bays' counters, staging and free values. (R65, R78, R101, R110, R126, R142,
R149, R321, R355, Table 12-17.) -/
def Obligations.ComputeCommandsComplete : Prop :=
  let starts := fun (d : Desc) => [d.daddr, d.saddr, d.baddr, d.crossAt, d.oaddr]
  let ran := fun (s t : State) (x : Cmd) (places marks : List Nat) => ∃ z new, t.cmd x.no = some z ∧ z.phase = .ended ∧ z.status = z.normalStatus ∧
    z.skipped = x.skipped ∧ z.histLost = x.histLost ∧ z.wrote = x.wrote ++ new ∧
    (∀ p ∈ new, p.write = true ∧ (p.lo ∈ places ∨ (p.len = 4 ∧ ∃ m ∈ marks, ∃ b, p.lo = m + 4 * b))) ∧
    (∀ a, (∀ p ∈ new, a < p.lo ∨ p.lo + p.len ≤ a) → t.byte a = s.byte a) ∧ keepsBut [.memory, .poison, .clerk, .bays, .staging, .free] s t
  ∀ (s : State) (c : CmdNo) (x : Cmd) (st : Stall), s.stall x.stallNo = some st →
    let at_ := fun (d : Desc) => (s.stored x.stallNo d).saddr
    let room := fun (d : Desc) => st.batch x.hdr.mb = none ∨ (st.spillPlace (partsAt 0 2 d.lines d.len false true false).endAt).isSome = true
    let spill := fun (d : Desc) => match st.spillPlace (partsAt 0 2 d.lines d.len false true false).endAt with
      | some a => starts (partsAt a 2 d.lines d.len false true false)
      | none => []
    (s.reading c 0x0301 = some x →
      let w := if (x.p 26 2).testBit 3 then s.forwardWeight st x (x.p 24 2) else x.desc 8
      (((x.p 26 2).testBit 2 = true → room (x.desc 0)) → ∃ t, exec (.matmulFwd c) s = .next t ∧
        ran s t x (starts (x.desc 16) ++ if (x.p 26 2).testBit 2 then spill (x.desc 0) else []) [at_ (x.desc 0), at_ w]) ∧
      (∀ m, (x.p 26 2).testBit 2 = true → st.batch x.hdr.mb = some m → m.keep = none → ¬ room (x.desc 0) → ∃ t z, exec (.matmulFwd c) s = .next t ∧
        t.cmd c = some z ∧ z.phase = .ended ∧ z.status = 0x13 ∧ z.detail = 26)) ∧
    (s.reading c 0x0302 = some x →
      let w := if (x.p 30 2).testBit 1 then s.backwardWeight st x else x.desc 8
      ∃ t, exec (.matmulBwd c) s = .next t ∧ ran s t x (starts (x.desc 16)) [at_ (x.desc 0), at_ w]) ∧
    (s.reading c 0x0303 = some x →
      let op := fun (off : Nat) => (s.operand x.stallNo (x.desc off)).d
      ((x.p 46 2).testBit 1 = true → room (op 0)) → ∃ t, exec (.attnFwd c) s = .next t ∧ ran s t x (x.addr 32 :: starts (x.desc 24) ++ if (x.p 46 2).testBit 1 then spill (op 0) else [])
        [at_ (x.desc 0), at_ (x.desc 8), at_ (x.desc 16)]) ∧
    (s.reading c 0x0304 = some x → ∃ t, exec (.attnBwd c) s = .next t ∧ 
      ran s t x (starts (x.desc 40) ++ starts (x.desc 48) ++ starts (x.desc 56)) [at_ (x.desc 0), at_ (x.desc 8), at_ (x.desc 16), at_ (x.desc 32)]) ∧
    (s.reading c 0x0305 = some x → ∃ t, exec (.vectorOp c) s = .next t ∧ ran s t x (starts (x.desc 24)) []) ∧
    (s.reading c 0x0306 = some x → ∃ t, exec (.matmulRef c) s = .next t ∧
      ran s t x (x.addr 40 :: if x.addr 48 = 0 then [] else starts (x.desc 48)) [at_ (x.desc 0), at_ (x.desc 8)]) ∧
    (s.reading c 0x0401 = some x → ∃ t, exec (.scaleScan c) s = .next t ∧ ran s t x (x.addr 16 :: starts (x.desc 8)) []) ∧
    (s.reading c 0x0402 = some x → ∃ t, exec (.convert c) s = .next t ∧ ran s t x (starts (x.desc 8)) [])

/-- A dispatched MATMUL_FWD with the INT32-accumulate option and an INT32 output stores at line i, position j of the
output the sum over the positions of the products of the two operands' whole numbers, modulo 2^32, little-endian, line
by line; no other byte of memory changes, and without SAVE it ends. SAVE is refused with this option (Table 12-17).
(R43, R88.) -/
def Obligations.Int32AccumulateSums : Prop :=
  ∀ (s : State) (c : CmdNo) (x : Cmd) (st : Stall), s.reading c 0x0301 = some x → s.stall x.stallNo = some st →
    (x.p 26 2).testBit 0 = true → (x.p 26 2).testBit 2 = false → (x.p 26 2).testBit 3 = false → (x.desc 16).ftag = 9 →
    let xs := s.intLines (x.desc 0) (x.p 28 4)
    let ws := s.intLines (x.desc 8) (x.p 32 4)
    let y := (x.desc 16).daddr
    ∃ t z, exec (.matmulFwd c) s = .next t ∧ t.cmd c = some z ∧ z.phase = .ended ∧ z.status = x.normalStatus ∧
      (∀ i j a b, xs[i]? = some a → ws[j]? = some b →
        ((t.readNat (y + 4 * (i * ws.length + j)) 4 : Nat) : Int) = ((List.zipWith (· * ·) a b).sum) % 2 ^ 32) ∧
      (∀ m, m < y ∨ y + 4 * (xs.length * ws.length) ≤ m → t.byte m = s.byte m) ∧ keepsBut [.memory, .poison, .clerk, .bays, .free] s t

/-- A dispatched step close waits while an earlier GRAD command of its stall is in the table; else without a group it goes
to its processing, and a leaf of a group sends its ARRIVE with the stall's step flag and NORMAL bit. The processing
adds 1 to STEP, records the decision (skip when a flag is set in NORMAL), counts SKIPS, clears the flag and the
offending blocks, serves the waiting requests, and in NORMAL with no loss-scale request moves LSEXP and CLEAN by rule
R154. The close ends, STEP_SKIPPED for a skip. (R149, R150, R151, R154, R156, R277, Table 05-7.) -/
def Obligations.StepsClose : Prop :=
  (∀ (s : State) (c : CmdNo) (x : Cmd) (st : Stall), s.modeCmd c 1 = some (x, st) →
    let open_ := ∃ y ∈ s.ck.cmds, y.no < c ∧ y.stallNo = x.stallNo ∧ y.isGrad = true
    (open_ → exec (.stepClose c) s = .next s) ∧
    (¬open_ → x.addr 16 = 0 → ∃ t, exec (.stepClose c) s = .next t ∧ t.cmd c = some { x with phase := .working, stage := 1 } ∧ keepsBut [.clerk] s t) ∧
    (∀ (g n : U32) (r e : Nat), ¬open_ → x.addr 16 ≠ 0 → x.grp = some (g, n) → s.ab.fidValid = true →
      indexOf s.ab.fid (s.groupDesc (x.addr 16)).members = some r → 0 < r → (s.groupDesc (x.addr 16)).members.length ≤ 16 * r + 1 →
      s.egressOf ((s.groupDesc (x.addr 16)).members.getD ((r - 1) / 16) 0) = some e →
      ∃ t h, exec (.stepClose c) s = .next t ∧ .coll ((s.groupDesc (x.addr 16)).members.getD ((r - 1) / 16) 0) h [] ∈ t.out ∧
        h.op = 4 ∧ h.group = g ∧ h.inst = n ∧ h.rank = BitVec.ofNat 16 r ∧ h.nf = st.num.stepFlag ∧ h.nrm = decide (st.num.now.hdr.mode = 0))) ∧
  (∀ (s : State) (c : CmdNo) (x : Cmd) (st : Stall), s.cmd c = some x → x.op = 0x0403 → x.phase = .working → x.p 0 1 = 1 → x.stage = 1 →
    s.stall x.stallNo = some st → (∀ q, st.num.reqMode = some q → q.1 ≠ c) → (∀ q, st.num.reqStartlen = some q → q.1 ≠ c) → (∀ q, st.num.reqLoss = some q → q.1 ≠ c) →
    let old := st.num.now.hdr
    let skip := if x.addr 16 = 0 then st.num.stepFlag && decide (old.mode = 0) else st.num.groupNf && st.num.groupNrm
    ∃ t z st', exec (.stepCloseProcessing c) s = .next t ∧ t.stall x.stallNo = some st' ∧ t.cmd c = some z ∧ z.phase = .ended ∧ z.skipped = skip ∧
      (skip = true → z.status = 0x30) ∧ (skip = false → z.status ≠ 0x30) ∧
      (let new := st'.num.now.hdr
       new.step = old.step + 1 ∧ new.decision = skip ∧ new.skips.toNat = min (old.skips.toNat + (if skip then 1 else 0)) 0xFFFFFFFF ∧
       st'.num.stepFlag = false ∧ st'.num.offending = [] ∧ st'.num.reqMode = none ∧ st'.num.reqStartlen = none ∧ st'.num.reqLoss = none ∧
       (st.num.reqLoss = none → old.mode ≠ 0 → new.lsexp = old.lsexp ∧ new.clean = old.clean) ∧
       (st.num.reqLoss = none → old.mode = 0 → skip = true → new.clean = 0 ∧ new.lsexp = (if old.lsexp.toNat ≤ old.lsmin.toNat then old.lsexp else old.lsexp - 1)) ∧
       (st.num.reqLoss = none → old.mode = 0 → skip = false → old.clean.toNat + 1 < old.cleanlim.toNat → new.clean = old.clean + 1 ∧ new.lsexp = old.lsexp) ∧
       (st.num.reqLoss = none → old.mode = 0 → skip = false → old.cleanlim.toNat ≤ old.clean.toNat + 1 →
         new.clean = 0 ∧ new.lsexp = (if old.lsmax.toNat ≤ old.lsexp.toNat then old.lsexp else old.lsexp + 1)) ∧
       (∀ m, st.num.reqMode = some m → new.mode = m.2)) ∧
      (∀ j, j ≠ x.stallNo → t.stall j = s.stall j) ∧ keepsBut [.memory, .poison, .clerk, .bays, .mgmt, .port, .out, .free] s t)

/-- A dispatched SET_MODE, SET_STARTLEN or LOSS_SCALE_SET waits in the stall's numerics for the next close and goes on
working; an earlier request of its kind ends with REFUSED_STATE. SET_BOUNDS and SET_FLAGS change the entries that SLOT
selects, one entry (created if need be while the region has room), those of a layer for 0xFF, or all and the defaults
for 0xFE, leave every other entry as it was, and end. (R145, R155, R161, R162, R494, Table 12-19.) -/
def Obligations.NumericsSettings : Prop :=
  let waits := fun (s t : State) (x : Cmd) (st : Stall) (n : Numerics) (old : Option CmdNo) => t.stall x.stallNo = some { st with num := n } ∧
    t.cmd x.no = some { x with phase := .working } ∧ (∀ j, j ≠ x.stallNo → t.stall j = s.stall j) ∧
    (∀ o y, old = some o → s.cmd o = some y → y.phase ≠ .ended → t.cmd o = some { y with phase := .ended, status := 0x13, detail := 0xFFFF }) ∧
    (∀ m, m ≠ x.no → old ≠ some m → t.cmd m = s.cmd m) ∧ keepsBut [.clerk] s t
  let selected := fun (x : Cmd) (e : CalEnt) => x.p 4 1 = 0xFE ∨ (e.layer.toNat = x.p 2 2 ∧ (x.p 4 1 = 0xFF ∨ e.slot.toNat = x.p 4 1))
  let set := fun (s t : State) (x : Cmd) (st : Stall) (f : CalEnt → CalEnt) => ∃ st', t.stall x.stallNo = some st' ∧ st' = { st with num := st'.num } ∧
    (∀ e ∈ st.num.now.cal, (if selected x e then f e else e) ∈ st'.num.now.cal) ∧
    (∀ e' ∈ st'.num.now.cal, (∃ e ∈ st.num.now.cal, e' = if selected x e then f e else e) ∨
      (x.p 4 1 ≤ 7 ∧ st.num.entry (x.p 2 2) (x.p 4 1) = none ∧ e' = f (st.num.fresh (x.p 2 2) (x.p 4 1)))) ∧
    (x.p 4 1 ≤ 7 → st.num.now.cal.length < st.numcal.toNat ∨ st.num.entry (x.p 2 2) (x.p 4 1) ≠ none → ∃ e ∈ st'.num.now.cal, e.layer.toNat = x.p 2 2 ∧ e.slot.toNat = x.p 4 1) ∧ st'.num.now.hdr = st.num.now.hdr ∧
    t.cmd x.no = some { x with phase := .ended, status := x.normalStatus } ∧ (∀ j, j ≠ x.stallNo → t.stall j = s.stall j) ∧ keepsBut [.clerk] s t
  ∀ (s : State) (c : CmdNo) (x : Cmd) (st : Stall),
    (s.modeCmd c 2 = some (x, st) → (∀ q, st.num.reqMode = some q → q.1 ≠ c) → ∃ t, exec (.setMode c) s = .next t ∧
      waits s t x st { st.num with reqMode := some (c, BitVec.ofNat 4 (x.p 1 1)) } (st.num.reqMode.map (·.1))) ∧
    (s.modeCmd c 4 = some (x, st) → (∀ q, st.num.reqStartlen = some q → q.1 ≠ c) → ∃ t, exec (.setStartlen c) s = .next t ∧
      waits s t x st { st.num with reqStartlen := some (c, BitVec.ofNat 16 (x.p 12 2)) } (st.num.reqStartlen.map (·.1))) ∧
    (s.running c 0x0404 = some x → s.stall x.stallNo = some st → (∀ q, st.num.reqLoss = some q → q.1 ≠ c) → ∃ t, exec (.lossScaleSet c) s = .next t ∧
      waits s t x st { st.num with reqLoss := some (c, x.params) } (st.num.reqLoss.map (·.1))) ∧
    (s.modeCmd c 3 = some (x, st) →
      let lo := BitVec.ofNat 16 (x.p 6 2)
      let hi := BitVec.ofNat 16 (x.p 8 2)
      let tg := BitVec.ofNat 16 (x.p 10 2)
      ∃ t, exec (.setBounds c) s = .next t ∧ set s t x st (fun e => { e with cmin := lo, cmax := hi, target := tg }) ∧
        (∀ st', t.stall x.stallNo = some st' → if x.p 4 1 = 0xFE then st'.num.defCmin = lo ∧ st'.num.defCmax = hi ∧ st'.num.defTarget = tg
          else st'.num.defCmin = st.num.defCmin ∧ st'.num.defCmax = st.num.defCmax ∧ st'.num.defTarget = st.num.defTarget)) ∧
    (s.modeCmd c 5 = some (x, st) →
      let o := (x.p 14 1).testBit 0
      let f := (x.p 14 1).testBit 1
      ∃ t, exec (.setFlags c) s = .next t ∧ set s t x st (fun e => { e with outl := o, frozen := f }) ∧
        (∀ st', t.stall x.stallNo = some st' → if x.p 4 1 = 0xFE then st'.num.defOutl = o ∧ st'.num.defFrozen = f
          else st'.num.defOutl = st.num.defOutl ∧ st'.num.defFrozen = st.num.defFrozen))

/-- A dispatched UPDATE_LAYER of a step not yet closed waits; below NEXTSTEP, DIRTY or outside its limits it ends with
REFUSED_STATE; of a frozen layer or a skipped step it sets NEXTSTEP alone; where a stored value is not finite it sets
DIRTY; else it stores what the update rule gives, sets STAGED, NEXTSTEP and LASTLR, adds 1 to UPDATES, and ends, or
with PUBLISH goes to the publication. PRECOND_REFRESH of finite factors writes roots and status words alone. MASK_SET
copies the mask named and sets KADDR, MASKED and FREEZE. (R171, R172, R176, R177, R181, R182, R183, R189, R190, Table
12-20.) -/
def Obligations.MillerCommands : Prop :=
  let ended := fun (t : State) (x : Cmd) (status : Byte) => ∃ z, t.cmd x.no = some z ∧ z.phase = .ended ∧ z.status = status
  let wrote := fun (s t : State) (a : Nat) => keepsBut (if s.partPoisoned a 52 then [.memory, .poison, .clerk, .mgmt, .port, .out, .free] else [.memory, .poison, .clerk]) s t
  let recordOnly := fun (s t : State) (a : Nat) => (∀ b, b < a ∨ a + 52 ≤ b → t.byte b = s.byte b) ∧ wrote s t a
  ∀ (s : State) (c : CmdNo) (x : Cmd),
    let a := x.addr 0
    let r := s.layerRec a
    let step := x.p 8 4
    (∀ st, s.onMiller c 0x0501 = some x → s.stall x.stallNo = some st →
      (st.num.now.hdr.step.toNat ≤ step → exec (.updateLayer c) s = .next s) ∧
      (∀ skipped off, st.num.decided step r.layer = some (skipped, off) →
        (step < r.ro.nextstep.toNat → ∃ t, exec (.updateLayer c) s = .next t ∧ t.cmd c = some { x with phase := .ended, status := 0x13, detail := 8 } ∧ keepsBut [.clerk] s t) ∧
        (r.ro.nextstep.toNat ≤ step → r.ro.dirty = true ∨ r.ok a = false → ∃ t, exec (.updateLayer c) s = .next t ∧
          t.cmd c = some { x with phase := .ended, status := 0x13, detail := 0 } ∧ keepsBut [.clerk] s t) ∧
        (r.ro.nextstep.toNat ≤ step → r.ro.dirty = false → r.ok a = true → r.freeze = true ∨ skipped = true → ∃ t, exec (.updateLayer c) s = .next t ∧
          t.lrec a = some { r.ro with nextstep := BitVec.ofNat 32 (step + 1) } ∧ (r.freeze = true → ended t x x.normalStatus) ∧ (r.freeze = false → ended t x 0x30) ∧ recordOnly s t a) ∧
        (r.ro.nextstep.toNat ≤ step → r.ro.dirty = false → r.ok a = true → r.freeze = false → skipped = false →
          ∃ t, exec (.updateLayer c) s = .next t ∧ (∀ j, j ≠ a → t.lrec j = s.lrec j) ∧
            (match s.applyUpdate r st.num off (x.p 16 2) (x.p 12 4) (fp32.read (x.p 12 4)).1.rat step with
             | none => t.lrec a = some { r.ro with dirty := true } ∧ ended t x 0x13 ∧ recordOnly s t a
             | some u => u.ro.staged = true ∧ u.ro.dirty = false ∧ u.ro.nextstep = BitVec.ofNat 32 (step + 1) ∧ u.ro.lastlr = BitVec.ofNat 32 (x.p 12 4) ∧
                 u.ro.updates.toNat = min (r.ro.updates.toNat + 1) 0xFFFFFFFF ∧ u.ro.step.toNat = min (r.ro.step.toNat + 1) 0xFFFFFFFF ∧
                 ((x.p 16 2).testBit 2 = false → t.lrec a = some u.ro ∧ (∃ z, t.cmd c = some z ∧ z.phase = .ended ∧ z.status = z.normalStatus) ∧
                   (∀ b, (∀ w ∈ u.writes, b < w.1 ∨ w.1 + w.2.length ≤ b) → (b < a ∨ a + 52 ≤ b) → t.byte b = s.byte b) ∧ wrote s t a) ∧
                 ((x.p 16 2).testBit 2 = true → ∃ z, t.cmd c = some z ∧ (z.phase = .ended ∨ z.phase = .working)))))) ∧
    (s.onMiller c 0x0502 = some x →
      let at_ := fun (base0 : Nat) (b : Nat × Nat × Nat) => base0 + b.1 * blockStride
      let fine := fun (base0 n : Nat) => ∀ b ∈ blocks1024 n, (s.readMat (at_ base0 b) b.2.2 b.2.2).finite = true ∧
        ((BlkStatus.ofNat (s.readNat (at_ base0 b + statusOff) 4)).valid = false ∨ (s.readMat (at_ base0 b + rootOff) b.2.2 b.2.2).finite = true)
      (fine r.laddr r.rows → fine r.raddr r.cols → ∃ t z ro new, exec (.precondRefresh c) s = .next t ∧ t.lrec a = some ro ∧
        ro = { r.ro with rootfails := ro.rootfails, underwin := ro.underwin, saturated := ro.saturated } ∧ t.cmd c = some z ∧ z.phase = .ended ∧
        z.status = z.normalStatus ∧ z.wrote = x.wrote ++ new ∧
        (∀ p ∈ new, p.lo = a ∨ (∃ b ∈ blocks1024 r.rows, p.lo = at_ r.laddr b + rootOff ∨ p.lo = at_ r.laddr b + statusOff) ∨
          (∃ b ∈ blocks1024 r.cols, p.lo = at_ r.raddr b + rootOff ∨ p.lo = at_ r.raddr b + statusOff)) ∧
        (∀ b, (∀ p ∈ new, b < p.lo ∨ p.lo + p.len ≤ b) → t.byte b = s.byte b) ∧ wrote s t a) ∧
      (¬(fine r.laddr r.rows ∧ fine r.raddr r.cols) → ∃ t, exec (.precondRefresh c) s = .next t ∧ t.lrec a = some { r.ro with dirty := true } ∧
        ended t x 0x13 ∧ recordOnly s t a)) ∧
    (s.onMiller c 0x0503 = some x →
      let n := ceilDiv (r.rows * r.cols) 8
      let k := x.addr 16
      (x.addr 8 ≠ 0 → k + n ≤ a ∨ a + 128 ≤ k) → ∃ t, exec (.maskSet c) s = .next t ∧ ended t x x.normalStatus ∧ t.lrec a = some r.ro ∧
        (x.addr 8 ≠ 0 → ∀ i, i < n → t.byte (k + i) = s.byte (x.addr 8 + i)) ∧
        (t.layerRec a).kaddr = k ∧ (t.layerRec a).masked = (x.p 24 1).testBit 1 ∧ (t.layerRec a).freeze = (x.p 24 1).testBit 0 ∧
        (t.layerRec a).rows = r.rows ∧ (t.layerRec a).cols = r.cols ∧ (t.layerRec a).waddr = r.waddr ∧
        (∀ b, (b < a ∨ a + 128 ≤ b) → (x.addr 8 ≠ 0 → b < k ∨ k + n ≤ b) → t.byte b = s.byte b) ∧ keepsBut [.memory, .poison, .clerk] s t)

/-- A dispatched WEIGHT_PUBLISH with nothing staged is done; with no pin on the side that is not current it clears that
side's VALID and begins to convert on the ACTIVE bays of the stall that converts; else it sets PENDING and waits, or
ends with REFUSED_STATE where the wait could not end. PUBLICATION_RESUME begins the conversion once the pins are gone
and no parked stall or flip on the edge holds it, or refuses a wait that can no longer end; with no ACTIVE bay it ends
the command with UNIT_FENCED. PUBLICATION_COMMIT adds 1 to CURVER, writes it as the side's version, makes that side
VALID and current, clears PENDING and STAGED, counts, and ends the command. PUBLICATION_WAIT_TIMEOUT after 100 ms, a
pinning micro-batch not being about to end on the edge, writes one numerics record and goes on waiting. (R192, R194,
R197, R198, R200.) -/
def Obligations.WeightPublication : Prop :=
  let other := fun (v : Vers) => if v.cur then v.pins0 else v.pins1
  let cleared := fun (v : Vers) => if v.cur then { v with valid0 := false } else { v with valid1 := false }
  let convOn := fun (s : State) (a j : Nat) => (s.pubStall a).map (·.1) = some j ∧ s.convBays a ≠ 0 ∧ s.convFree a = true
  (∀ (s : State) (c : CmdNo) (x : Cmd), s.onMiller c 0x0504 = some x →
    let r := s.layerRec (x.addr 0)
    let v := s.vers r.vaddr
    (r.ro.staged = false → ∃ t z, exec (.weightPublish c) s = .next t ∧ t.cmd c = some z ∧ z.phase = .ended ∧ z.status = x.normalStatus ∧ t.lrec (x.addr 0) = some r.ro ∧
      keepsBut [.memory, .poison, .clerk, .mgmt, .port, .out, .free] s t) ∧
    (∀ st, r.ro.staged = true → s.stall x.stallNo = some st →
      (st.layerOf r = none → ∃ t, exec (.weightPublish c) s = .next t ∧ t.cmd c = some { x with phase := .ended, status := 0x13, detail := 0 } ∧ keepsBut [.clerk] s t) ∧
      (∀ l, st.layerOf r = some l →
        let p : Publication := { vaddr := r.vaddr, lraddr := x.addr 0, cmd := c, stall := x.stallNo, layer := l, since := s.now }
        (∀ j, other v = 0 → s.pubHeld r.vaddr = false → s.pubOf r.vaddr = none → convOn s r.vaddr j → ∃ t z, exec (.weightPublish c) s = .next t ∧
          t.cmd c = some z ∧ z.phase = .working ∧ t.vers r.vaddr = cleared v ∧
          t.ck.pubs = s.ck.pubs ++ [{ p with converting := true, conv := some (j, s.convBays r.vaddr) }] ∧ keepsBut [.memory, .poison, .clerk, .bays, .mgmt, .port, .out, .free] s t) ∧
        (other v ≠ 0 → s.selfHeld x r.vaddr (!v.cur) = true → ∃ t, exec (.weightPublish c) s = .next t ∧
          t.cmd c = some { x with phase := .ended, status := 0x13, detail := 0xFFFF } ∧ keepsBut [.clerk] s t) ∧
        (other v ≠ 0 → s.selfHeld x r.vaddr (!v.cur) = false →
          ∃ t, exec (.weightPublish c) s = .next t ∧ t.cmd c = some { x with phase := .working } ∧ t.vers r.vaddr = { v with pending := true } ∧
            t.ck.pubs = s.ck.pubs ++ [p] ∧ keepsBut [.memory, .poison, .clerk, .mgmt, .port, .out, .free] s t)))) ∧
  (∀ (s : State) (a : BitVec 48) (p : Publication), s.pubOf a.toNat = some p →
    let v := s.vers a.toNat
    (∀ x j, p.converting = false → other v = 0 → s.cmd p.cmd = some x → x.runs = true → s.pubHeld a.toNat = false → convOn s a.toNat j → ∃ t q,
      exec (.publicationResume a) s = .next t ∧ t.pubOf a.toNat = some q ∧ q.converting = true ∧ q.conv = some (j, s.convBays a.toNat) ∧
      q.lraddr = p.lraddr ∧ q.cmd = p.cmd ∧ t.vers a.toNat = cleared v ∧ keepsBut [.memory, .poison, .clerk, .bays, .mgmt, .port, .out, .free] s t) ∧
    (∀ x, p.converting = false → other v ≠ 0 → s.cmd p.cmd = some x →
      (s.selfHeld x a.toNat (!v.cur) = false → exec (.publicationResume a) s = .next s) ∧
      (s.selfHeld x a.toNat (!v.cur) = true → ∃ t z, exec (.publicationResume a) s = .next t ∧ t.pubOf a.toNat = none ∧ t.vers a.toNat = { v with pending := false } ∧
        t.cmd p.cmd = some z ∧ z.phase = .ended ∧ (x.phase ≠ .ended → z.status = 0x13 ∧ z.detail = 0xFFFF) ∧ keepsBut [.memory, .poison, .clerk, .mgmt, .port, .out, .free] s t)) ∧
    (∀ x, p.converting = false → other v = 0 → s.cmd p.cmd = some x → s.pubHeld a.toNat = true → exec (.publicationResume a) s = .next s) ∧
    (∀ x j y, p.converting = true → p.conv = none → s.cmd p.cmd = some x → s.pubStall a.toNat = some (j, y) →
      (convOn s a.toNat j → ∃ t, exec (.publicationResume a) s = .next t ∧ t.pubOf a.toNat = some { p with conv := some (j, s.convBays a.toNat) } ∧
        t.vers a.toNat = v ∧ keepsBut [.memory, .poison, .clerk, .bays, .mgmt, .port, .out, .free] s t) ∧
      (s.convBays a.toNat = 0 → ∃ t z, exec (.publicationResume a) s = .next t ∧ t.pubOf a.toNat = none ∧ t.cmd p.cmd = some z ∧ z.phase = .ended ∧
        (x.phase ≠ .ended → z.status = 0x50) ∧ t.vers a.toNat = v ∧ keepsBut [.clerk] s t)) ∧
    (p.converting = true → p.conv ≠ none → (s.cmd p.cmd).any Cmd.runs = true → ∃ t ro, exec (.publicationCommit a) s = .next t ∧
      (t.vers a.toNat).cur = !v.cur ∧ (t.vers a.toNat).curver = v.curver + 1 ∧ (t.vers a.toNat).pending = false ∧
      (if v.cur then (t.vers a.toNat).ver0 = v.curver + 1 ∧ (t.vers a.toNat).valid0 = true ∧ (t.vers a.toNat).ver1 = v.ver1
        else (t.vers a.toNat).ver1 = v.curver + 1 ∧ (t.vers a.toNat).valid1 = true ∧ (t.vers a.toNat).ver0 = v.ver0) ∧
      (t.vers a.toNat).pins0 = v.pins0 ∧ (t.vers a.toNat).pins1 = v.pins1 ∧ (t.vers a.toNat).pubs.toNat = min (v.pubs.toNat + 1) 0xFFFFFFFF ∧
      t.pubOf a.toNat = none ∧ t.lrec p.lraddr = some ro ∧ ro.staged = false ∧ (∀ o, s.lrec p.lraddr = some o → ro = { o with staged := false }) ∧
      (∀ x, s.cmd p.cmd = some x → x.phase ≠ .ended → ∃ z, t.cmd p.cmd = some z ∧ z.phase = .ended ∧ z.status = x.normalStatus) ∧
      keepsBut [.memory, .poison, .clerk, .mgmt, .port, .out, .free] s t) ∧
    (p.converting = false → p.recorded = false → s.reached (p.since + 100000000) = true →
      ((s.pinners a.toNat (!v.cur)).all (fun h => s.endLatched h.1 h.2)) = false → ∃ t r, exec (.publicationWaitTimeout a) s = .next t ∧
      t.pubOf a.toNat = some { p with recorded := true } ∧ t.mg.log.getLast? = some r ∧ r.cls = 5 ∧ r.code = 2 ∧ r.index = s.mg.nextIndex ∧
      (∀ j, t.vers j = s.vers j) ∧ keepsBut [.clerk, .mgmt, .port, .out, .free] s t))

/-- A dispatched ROUND_LOAD that no access stops and its check allows copies its steps from memory, with MARK, and ends;
ROUND_START of a loaded idle round with fewer than four running and FIRST within the program starts it there and goes
on working, else ends with REFUSED_STATE. ROUND_STEP_ISSUE of a due step, at first or again, issues its patched
packet, if the receipt's checks accept it, as the next command of that step, and goes on to the step's NEXT; refused,
it issues none and the step has failed; MARK raises SYNC_OUT at the first issue of an iteration. ROUND_ITERATION_END,
with nothing left to issue and no step open, ends the command of a stopped or finished round, or starts the next
iteration at FIRST. (R346, R347, R348, R349, R350, R351.) -/
def Obligations.RoundsRun : Prop :=
  (∀ (s : State) (c : CmdNo) (x : Cmd), s.begins c 0x0B01 = some x →
    (s.roundLoadCheck x = none → ∃ t rd, exec (.roundLoad c) s = .next t ∧ t.round (x.p 0 1) = some rd ∧ rd.mark = (x.p 18 1).testBit 0 ∧ rd.run = none ∧ rd.iter = 0 ∧
      rd.steps.length = x.p 16 2 ∧ (∀ i, i < x.p 16 2 → rd.steps[i]? = some ⟨s.readBytes (x.addr 8 + 72 * i) 64, BitVec.ofNat 64 (s.readNat (x.addr 8 + 72 * i + 64) 8)⟩) ∧
      (∀ j, j ≠ x.p 0 1 → t.round j = s.round j) ∧ t.cmd c = some { x with phase := .ended, status := x.normalStatus } ∧ keepsBut [.clerk, .board] s t) ∧
    (∀ k, s.roundLoadCheck x = some k → ∃ t z, exec (.roundLoad c) s = .next t ∧ t.cmd c = some z ∧ z.phase = .ended ∧ z.status = k.status ∧ z.detail = k.detail ∧
      (∀ j, t.round j = s.round j))) ∧
  (∀ (s : State) (c : CmdNo) (x : Cmd), s.running c 0x0B02 = some x →
    let running := ((List.range 8).filter s.roundRunning).length
    (∀ rd, s.round (x.p 0 1) = some rd → rd.run = none → running < 4 → x.p 8 2 < rd.steps.length → ∃ t, exec (.roundStart c) s = .next t ∧
      t.round (x.p 0 1) = some { rd with iter := 0, run := some { cmd := c, first := x.p 8 2, iters := BitVec.ofNat 32 (x.p 4 4), iter := rd.iter, startIter := rd.iter, next := some (x.p 8 2) } } ∧
      (∀ j, j ≠ x.p 0 1 → t.round j = s.round j) ∧ t.cmd c = some { x with phase := .working } ∧ keepsBut [.clerk] s t) ∧
    ((∀ rd, s.round (x.p 0 1) = some rd → rd.run ≠ none ∨ 4 ≤ running) → ∃ t, exec (.roundStart c) s = .next t ∧
      t.cmd c = some { x with phase := .ended, status := 0x13, detail := 0 } ∧ (∀ j, t.round j = s.round j) ∧ keepsBut [.clerk] s t)) ∧
  (∀ (s : State) (r : Fin 8) (rd : Round) (run : RoundRun), s.round r = some rd → rd.run = some run →
    (∀ (i : Nat) (re : Bool) (st : RStep), s.clerkRuns = true → s.nextStep r rd run = some (i, re) → rd.steps[i]? = some st → s.cmd s.ck.nextCmd = none →
      let after := st.ctl.toNat / 2 ^ 48
      let run' := if re then { run with again := run.again.drop 1, marked := true }
        else { run with next := if after = 0xFFFF then none else some after, tries := run.tries.filter (fun y => y.1 != i), rebays := run.rebays.filter (fun y => y.1 != i), marked := true }
      let u := (s.stepMark rd run).setRound r (some { rd with run := some run' })
      let packet := patched st.packet st.ctl.toNat run.iter.toNat
      (u.brd = if rd.mark = true ∧ run.marked = false then { s.brd with syncOut := true, syncFall := some (s.clk.time.toNat + 1000) } else s.brd) ∧
      (∀ y, u.judge (u.candidate (.round r i) packet true u.now 0) packet = .ok y → ∃ t z, exec (.roundStepIssue r) s = .next t ∧
        t.ck.nextCmd = s.ck.nextCmd + 1 ∧ t.cmd s.ck.nextCmd = some z ∧ z.origin = .round r i ∧ z.phase = .issued ∧ z.hdr = Header.ofBytes packet ∧
        t.round r = some { rd with run := some run' } ∧ t.brd = u.brd) ∧
      (∀ k, u.judge (u.candidate (.round r i) packet true u.now 0) packet = .error k → ∃ t v, exec (.roundStepIssue r) s = .next t ∧
        (k.rec_ = none → t = u.stepFailed r i k.status k.detail 0xFFFFFFFF) ∧
        (∀ e, k.rec_ = some e → v = (u.record e).2 ∧ t = v.stepFailed r i k.status k.detail (u.record e).1) ∧ t.ck.nextCmd = s.ck.nextCmd ∧ t.ck.cmds = s.ck.cmds)) ∧
    (s.clerkRuns = false ∨ s.nextStep r rd run = none → exec (.roundStepIssue r) s = .next s) ∧
    (run.next = none → run.again = [] → s.stepsOpen r = false →
      (run.stop = none → run.iters ≠ 0 → run.iter + 1 - run.startIter = run.iters → ∃ t, exec (.roundIterationEnd r) s = .next t ∧ t.round r = some { rd with run := none } ∧
        (∀ x, s.cmd run.cmd = some x → x.phase ≠ .ended → t.cmd run.cmd = some { x with phase := .ended, status := x.normalStatus }) ∧ keepsBut [.clerk] s t) ∧
      (run.stop = none → run.iters = 0 ∨ run.iter + 1 - run.startIter ≠ run.iters → ∃ t, exec (.roundIterationEnd r) s = .next t ∧
        t.round r = some { rd with run := some { run with iter := run.iter + 1, next := some run.first, tries := [], rebays := [], marked := false } } ∧
        t.ck.cmds = s.ck.cmds ∧ keepsBut [.clerk] s t) ∧
      (∀ status detail idx, run.stop = some (status, detail, idx) → ∃ t, exec (.roundIterationEnd r) s = .next t ∧ t.round r = some { rd with run := none } ∧
        (∀ x, s.cmd run.cmd = some x → x.phase ≠ .ended → ∃ z, t.cmd run.cmd = some z ∧ z.phase = .ended ∧
          (status ≠ 0 → z.status = status ∧ z.detail = detail ∧ z.errIdx = idx) ∧ (status = 0 → z.status = x.normalStatus)) ∧ keepsBut [.clerk] s t)))

/-- A dispatched CHECKPOINT with no update of a closed step left writes its image at DST, in host memory or in local
memory where no access stops it, and ends; an image above LIMIT ends with REFUSED_STATE, offset 8. RESTORE of an image
whose digest fails ends with AUTH_FAIL and a security record, applying nothing; one that would replace a running round
ends with REFUSED_STATE (the model's choice, log 32). With a good digest and neither CONTEXT nor MASTER selected it
restores HISTORY, or loses it where the image holds none, and ends, or with VERSIONS goes on to write its layers.
RESTORE_LAYER_WRITE refuses a publication of its layer that waits, waits for one that converts and for pins, and of a
layer free of pins and publications makes side 0 current at the image's version and takes the layer off those left;
with none left the RESTORE ends. (R166, R167, R356, Table 12-25.) -/
def Obligations.CheckpointAndRestore : Prop :=
  let ended := fun (t : State) (x : Cmd) (status : Byte) => ∃ z, t.cmd x.no = some z ∧ z.phase = .ended ∧ z.status = status
  (∀ (s : State) (c : CmdNo) (x : Cmd) (st : Stall), s.begins c 0x0B03 = some x → s.stall x.stallNo = some st → s.updatesLeft x = false →
    let img := s.image x.stallNo st (x.p 16 2 % 32)
    let dst := x.p 0 8
    ∃ t, exec (.checkpoint c) s = .next t ∧
      (x.p 8 8 < img.length → t.cmd c = some { x with phase := .ended, status := 0x13, detail := 8 } ∧ keepsBut [.clerk] s t) ∧
      (img.length ≤ x.p 8 8 → x.p 18 1 = 1 → (∀ i, i < img.length → tget 0 t.hostMem (dst + i) = img.getD i 0) ∧
        (∀ b, b < dst ∨ dst + img.length ≤ b → tget 0 t.hostMem b = tget 0 s.hostMem b) ∧ ended t x x.normalStatus ∧ keepsBut [.hostMem, .clerk] s t) ∧
      (img.length ≤ x.p 8 8 → x.p 18 1 ≠ 1 → s.localGa dst = true → s.badElem x false true (gaAddr dst) img.length = none →
        (∀ i, i < img.length → t.byte (gaAddr dst + i) = img.getD i 0) ∧ (∀ b, b < gaAddr dst ∨ gaAddr dst + img.length ≤ b → t.byte b = s.byte b) ∧
        ended t x x.normalStatus ∧ keepsBut [.memory, .poison, .clerk] s t)) ∧
  (∀ (s : State) (c : CmdNo) (x : Cmd), s.running c 0x0B04 = some x → (∀ y ∈ s.ab.xfers, y.cmd ≠ c) → x.stage < 3 → x.p 10 1 = 1 →
    let hdr := natLE (s.readHost (x.p 0 8) 128)
    let body := s.readHost (x.p 0 8 + 128) (bits hdr 639 576)
    let want := x.p 8 2 % 32
    ∃ t, exec (.restore c) s = .next t ∧
      (digest body ≠ bits hdr 1023 640 → (∃ r, t.mg.log.getLast? = some r ∧ r.cls = 8 ∧ r.code = 9 ∧
          t.cmd c = some { x with phase := .ended, status := 0x60, detail := 0, errIdx := r.index }) ∧ keepsBut [.clerk, .mgmt, .port, .out, .free] s t ∧ t.ck.stalls = s.ck.stalls) ∧
      (∀ bs, digest body = bits hdr 1023 640 → want.testBit 4 = true → sectionOf (bits hdr 415 400) body 4 = some bs → (roundNumbers bs).any s.roundRunning = true →
        t.cmd c = some { x with phase := .ended, status := 0x13, detail := 8 } ∧ keepsBut [.clerk] s t) ∧
      (∀ st, digest body = bits hdr 1023 640 → (∀ bs, want.testBit 4 = true → sectionOf (bits hdr 415 400) body 4 = some bs → (roundNumbers bs).any s.roundRunning = false) →
        s.stall x.stallNo = some st → want.testBit 0 = false → want.testBit 1 = false →
        let sec := fun (b : Nat) => sectionOf (bits hdr 415 400) body b
        (want.testBit 2 = false ∨ sec 2 = none ∨ st.weighted = [] → ended t x x.normalStatus) ∧
        (want.testBit 2 = true → sec 2 ≠ none → st.weighted ≠ [] → ∃ z, t.cmd c = some z ∧ z.phase = .working ∧ z.stage = 3 ∧ z.left = st.weighted.map (·.1)) ∧
        (∃ st', t.stall x.stallNo = some st' ∧ st' = { st with num := st'.num } ∧ (want.testBit 3 = false → st' = st) ∧
          (want.testBit 3 = true → sec 3 = none → st'.num.historyLost = true ∧ st'.num.now.hdr.lsexp = 16 ∧ st'.num.now.hdr.mode = 1 ∧ st'.num.now.hdr.clean = 0) ∧
          (∀ bs, want.testBit 3 = true → sec 3 = some bs → bits hdr 391 384 = 3 →
            st'.num.closed = History.ofRegion (fieldAt bs 0 2) (fieldAt bs 2 4) (bs.drop 6) ∧ st'.num.historyLost = false ∧ st'.num.stepFlag = false)) ∧
        (∀ a, t.byte a = s.byte a) ∧ keepsBut [.clerk] s t)) ∧
  (∀ (s : State) (c : CmdNo) (x : Cmd) (st : Stall) (l : Nat) (rest : List Nat) (e : LayerEnt), s.cmd c = some x → x.op = 0x0B04 → x.phase = .working → x.stage = 3 →
    x.left = l :: rest → s.stall x.stallNo = some st → st.layer l = some e →
    let a := e.vaddr.toNat
    let v := s.vers a
    (s.pubOf a = none → v.pins0 ≠ 0 ∨ v.pins1 ≠ 0 → exec (.restoreLayerWrite c) s = .next s) ∧
    (∀ p, s.pubOf a = some p → p.converting = true → exec (.restoreLayerWrite c) s = .next s) ∧
    (∀ p y, s.pubOf a = some p → p.converting = false → s.cmd p.cmd = some y → y.phase = .working → p.cmd ≠ c → v.pins0 ≠ 0 ∨ v.pins1 ≠ 0 →
      ∃ t, exec (.restoreLayerWrite c) s = .next t ∧ t.pubOf a = none ∧ t.vers a = { v with pending := false } ∧
        t.cmd p.cmd = some { y with phase := .ended, status := 0x13, detail := 0xFFFF } ∧ t.cmd c = some x ∧ keepsBut [.memory, .poison, .clerk, .mgmt, .port, .out, .free] s t) ∧
    (s.pubOf a = none → v.pins0 = 0 → v.pins1 = 0 → s.badElem x false true (s.currentBase a false) e.sideBytes = none →
      ∃ t z, exec (.restoreLayerWrite c) s = .next t ∧ t.cmd c = some z ∧ z.left = rest ∧ (rest = [] → z.phase = .ended ∧ z.status = x.normalStatus) ∧
        (rest ≠ [] → z.phase = .working) ∧ (t.vers a).cur = false ∧ (t.vers a).valid0 = true ∧ (t.vers a).valid1 = false ∧ (t.vers a).pending = false ∧
        (t.vers a).curver = (t.vers a).ver0 ∧ (t.vers a).pins0 = 0 ∧ (t.vers a).pins1 = 0 ∧ (t.vers a).ver1 = v.ver1 ∧ (∀ j, j ≠ a → t.vers j = s.vers j) ∧
        keepsBut [.memory, .poison, .clerk, .bays, .mgmt, .port, .out, .free] s t))
end

