-- ==== Sys2Proof/Laws/Table.lean ====
section
/-! SUPPORT. Laws of the sparse tables: a read after a write, and the canonical form. -/

namespace Sys2Proof.Machine

theorem tget_filter_same (d : α) (m : TMap α) (k : Nat) : tget d (m.filter (fun x => x.1 != k)) k = d := by
  induction m with
  | nil => rfl
  | cons x m ih =>
    obtain ⟨a, w⟩ := x
    by_cases h : a = k
    · simp [h, ih]
    · simp [h, tget, ih, Ne.symm h]

theorem tget_filter_other (d : α) (m : TMap α) (k j : Nat) (h : j ≠ k) :
    tget d (m.filter (fun x => x.1 != k)) j = tget d m j := by
  induction m with
  | nil => rfl
  | cons x m ih =>
    obtain ⟨a, w⟩ := x
    by_cases e : a = k
    · subst e; simp [tget, h, ih]
    · simp [e, tget, ih]

theorem tget_tput_same (d : α) (m : TMap α) (k : Nat) (v : α) : tget d (tput m k v) k = v := by
  induction m with
  | nil => simp [tput, tget]
  | cons x m ih =>
    obtain ⟨a, w⟩ := x
    unfold tput
    split
    · simp [tget]
    · split
      · simp [tget]
      · simp [tget, *]

theorem tget_tput_other (d : α) (m : TMap α) (k j : Nat) (v : α) (h : j ≠ k) : tget d (tput m k v) j = tget d m j := by
  induction m with
  | nil => simp [tput, tget, h]
  | cons x m ih =>
    obtain ⟨a, w⟩ := x
    unfold tput
    split
    · simp [tget, h]
    · split
      · subst_vars; simp [tget, h]
      · simp [tget, ih]

/-- A read after a write of the same key gives the value written. -/
@[simp] theorem tget_tset_same [DecidableEq α] (d : α) (m : TMap α) (k : Nat) (v : α) : tget d (tset d m k v) k = v := by
  unfold tset; split
  · subst_vars; exact tget_filter_same _ _ _
  · exact tget_tput_same _ _ _ _

/-- A write leaves every other key alone. -/
theorem tget_tset_other [DecidableEq α] (d : α) (m : TMap α) (k j : Nat) (v : α) (h : j ≠ k) :
    tget d (tset d m k v) j = tget d m j := by
  unfold tset; split
  · exact tget_filter_other _ _ _ _ h
  · exact tget_tput_other _ _ _ _ _ h

/-- A write, seen through a read of any key. -/
theorem tget_tset [DecidableEq α] (d : α) (m : TMap α) (k j : Nat) (v : α) :
    tget d (tset d m k v) j = if j = k then v else tget d m j := by
  split
  · subst_vars; simp
  · exact tget_tset_other _ _ _ _ _ ‹_›

@[simp] theorem tget_nil (d : α) (k : Nat) : tget d [] k = d := rfl

/-! ## The canonical form -/

theorem tableFrom_weaken [DecidableEq α] (d : α) (a b : Nat) (m : TMap α) (h : a ≤ b) (hm : tableFrom d (some b) m = true) :
    tableFrom d (some a) m = true := by
  cases m with
  | nil => rfl
  | cons x m => obtain ⟨k, v⟩ := x; simp only [tableFrom, Bool.and_eq_true, decide_eq_true_eq] at *; exact ⟨⟨by omega, hm.1.2⟩, hm.2⟩

theorem tableFrom_none [DecidableEq α] (d : α) (b : Option Nat) (m : TMap α) (hm : tableFrom d b m = true) :
    tableFrom d none m = true := by
  cases m with
  | nil => rfl
  | cons x m => obtain ⟨k, v⟩ := x; simp only [tableFrom, Bool.and_eq_true] at *; exact ⟨⟨trivial, hm.1.2⟩, hm.2⟩

theorem tableFrom_filter [DecidableEq α] (d : α) (b : Option Nat) (m : TMap α) (k : Nat) (hm : tableFrom d b m = true) :
    tableFrom d b (m.filter (fun x => x.1 != k)) = true := by
  induction m generalizing b with
  | nil => simp [tableFrom]
  | cons x m ih =>
    obtain ⟨a, w⟩ := x
    simp only [tableFrom, Bool.and_eq_true] at hm
    by_cases e : a = k
    · have h1 : (a != k) = false := by simp [e]
      simp only [List.filter_cons, h1, Bool.false_eq_true, if_false]
      cases b with
      | none => exact ih _ (tableFrom_none d _ m hm.2)
      | some b => exact ih _ (tableFrom_weaken d b a m (by have := hm.1.1; simp at this; omega) hm.2)
    · have h1 : (a != k) = true := by simp [e]
      simp only [List.filter_cons, h1, if_true, tableFrom, Bool.and_eq_true]
      exact ⟨hm.1, ih _ hm.2⟩

theorem tableFrom_tput [DecidableEq α] (d : α) (b : Option Nat) (m : TMap α) (k : Nat) (v : α) (hv : v ≠ d)
    (hb : ∀ a, b = some a → a < k) (hm : tableFrom d b m = true) : tableFrom d b (tput m k v) = true := by
  induction m generalizing b with
  | nil => cases b <;> simp_all [tput, tableFrom]
  | cons x m ih =>
    obtain ⟨a, w⟩ := x
    unfold tput
    simp only [tableFrom, Bool.and_eq_true] at hm
    split
    · cases b <;> simp_all [tableFrom]
    · split
      · cases b <;> simp_all [tableFrom]
      · simp only [tableFrom, Bool.and_eq_true]
        exact ⟨hm.1, ih _ (fun c hc => by simp at hc; omega) hm.2⟩

/-- A write keeps the canonical form. -/
theorem tableWf_tset [DecidableEq α] (d : α) (m : TMap α) (k : Nat) (v : α) (hm : tableWf d m = true) :
    tableWf d (tset d m k v) = true := by
  unfold tset tableWf at *; split
  · exact tableFrom_filter _ _ _ _ hm
  · exact tableFrom_tput _ _ _ _ _ ‹_› (by simp) hm

@[simp] theorem tableWf_nil [DecidableEq α] (d : α) : tableWf d [] = true := rfl

end Sys2Proof.Machine
end

