-- ==== Sys2Proof/Laws/State.lean ====
section
/-! SUPPORT. Laws of the state: every field under every update of one unit, each by definition, and what the units read
after an update. -/

namespace Sys2Proof.Machine

/-! ### setQueue -/

@[simp] theorem State.setQueue_pending (s : State) (q : Nat) (v : Queue) : (s.setQueue q v).pending = s.pending := rfl
@[simp] theorem State.setQueue_freeCtr (s : State) (q : Nat) (v : Queue) : (s.setQueue q v).freeCtr = s.freeCtr := rfl
@[simp] theorem State.setQueue_resp (s : State) (q : Nat) (v : Queue) : (s.setQueue q v).resp = s.resp := rfl
@[simp] theorem State.setQueue_respPoison (s : State) (q : Nat) (v : Queue) : (s.setQueue q v).respPoison = s.respPoison := rfl
@[simp] theorem State.setQueue_out (s : State) (q : Nat) (v : Queue) : (s.setQueue q v).out = s.out := rfl
@[simp] theorem State.setQueue_hostMem (s : State) (q : Nat) (v : Queue) : (s.setQueue q v).hostMem = s.hostMem := rfl
@[simp] theorem State.setQueue_mem (s : State) (q : Nat) (v : Queue) : (s.setQueue q v).mem = s.mem := rfl
@[simp] theorem State.setQueue_poison (s : State) (q : Nat) (v : Queue) : (s.setQueue q v).poison = s.poison := rfl
@[simp] theorem State.setQueue_staging (s : State) (q : Nat) (v : Queue) : (s.setQueue q v).staging = s.staging := rfl
@[simp] theorem State.setQueue_clk (s : State) (q : Nat) (v : Queue) : (s.setQueue q v).clk = s.clk := rfl
@[simp] theorem State.setQueue_brd (s : State) (q : Nat) (v : Queue) : (s.setQueue q v).brd = s.brd := rfl
@[simp] theorem State.setQueue_flash (s : State) (q : Nat) (v : Queue) : (s.setQueue q v).flash = s.flash := rfl
@[simp] theorem State.setQueue_boot (s : State) (q : Nat) (v : Queue) : (s.setQueue q v).boot = s.boot := rfl
@[simp] theorem State.setQueue_hp (s : State) (q : Nat) (v : Queue) : (s.setQueue q v).hp = s.hp := rfl
@[simp] theorem State.setQueue_mb (s : State) (q : Nat) (v : Queue) : (s.setQueue q v).mb = s.mb := rfl
@[simp] theorem State.setQueue_stackTab (s : State) (q : Nat) (v : Queue) : (s.setQueue q v).stackTab = s.stackTab := rfl
@[simp] theorem State.setQueue_ostlers (s : State) (q : Nat) (v : Queue) : (s.setQueue q v).ostlers = s.ostlers := rfl
@[simp] theorem State.setQueue_ostSel (s : State) (q : Nat) (v : Queue) : (s.setQueue q v).ostSel = s.ostSel := rfl
@[simp] theorem State.setQueue_ab (s : State) (q : Nat) (v : Queue) : (s.setQueue q v).ab = s.ab := rfl
@[simp] theorem State.setQueue_tal (s : State) (q : Nat) (v : Queue) : (s.setQueue q v).tal = s.tal := rfl
@[simp] theorem State.setQueue_dies (s : State) (q : Nat) (v : Queue) : (s.setQueue q v).dies = s.dies := rfl
@[simp] theorem State.setQueue_bays (s : State) (q : Nat) (v : Queue) : (s.setQueue q v).bays = s.bays := rfl
@[simp] theorem State.setQueue_millerHalf (s : State) (q : Nat) (v : Queue) : (s.setQueue q v).millerHalf = s.millerHalf := rfl
@[simp] theorem State.setQueue_pw (s : State) (q : Nat) (v : Queue) : (s.setQueue q v).pw = s.pw := rfl
@[simp] theorem State.setQueue_refusals (s : State) (q : Nat) (v : Queue) : (s.setQueue q v).refusals = s.refusals := rfl
@[simp] theorem State.setQueue_logTotal (s : State) (q : Nat) (v : Queue) : (s.setQueue q v).logTotal = s.logTotal := rfl
@[simp] theorem State.setQueue_units (s : State) (q : Nat) (v : Queue) : (s.setQueue q v).units = s.units := rfl
@[simp] theorem State.setQueue_capsules (s : State) (q : Nat) (v : Queue) : (s.setQueue q v).capsules = s.capsules := rfl
@[simp] theorem State.setQueue_mg (s : State) (q : Nat) (v : Queue) : (s.setQueue q v).mg = s.mg := rfl
@[simp] theorem State.setQueue_ck_cmds (s : State) (q : Nat) (v : Queue) : (s.setQueue q v).ck.cmds = s.ck.cmds := rfl
@[simp] theorem State.setQueue_ck_nextCmd (s : State) (q : Nat) (v : Queue) : (s.setQueue q v).ck.nextCmd = s.ck.nextCmd := rfl
@[simp] theorem State.setQueue_ck_stalls (s : State) (q : Nat) (v : Queue) : (s.setQueue q v).ck.stalls = s.ck.stalls := rfl
@[simp] theorem State.setQueue_ck_svc (s : State) (q : Nat) (v : Queue) : (s.setQueue q v).ck.svc = s.ck.svc := rfl
@[simp] theorem State.setQueue_ck_claims (s : State) (q : Nat) (v : Queue) : (s.setQueue q v).ck.claims = s.ck.claims := rfl
@[simp] theorem State.setQueue_ck_rounds (s : State) (q : Nat) (v : Queue) : (s.setQueue q v).ck.rounds = s.ck.rounds := rfl
@[simp] theorem State.setQueue_ck_dropped (s : State) (q : Nat) (v : Queue) : (s.setQueue q v).ck.dropped = s.ck.dropped := rfl
@[simp] theorem State.setQueue_ck_vers (s : State) (q : Nat) (v : Queue) : (s.setQueue q v).ck.vers = s.ck.vers := rfl
@[simp] theorem State.setQueue_ck_lrec (s : State) (q : Nat) (v : Queue) : (s.setQueue q v).ck.lrec = s.ck.lrec := rfl
@[simp] theorem State.setQueue_ck_pubs (s : State) (q : Nat) (v : Queue) : (s.setQueue q v).ck.pubs = s.ck.pubs := rfl
@[simp] theorem State.setQueue_ck_owner (s : State) (q : Nat) (v : Queue) : (s.setQueue q v).ck.owner = s.ck.owner := rfl
@[simp] theorem State.setQueue_ck_heldClaim (s : State) (q : Nat) (v : Queue) : (s.setQueue q v).ck.heldClaim = s.ck.heldClaim := rfl
@[simp] theorem State.setQueue_ck_quiescing (s : State) (q : Nat) (v : Queue) : (s.setQueue q v).ck.quiescing = s.ck.quiescing := rfl

/-! ### setPort -/

@[simp] theorem State.setPort_pending (s : State) (p : Nat) (v : Port) : (s.setPort p v).pending = s.pending := rfl
@[simp] theorem State.setPort_freeCtr (s : State) (p : Nat) (v : Port) : (s.setPort p v).freeCtr = s.freeCtr := rfl
@[simp] theorem State.setPort_resp (s : State) (p : Nat) (v : Port) : (s.setPort p v).resp = s.resp := rfl
@[simp] theorem State.setPort_respPoison (s : State) (p : Nat) (v : Port) : (s.setPort p v).respPoison = s.respPoison := rfl
@[simp] theorem State.setPort_out (s : State) (p : Nat) (v : Port) : (s.setPort p v).out = s.out := rfl
@[simp] theorem State.setPort_hostMem (s : State) (p : Nat) (v : Port) : (s.setPort p v).hostMem = s.hostMem := rfl
@[simp] theorem State.setPort_mem (s : State) (p : Nat) (v : Port) : (s.setPort p v).mem = s.mem := rfl
@[simp] theorem State.setPort_poison (s : State) (p : Nat) (v : Port) : (s.setPort p v).poison = s.poison := rfl
@[simp] theorem State.setPort_staging (s : State) (p : Nat) (v : Port) : (s.setPort p v).staging = s.staging := rfl
@[simp] theorem State.setPort_clk (s : State) (p : Nat) (v : Port) : (s.setPort p v).clk = s.clk := rfl
@[simp] theorem State.setPort_brd (s : State) (p : Nat) (v : Port) : (s.setPort p v).brd = s.brd := rfl
@[simp] theorem State.setPort_flash (s : State) (p : Nat) (v : Port) : (s.setPort p v).flash = s.flash := rfl
@[simp] theorem State.setPort_boot (s : State) (p : Nat) (v : Port) : (s.setPort p v).boot = s.boot := rfl
@[simp] theorem State.setPort_hp (s : State) (p : Nat) (v : Port) : (s.setPort p v).hp = s.hp := rfl
@[simp] theorem State.setPort_mb (s : State) (p : Nat) (v : Port) : (s.setPort p v).mb = s.mb := rfl
@[simp] theorem State.setPort_ck (s : State) (p : Nat) (v : Port) : (s.setPort p v).ck = s.ck := rfl
@[simp] theorem State.setPort_stackTab (s : State) (p : Nat) (v : Port) : (s.setPort p v).stackTab = s.stackTab := rfl
@[simp] theorem State.setPort_ostlers (s : State) (p : Nat) (v : Port) : (s.setPort p v).ostlers = s.ostlers := rfl
@[simp] theorem State.setPort_ostSel (s : State) (p : Nat) (v : Port) : (s.setPort p v).ostSel = s.ostSel := rfl
@[simp] theorem State.setPort_tal (s : State) (p : Nat) (v : Port) : (s.setPort p v).tal = s.tal := rfl
@[simp] theorem State.setPort_dies (s : State) (p : Nat) (v : Port) : (s.setPort p v).dies = s.dies := rfl
@[simp] theorem State.setPort_bays (s : State) (p : Nat) (v : Port) : (s.setPort p v).bays = s.bays := rfl
@[simp] theorem State.setPort_millerHalf (s : State) (p : Nat) (v : Port) : (s.setPort p v).millerHalf = s.millerHalf := rfl
@[simp] theorem State.setPort_pw (s : State) (p : Nat) (v : Port) : (s.setPort p v).pw = s.pw := rfl
@[simp] theorem State.setPort_refusals (s : State) (p : Nat) (v : Port) : (s.setPort p v).refusals = s.refusals := rfl
@[simp] theorem State.setPort_logTotal (s : State) (p : Nat) (v : Port) : (s.setPort p v).logTotal = s.logTotal := rfl
@[simp] theorem State.setPort_units (s : State) (p : Nat) (v : Port) : (s.setPort p v).units = s.units := rfl
@[simp] theorem State.setPort_capsules (s : State) (p : Nat) (v : Port) : (s.setPort p v).capsules = s.capsules := rfl
@[simp] theorem State.setPort_mg (s : State) (p : Nat) (v : Port) : (s.setPort p v).mg = s.mg := rfl
@[simp] theorem State.setPort_ab_fid (s : State) (p : Nat) (v : Port) : (s.setPort p v).ab.fid = s.ab.fid := rfl
@[simp] theorem State.setPort_ab_fidValid (s : State) (p : Nat) (v : Port) : (s.setPort p v).ab.fidValid = s.ab.fidValid := rfl
@[simp] theorem State.setPort_ab_pollInt (s : State) (p : Nat) (v : Port) : (s.setPort p v).ab.pollInt = s.ab.pollInt := rfl
@[simp] theorem State.setPort_ab_fidConf (s : State) (p : Nat) (v : Port) : (s.setPort p v).ab.fidConf = s.ab.fidConf := rfl
@[simp] theorem State.setPort_ab_nbrChg (s : State) (p : Nat) (v : Port) : (s.setPort p v).ab.nbrChg = s.ab.nbrChg := rfl
@[simp] theorem State.setPort_ab_portSel (s : State) (p : Nat) (v : Port) : (s.setPort p v).ab.portSel = s.ab.portSel := rfl
@[simp] theorem State.setPort_ab_rtIndex (s : State) (p : Nat) (v : Port) : (s.setPort p v).ab.rtIndex = s.ab.rtIndex := rfl
@[simp] theorem State.setPort_ab_engSel (s : State) (p : Nat) (v : Port) : (s.setPort p v).ab.engSel = s.ab.engSel := rfl
@[simp] theorem State.setPort_ab_rt (s : State) (p : Nat) (v : Port) : (s.setPort p v).ab.rt = s.ab.rt := rfl
@[simp] theorem State.setPort_ab_engines (s : State) (p : Nat) (v : Port) : (s.setPort p v).ab.engines = s.ab.engines := rfl
@[simp] theorem State.setPort_ab_slots (s : State) (p : Nat) (v : Port) : (s.setPort p v).ab.slots = s.ab.slots := rfl
@[simp] theorem State.setPort_ab_groups (s : State) (p : Nat) (v : Port) : (s.setPort p v).ab.groups = s.ab.groups := rfl
@[simp] theorem State.setPort_ab_colls (s : State) (p : Nat) (v : Port) : (s.setPort p v).ab.colls = s.ab.colls := rfl
@[simp] theorem State.setPort_ab_barriers (s : State) (p : Nat) (v : Port) : (s.setPort p v).ab.barriers = s.ab.barriers := rfl
@[simp] theorem State.setPort_ab_xfers (s : State) (p : Nat) (v : Port) : (s.setPort p v).ab.xfers = s.ab.xfers := rfl
@[simp] theorem State.setPort_ab_nextTag (s : State) (p : Nat) (v : Port) : (s.setPort p v).ab.nextTag = s.ab.nextTag := rfl
@[simp] theorem State.setPort_ab_unreached (s : State) (p : Nat) (v : Port) : (s.setPort p v).ab.unreached = s.ab.unreached := rfl
@[simp] theorem State.setPort_ab_edgesOut (s : State) (p : Nat) (v : Port) : (s.setPort p v).ab.edgesOut = s.ab.edgesOut := rfl

/-! ### setEngine -/

@[simp] theorem State.setEngine_pending (s : State) (d : Nat) (v : Engine) : (s.setEngine d v).pending = s.pending := rfl
@[simp] theorem State.setEngine_freeCtr (s : State) (d : Nat) (v : Engine) : (s.setEngine d v).freeCtr = s.freeCtr := rfl
@[simp] theorem State.setEngine_resp (s : State) (d : Nat) (v : Engine) : (s.setEngine d v).resp = s.resp := rfl
@[simp] theorem State.setEngine_respPoison (s : State) (d : Nat) (v : Engine) : (s.setEngine d v).respPoison = s.respPoison := rfl
@[simp] theorem State.setEngine_out (s : State) (d : Nat) (v : Engine) : (s.setEngine d v).out = s.out := rfl
@[simp] theorem State.setEngine_hostMem (s : State) (d : Nat) (v : Engine) : (s.setEngine d v).hostMem = s.hostMem := rfl
@[simp] theorem State.setEngine_mem (s : State) (d : Nat) (v : Engine) : (s.setEngine d v).mem = s.mem := rfl
@[simp] theorem State.setEngine_poison (s : State) (d : Nat) (v : Engine) : (s.setEngine d v).poison = s.poison := rfl
@[simp] theorem State.setEngine_staging (s : State) (d : Nat) (v : Engine) : (s.setEngine d v).staging = s.staging := rfl
@[simp] theorem State.setEngine_clk (s : State) (d : Nat) (v : Engine) : (s.setEngine d v).clk = s.clk := rfl
@[simp] theorem State.setEngine_brd (s : State) (d : Nat) (v : Engine) : (s.setEngine d v).brd = s.brd := rfl
@[simp] theorem State.setEngine_flash (s : State) (d : Nat) (v : Engine) : (s.setEngine d v).flash = s.flash := rfl
@[simp] theorem State.setEngine_boot (s : State) (d : Nat) (v : Engine) : (s.setEngine d v).boot = s.boot := rfl
@[simp] theorem State.setEngine_hp (s : State) (d : Nat) (v : Engine) : (s.setEngine d v).hp = s.hp := rfl
@[simp] theorem State.setEngine_mb (s : State) (d : Nat) (v : Engine) : (s.setEngine d v).mb = s.mb := rfl
@[simp] theorem State.setEngine_ck (s : State) (d : Nat) (v : Engine) : (s.setEngine d v).ck = s.ck := rfl
@[simp] theorem State.setEngine_stackTab (s : State) (d : Nat) (v : Engine) : (s.setEngine d v).stackTab = s.stackTab := rfl
@[simp] theorem State.setEngine_ostlers (s : State) (d : Nat) (v : Engine) : (s.setEngine d v).ostlers = s.ostlers := rfl
@[simp] theorem State.setEngine_ostSel (s : State) (d : Nat) (v : Engine) : (s.setEngine d v).ostSel = s.ostSel := rfl
@[simp] theorem State.setEngine_tal (s : State) (d : Nat) (v : Engine) : (s.setEngine d v).tal = s.tal := rfl
@[simp] theorem State.setEngine_dies (s : State) (d : Nat) (v : Engine) : (s.setEngine d v).dies = s.dies := rfl
@[simp] theorem State.setEngine_bays (s : State) (d : Nat) (v : Engine) : (s.setEngine d v).bays = s.bays := rfl
@[simp] theorem State.setEngine_millerHalf (s : State) (d : Nat) (v : Engine) : (s.setEngine d v).millerHalf = s.millerHalf := rfl
@[simp] theorem State.setEngine_pw (s : State) (d : Nat) (v : Engine) : (s.setEngine d v).pw = s.pw := rfl
@[simp] theorem State.setEngine_refusals (s : State) (d : Nat) (v : Engine) : (s.setEngine d v).refusals = s.refusals := rfl
@[simp] theorem State.setEngine_logTotal (s : State) (d : Nat) (v : Engine) : (s.setEngine d v).logTotal = s.logTotal := rfl
@[simp] theorem State.setEngine_units (s : State) (d : Nat) (v : Engine) : (s.setEngine d v).units = s.units := rfl
@[simp] theorem State.setEngine_capsules (s : State) (d : Nat) (v : Engine) : (s.setEngine d v).capsules = s.capsules := rfl
@[simp] theorem State.setEngine_mg (s : State) (d : Nat) (v : Engine) : (s.setEngine d v).mg = s.mg := rfl
@[simp] theorem State.setEngine_ab_fid (s : State) (d : Nat) (v : Engine) : (s.setEngine d v).ab.fid = s.ab.fid := rfl
@[simp] theorem State.setEngine_ab_fidValid (s : State) (d : Nat) (v : Engine) : (s.setEngine d v).ab.fidValid = s.ab.fidValid := rfl
@[simp] theorem State.setEngine_ab_pollInt (s : State) (d : Nat) (v : Engine) : (s.setEngine d v).ab.pollInt = s.ab.pollInt := rfl
@[simp] theorem State.setEngine_ab_fidConf (s : State) (d : Nat) (v : Engine) : (s.setEngine d v).ab.fidConf = s.ab.fidConf := rfl
@[simp] theorem State.setEngine_ab_nbrChg (s : State) (d : Nat) (v : Engine) : (s.setEngine d v).ab.nbrChg = s.ab.nbrChg := rfl
@[simp] theorem State.setEngine_ab_portSel (s : State) (d : Nat) (v : Engine) : (s.setEngine d v).ab.portSel = s.ab.portSel := rfl
@[simp] theorem State.setEngine_ab_rtIndex (s : State) (d : Nat) (v : Engine) : (s.setEngine d v).ab.rtIndex = s.ab.rtIndex := rfl
@[simp] theorem State.setEngine_ab_engSel (s : State) (d : Nat) (v : Engine) : (s.setEngine d v).ab.engSel = s.ab.engSel := rfl
@[simp] theorem State.setEngine_ab_rt (s : State) (d : Nat) (v : Engine) : (s.setEngine d v).ab.rt = s.ab.rt := rfl
@[simp] theorem State.setEngine_ab_ports (s : State) (d : Nat) (v : Engine) : (s.setEngine d v).ab.ports = s.ab.ports := rfl
@[simp] theorem State.setEngine_ab_slots (s : State) (d : Nat) (v : Engine) : (s.setEngine d v).ab.slots = s.ab.slots := rfl
@[simp] theorem State.setEngine_ab_groups (s : State) (d : Nat) (v : Engine) : (s.setEngine d v).ab.groups = s.ab.groups := rfl
@[simp] theorem State.setEngine_ab_colls (s : State) (d : Nat) (v : Engine) : (s.setEngine d v).ab.colls = s.ab.colls := rfl
@[simp] theorem State.setEngine_ab_barriers (s : State) (d : Nat) (v : Engine) : (s.setEngine d v).ab.barriers = s.ab.barriers := rfl
@[simp] theorem State.setEngine_ab_xfers (s : State) (d : Nat) (v : Engine) : (s.setEngine d v).ab.xfers = s.ab.xfers := rfl
@[simp] theorem State.setEngine_ab_nextTag (s : State) (d : Nat) (v : Engine) : (s.setEngine d v).ab.nextTag = s.ab.nextTag := rfl
@[simp] theorem State.setEngine_ab_unreached (s : State) (d : Nat) (v : Engine) : (s.setEngine d v).ab.unreached = s.ab.unreached := rfl
@[simp] theorem State.setEngine_ab_edgesOut (s : State) (d : Nat) (v : Engine) : (s.setEngine d v).ab.edgesOut = s.ab.edgesOut := rfl

/-! ### setGroup -/

@[simp] theorem State.setGroup_pending (s : State) (g : Nat) (v : Group) : (s.setGroup g v).pending = s.pending := rfl
@[simp] theorem State.setGroup_freeCtr (s : State) (g : Nat) (v : Group) : (s.setGroup g v).freeCtr = s.freeCtr := rfl
@[simp] theorem State.setGroup_resp (s : State) (g : Nat) (v : Group) : (s.setGroup g v).resp = s.resp := rfl
@[simp] theorem State.setGroup_respPoison (s : State) (g : Nat) (v : Group) : (s.setGroup g v).respPoison = s.respPoison := rfl
@[simp] theorem State.setGroup_out (s : State) (g : Nat) (v : Group) : (s.setGroup g v).out = s.out := rfl
@[simp] theorem State.setGroup_hostMem (s : State) (g : Nat) (v : Group) : (s.setGroup g v).hostMem = s.hostMem := rfl
@[simp] theorem State.setGroup_mem (s : State) (g : Nat) (v : Group) : (s.setGroup g v).mem = s.mem := rfl
@[simp] theorem State.setGroup_poison (s : State) (g : Nat) (v : Group) : (s.setGroup g v).poison = s.poison := rfl
@[simp] theorem State.setGroup_staging (s : State) (g : Nat) (v : Group) : (s.setGroup g v).staging = s.staging := rfl
@[simp] theorem State.setGroup_clk (s : State) (g : Nat) (v : Group) : (s.setGroup g v).clk = s.clk := rfl
@[simp] theorem State.setGroup_brd (s : State) (g : Nat) (v : Group) : (s.setGroup g v).brd = s.brd := rfl
@[simp] theorem State.setGroup_flash (s : State) (g : Nat) (v : Group) : (s.setGroup g v).flash = s.flash := rfl
@[simp] theorem State.setGroup_boot (s : State) (g : Nat) (v : Group) : (s.setGroup g v).boot = s.boot := rfl
@[simp] theorem State.setGroup_hp (s : State) (g : Nat) (v : Group) : (s.setGroup g v).hp = s.hp := rfl
@[simp] theorem State.setGroup_mb (s : State) (g : Nat) (v : Group) : (s.setGroup g v).mb = s.mb := rfl
@[simp] theorem State.setGroup_ck (s : State) (g : Nat) (v : Group) : (s.setGroup g v).ck = s.ck := rfl
@[simp] theorem State.setGroup_stackTab (s : State) (g : Nat) (v : Group) : (s.setGroup g v).stackTab = s.stackTab := rfl
@[simp] theorem State.setGroup_ostlers (s : State) (g : Nat) (v : Group) : (s.setGroup g v).ostlers = s.ostlers := rfl
@[simp] theorem State.setGroup_ostSel (s : State) (g : Nat) (v : Group) : (s.setGroup g v).ostSel = s.ostSel := rfl
@[simp] theorem State.setGroup_tal (s : State) (g : Nat) (v : Group) : (s.setGroup g v).tal = s.tal := rfl
@[simp] theorem State.setGroup_dies (s : State) (g : Nat) (v : Group) : (s.setGroup g v).dies = s.dies := rfl
@[simp] theorem State.setGroup_bays (s : State) (g : Nat) (v : Group) : (s.setGroup g v).bays = s.bays := rfl
@[simp] theorem State.setGroup_millerHalf (s : State) (g : Nat) (v : Group) : (s.setGroup g v).millerHalf = s.millerHalf := rfl
@[simp] theorem State.setGroup_pw (s : State) (g : Nat) (v : Group) : (s.setGroup g v).pw = s.pw := rfl
@[simp] theorem State.setGroup_refusals (s : State) (g : Nat) (v : Group) : (s.setGroup g v).refusals = s.refusals := rfl
@[simp] theorem State.setGroup_logTotal (s : State) (g : Nat) (v : Group) : (s.setGroup g v).logTotal = s.logTotal := rfl
@[simp] theorem State.setGroup_units (s : State) (g : Nat) (v : Group) : (s.setGroup g v).units = s.units := rfl
@[simp] theorem State.setGroup_capsules (s : State) (g : Nat) (v : Group) : (s.setGroup g v).capsules = s.capsules := rfl
@[simp] theorem State.setGroup_mg (s : State) (g : Nat) (v : Group) : (s.setGroup g v).mg = s.mg := rfl
@[simp] theorem State.setGroup_ab_fid (s : State) (g : Nat) (v : Group) : (s.setGroup g v).ab.fid = s.ab.fid := rfl
@[simp] theorem State.setGroup_ab_fidValid (s : State) (g : Nat) (v : Group) : (s.setGroup g v).ab.fidValid = s.ab.fidValid := rfl
@[simp] theorem State.setGroup_ab_pollInt (s : State) (g : Nat) (v : Group) : (s.setGroup g v).ab.pollInt = s.ab.pollInt := rfl
@[simp] theorem State.setGroup_ab_fidConf (s : State) (g : Nat) (v : Group) : (s.setGroup g v).ab.fidConf = s.ab.fidConf := rfl
@[simp] theorem State.setGroup_ab_nbrChg (s : State) (g : Nat) (v : Group) : (s.setGroup g v).ab.nbrChg = s.ab.nbrChg := rfl
@[simp] theorem State.setGroup_ab_portSel (s : State) (g : Nat) (v : Group) : (s.setGroup g v).ab.portSel = s.ab.portSel := rfl
@[simp] theorem State.setGroup_ab_rtIndex (s : State) (g : Nat) (v : Group) : (s.setGroup g v).ab.rtIndex = s.ab.rtIndex := rfl
@[simp] theorem State.setGroup_ab_engSel (s : State) (g : Nat) (v : Group) : (s.setGroup g v).ab.engSel = s.ab.engSel := rfl
@[simp] theorem State.setGroup_ab_rt (s : State) (g : Nat) (v : Group) : (s.setGroup g v).ab.rt = s.ab.rt := rfl
@[simp] theorem State.setGroup_ab_ports (s : State) (g : Nat) (v : Group) : (s.setGroup g v).ab.ports = s.ab.ports := rfl
@[simp] theorem State.setGroup_ab_engines (s : State) (g : Nat) (v : Group) : (s.setGroup g v).ab.engines = s.ab.engines := rfl
@[simp] theorem State.setGroup_ab_slots (s : State) (g : Nat) (v : Group) : (s.setGroup g v).ab.slots = s.ab.slots := rfl
@[simp] theorem State.setGroup_ab_colls (s : State) (g : Nat) (v : Group) : (s.setGroup g v).ab.colls = s.ab.colls := rfl
@[simp] theorem State.setGroup_ab_barriers (s : State) (g : Nat) (v : Group) : (s.setGroup g v).ab.barriers = s.ab.barriers := rfl
@[simp] theorem State.setGroup_ab_xfers (s : State) (g : Nat) (v : Group) : (s.setGroup g v).ab.xfers = s.ab.xfers := rfl
@[simp] theorem State.setGroup_ab_nextTag (s : State) (g : Nat) (v : Group) : (s.setGroup g v).ab.nextTag = s.ab.nextTag := rfl
@[simp] theorem State.setGroup_ab_unreached (s : State) (g : Nat) (v : Group) : (s.setGroup g v).ab.unreached = s.ab.unreached := rfl
@[simp] theorem State.setGroup_ab_edgesOut (s : State) (g : Nat) (v : Group) : (s.setGroup g v).ab.edgesOut = s.ab.edgesOut := rfl

/-! ### setBay -/

@[simp] theorem State.setBay_pending (s : State) (b : Nat) (v : Bay) : (s.setBay b v).pending = s.pending := rfl
@[simp] theorem State.setBay_freeCtr (s : State) (b : Nat) (v : Bay) : (s.setBay b v).freeCtr = s.freeCtr := rfl
@[simp] theorem State.setBay_resp (s : State) (b : Nat) (v : Bay) : (s.setBay b v).resp = s.resp := rfl
@[simp] theorem State.setBay_respPoison (s : State) (b : Nat) (v : Bay) : (s.setBay b v).respPoison = s.respPoison := rfl
@[simp] theorem State.setBay_out (s : State) (b : Nat) (v : Bay) : (s.setBay b v).out = s.out := rfl
@[simp] theorem State.setBay_hostMem (s : State) (b : Nat) (v : Bay) : (s.setBay b v).hostMem = s.hostMem := rfl
@[simp] theorem State.setBay_mem (s : State) (b : Nat) (v : Bay) : (s.setBay b v).mem = s.mem := rfl
@[simp] theorem State.setBay_poison (s : State) (b : Nat) (v : Bay) : (s.setBay b v).poison = s.poison := rfl
@[simp] theorem State.setBay_staging (s : State) (b : Nat) (v : Bay) : (s.setBay b v).staging = s.staging := rfl
@[simp] theorem State.setBay_clk (s : State) (b : Nat) (v : Bay) : (s.setBay b v).clk = s.clk := rfl
@[simp] theorem State.setBay_brd (s : State) (b : Nat) (v : Bay) : (s.setBay b v).brd = s.brd := rfl
@[simp] theorem State.setBay_flash (s : State) (b : Nat) (v : Bay) : (s.setBay b v).flash = s.flash := rfl
@[simp] theorem State.setBay_boot (s : State) (b : Nat) (v : Bay) : (s.setBay b v).boot = s.boot := rfl
@[simp] theorem State.setBay_hp (s : State) (b : Nat) (v : Bay) : (s.setBay b v).hp = s.hp := rfl
@[simp] theorem State.setBay_mb (s : State) (b : Nat) (v : Bay) : (s.setBay b v).mb = s.mb := rfl
@[simp] theorem State.setBay_ck (s : State) (b : Nat) (v : Bay) : (s.setBay b v).ck = s.ck := rfl
@[simp] theorem State.setBay_stackTab (s : State) (b : Nat) (v : Bay) : (s.setBay b v).stackTab = s.stackTab := rfl
@[simp] theorem State.setBay_ostlers (s : State) (b : Nat) (v : Bay) : (s.setBay b v).ostlers = s.ostlers := rfl
@[simp] theorem State.setBay_ostSel (s : State) (b : Nat) (v : Bay) : (s.setBay b v).ostSel = s.ostSel := rfl
@[simp] theorem State.setBay_ab (s : State) (b : Nat) (v : Bay) : (s.setBay b v).ab = s.ab := rfl
@[simp] theorem State.setBay_tal (s : State) (b : Nat) (v : Bay) : (s.setBay b v).tal = s.tal := rfl
@[simp] theorem State.setBay_dies (s : State) (b : Nat) (v : Bay) : (s.setBay b v).dies = s.dies := rfl
@[simp] theorem State.setBay_millerHalf (s : State) (b : Nat) (v : Bay) : (s.setBay b v).millerHalf = s.millerHalf := rfl
@[simp] theorem State.setBay_pw (s : State) (b : Nat) (v : Bay) : (s.setBay b v).pw = s.pw := rfl
@[simp] theorem State.setBay_refusals (s : State) (b : Nat) (v : Bay) : (s.setBay b v).refusals = s.refusals := rfl
@[simp] theorem State.setBay_logTotal (s : State) (b : Nat) (v : Bay) : (s.setBay b v).logTotal = s.logTotal := rfl
@[simp] theorem State.setBay_units (s : State) (b : Nat) (v : Bay) : (s.setBay b v).units = s.units := rfl
@[simp] theorem State.setBay_capsules (s : State) (b : Nat) (v : Bay) : (s.setBay b v).capsules = s.capsules := rfl
@[simp] theorem State.setBay_mg (s : State) (b : Nat) (v : Bay) : (s.setBay b v).mg = s.mg := rfl

/-! ### setDie -/

@[simp] theorem State.setDie_pending (s : State) (d : Nat) (v : Die) : (s.setDie d v).pending = s.pending := rfl
@[simp] theorem State.setDie_freeCtr (s : State) (d : Nat) (v : Die) : (s.setDie d v).freeCtr = s.freeCtr := rfl
@[simp] theorem State.setDie_resp (s : State) (d : Nat) (v : Die) : (s.setDie d v).resp = s.resp := rfl
@[simp] theorem State.setDie_respPoison (s : State) (d : Nat) (v : Die) : (s.setDie d v).respPoison = s.respPoison := rfl
@[simp] theorem State.setDie_out (s : State) (d : Nat) (v : Die) : (s.setDie d v).out = s.out := rfl
@[simp] theorem State.setDie_hostMem (s : State) (d : Nat) (v : Die) : (s.setDie d v).hostMem = s.hostMem := rfl
@[simp] theorem State.setDie_mem (s : State) (d : Nat) (v : Die) : (s.setDie d v).mem = s.mem := rfl
@[simp] theorem State.setDie_poison (s : State) (d : Nat) (v : Die) : (s.setDie d v).poison = s.poison := rfl
@[simp] theorem State.setDie_staging (s : State) (d : Nat) (v : Die) : (s.setDie d v).staging = s.staging := rfl
@[simp] theorem State.setDie_clk (s : State) (d : Nat) (v : Die) : (s.setDie d v).clk = s.clk := rfl
@[simp] theorem State.setDie_brd (s : State) (d : Nat) (v : Die) : (s.setDie d v).brd = s.brd := rfl
@[simp] theorem State.setDie_flash (s : State) (d : Nat) (v : Die) : (s.setDie d v).flash = s.flash := rfl
@[simp] theorem State.setDie_boot (s : State) (d : Nat) (v : Die) : (s.setDie d v).boot = s.boot := rfl
@[simp] theorem State.setDie_hp (s : State) (d : Nat) (v : Die) : (s.setDie d v).hp = s.hp := rfl
@[simp] theorem State.setDie_mb (s : State) (d : Nat) (v : Die) : (s.setDie d v).mb = s.mb := rfl
@[simp] theorem State.setDie_ck (s : State) (d : Nat) (v : Die) : (s.setDie d v).ck = s.ck := rfl
@[simp] theorem State.setDie_stackTab (s : State) (d : Nat) (v : Die) : (s.setDie d v).stackTab = s.stackTab := rfl
@[simp] theorem State.setDie_ostlers (s : State) (d : Nat) (v : Die) : (s.setDie d v).ostlers = s.ostlers := rfl
@[simp] theorem State.setDie_ostSel (s : State) (d : Nat) (v : Die) : (s.setDie d v).ostSel = s.ostSel := rfl
@[simp] theorem State.setDie_ab (s : State) (d : Nat) (v : Die) : (s.setDie d v).ab = s.ab := rfl
@[simp] theorem State.setDie_tal (s : State) (d : Nat) (v : Die) : (s.setDie d v).tal = s.tal := rfl
@[simp] theorem State.setDie_bays (s : State) (d : Nat) (v : Die) : (s.setDie d v).bays = s.bays := rfl
@[simp] theorem State.setDie_millerHalf (s : State) (d : Nat) (v : Die) : (s.setDie d v).millerHalf = s.millerHalf := rfl
@[simp] theorem State.setDie_pw (s : State) (d : Nat) (v : Die) : (s.setDie d v).pw = s.pw := rfl
@[simp] theorem State.setDie_refusals (s : State) (d : Nat) (v : Die) : (s.setDie d v).refusals = s.refusals := rfl
@[simp] theorem State.setDie_logTotal (s : State) (d : Nat) (v : Die) : (s.setDie d v).logTotal = s.logTotal := rfl
@[simp] theorem State.setDie_units (s : State) (d : Nat) (v : Die) : (s.setDie d v).units = s.units := rfl
@[simp] theorem State.setDie_capsules (s : State) (d : Nat) (v : Die) : (s.setDie d v).capsules = s.capsules := rfl
@[simp] theorem State.setDie_mg (s : State) (d : Nat) (v : Die) : (s.setDie d v).mg = s.mg := rfl

/-! ### setStack -/

@[simp] theorem State.setStack_pending (s : State) (k : Nat) (v : Stack) : (s.setStack k v).pending = s.pending := rfl
@[simp] theorem State.setStack_freeCtr (s : State) (k : Nat) (v : Stack) : (s.setStack k v).freeCtr = s.freeCtr := rfl
@[simp] theorem State.setStack_resp (s : State) (k : Nat) (v : Stack) : (s.setStack k v).resp = s.resp := rfl
@[simp] theorem State.setStack_respPoison (s : State) (k : Nat) (v : Stack) : (s.setStack k v).respPoison = s.respPoison := rfl
@[simp] theorem State.setStack_out (s : State) (k : Nat) (v : Stack) : (s.setStack k v).out = s.out := rfl
@[simp] theorem State.setStack_hostMem (s : State) (k : Nat) (v : Stack) : (s.setStack k v).hostMem = s.hostMem := rfl
@[simp] theorem State.setStack_mem (s : State) (k : Nat) (v : Stack) : (s.setStack k v).mem = s.mem := rfl
@[simp] theorem State.setStack_poison (s : State) (k : Nat) (v : Stack) : (s.setStack k v).poison = s.poison := rfl
@[simp] theorem State.setStack_staging (s : State) (k : Nat) (v : Stack) : (s.setStack k v).staging = s.staging := rfl
@[simp] theorem State.setStack_clk (s : State) (k : Nat) (v : Stack) : (s.setStack k v).clk = s.clk := rfl
@[simp] theorem State.setStack_brd (s : State) (k : Nat) (v : Stack) : (s.setStack k v).brd = s.brd := rfl
@[simp] theorem State.setStack_flash (s : State) (k : Nat) (v : Stack) : (s.setStack k v).flash = s.flash := rfl
@[simp] theorem State.setStack_boot (s : State) (k : Nat) (v : Stack) : (s.setStack k v).boot = s.boot := rfl
@[simp] theorem State.setStack_hp (s : State) (k : Nat) (v : Stack) : (s.setStack k v).hp = s.hp := rfl
@[simp] theorem State.setStack_mb (s : State) (k : Nat) (v : Stack) : (s.setStack k v).mb = s.mb := rfl
@[simp] theorem State.setStack_ck (s : State) (k : Nat) (v : Stack) : (s.setStack k v).ck = s.ck := rfl
@[simp] theorem State.setStack_ostlers (s : State) (k : Nat) (v : Stack) : (s.setStack k v).ostlers = s.ostlers := rfl
@[simp] theorem State.setStack_ostSel (s : State) (k : Nat) (v : Stack) : (s.setStack k v).ostSel = s.ostSel := rfl
@[simp] theorem State.setStack_ab (s : State) (k : Nat) (v : Stack) : (s.setStack k v).ab = s.ab := rfl
@[simp] theorem State.setStack_tal (s : State) (k : Nat) (v : Stack) : (s.setStack k v).tal = s.tal := rfl
@[simp] theorem State.setStack_dies (s : State) (k : Nat) (v : Stack) : (s.setStack k v).dies = s.dies := rfl
@[simp] theorem State.setStack_bays (s : State) (k : Nat) (v : Stack) : (s.setStack k v).bays = s.bays := rfl
@[simp] theorem State.setStack_millerHalf (s : State) (k : Nat) (v : Stack) : (s.setStack k v).millerHalf = s.millerHalf := rfl
@[simp] theorem State.setStack_pw (s : State) (k : Nat) (v : Stack) : (s.setStack k v).pw = s.pw := rfl
@[simp] theorem State.setStack_refusals (s : State) (k : Nat) (v : Stack) : (s.setStack k v).refusals = s.refusals := rfl
@[simp] theorem State.setStack_logTotal (s : State) (k : Nat) (v : Stack) : (s.setStack k v).logTotal = s.logTotal := rfl
@[simp] theorem State.setStack_units (s : State) (k : Nat) (v : Stack) : (s.setStack k v).units = s.units := rfl
@[simp] theorem State.setStack_capsules (s : State) (k : Nat) (v : Stack) : (s.setStack k v).capsules = s.capsules := rfl
@[simp] theorem State.setStack_mg (s : State) (k : Nat) (v : Stack) : (s.setStack k v).mg = s.mg := rfl

/-! ### setOstler -/

@[simp] theorem State.setOstler_pending (s : State) (o : Nat) (v : Ostler) : (s.setOstler o v).pending = s.pending := rfl
@[simp] theorem State.setOstler_freeCtr (s : State) (o : Nat) (v : Ostler) : (s.setOstler o v).freeCtr = s.freeCtr := rfl
@[simp] theorem State.setOstler_resp (s : State) (o : Nat) (v : Ostler) : (s.setOstler o v).resp = s.resp := rfl
@[simp] theorem State.setOstler_respPoison (s : State) (o : Nat) (v : Ostler) : (s.setOstler o v).respPoison = s.respPoison := rfl
@[simp] theorem State.setOstler_out (s : State) (o : Nat) (v : Ostler) : (s.setOstler o v).out = s.out := rfl
@[simp] theorem State.setOstler_hostMem (s : State) (o : Nat) (v : Ostler) : (s.setOstler o v).hostMem = s.hostMem := rfl
@[simp] theorem State.setOstler_mem (s : State) (o : Nat) (v : Ostler) : (s.setOstler o v).mem = s.mem := rfl
@[simp] theorem State.setOstler_poison (s : State) (o : Nat) (v : Ostler) : (s.setOstler o v).poison = s.poison := rfl
@[simp] theorem State.setOstler_staging (s : State) (o : Nat) (v : Ostler) : (s.setOstler o v).staging = s.staging := rfl
@[simp] theorem State.setOstler_clk (s : State) (o : Nat) (v : Ostler) : (s.setOstler o v).clk = s.clk := rfl
@[simp] theorem State.setOstler_brd (s : State) (o : Nat) (v : Ostler) : (s.setOstler o v).brd = s.brd := rfl
@[simp] theorem State.setOstler_flash (s : State) (o : Nat) (v : Ostler) : (s.setOstler o v).flash = s.flash := rfl
@[simp] theorem State.setOstler_boot (s : State) (o : Nat) (v : Ostler) : (s.setOstler o v).boot = s.boot := rfl
@[simp] theorem State.setOstler_hp (s : State) (o : Nat) (v : Ostler) : (s.setOstler o v).hp = s.hp := rfl
@[simp] theorem State.setOstler_mb (s : State) (o : Nat) (v : Ostler) : (s.setOstler o v).mb = s.mb := rfl
@[simp] theorem State.setOstler_ck (s : State) (o : Nat) (v : Ostler) : (s.setOstler o v).ck = s.ck := rfl
@[simp] theorem State.setOstler_stackTab (s : State) (o : Nat) (v : Ostler) : (s.setOstler o v).stackTab = s.stackTab := rfl
@[simp] theorem State.setOstler_ostSel (s : State) (o : Nat) (v : Ostler) : (s.setOstler o v).ostSel = s.ostSel := rfl
@[simp] theorem State.setOstler_ab (s : State) (o : Nat) (v : Ostler) : (s.setOstler o v).ab = s.ab := rfl
@[simp] theorem State.setOstler_tal (s : State) (o : Nat) (v : Ostler) : (s.setOstler o v).tal = s.tal := rfl
@[simp] theorem State.setOstler_dies (s : State) (o : Nat) (v : Ostler) : (s.setOstler o v).dies = s.dies := rfl
@[simp] theorem State.setOstler_bays (s : State) (o : Nat) (v : Ostler) : (s.setOstler o v).bays = s.bays := rfl
@[simp] theorem State.setOstler_millerHalf (s : State) (o : Nat) (v : Ostler) : (s.setOstler o v).millerHalf = s.millerHalf := rfl
@[simp] theorem State.setOstler_pw (s : State) (o : Nat) (v : Ostler) : (s.setOstler o v).pw = s.pw := rfl
@[simp] theorem State.setOstler_refusals (s : State) (o : Nat) (v : Ostler) : (s.setOstler o v).refusals = s.refusals := rfl
@[simp] theorem State.setOstler_logTotal (s : State) (o : Nat) (v : Ostler) : (s.setOstler o v).logTotal = s.logTotal := rfl
@[simp] theorem State.setOstler_units (s : State) (o : Nat) (v : Ostler) : (s.setOstler o v).units = s.units := rfl
@[simp] theorem State.setOstler_capsules (s : State) (o : Nat) (v : Ostler) : (s.setOstler o v).capsules = s.capsules := rfl
@[simp] theorem State.setOstler_mg (s : State) (o : Nat) (v : Ostler) : (s.setOstler o v).mg = s.mg := rfl

/-! ### setPower -/

@[simp] theorem State.setPower_pending (s : State) (u : Nat) (v : Power) : (s.setPower u v).pending = s.pending := rfl
@[simp] theorem State.setPower_freeCtr (s : State) (u : Nat) (v : Power) : (s.setPower u v).freeCtr = s.freeCtr := rfl
@[simp] theorem State.setPower_resp (s : State) (u : Nat) (v : Power) : (s.setPower u v).resp = s.resp := rfl
@[simp] theorem State.setPower_respPoison (s : State) (u : Nat) (v : Power) : (s.setPower u v).respPoison = s.respPoison := rfl
@[simp] theorem State.setPower_out (s : State) (u : Nat) (v : Power) : (s.setPower u v).out = s.out := rfl
@[simp] theorem State.setPower_hostMem (s : State) (u : Nat) (v : Power) : (s.setPower u v).hostMem = s.hostMem := rfl
@[simp] theorem State.setPower_mem (s : State) (u : Nat) (v : Power) : (s.setPower u v).mem = s.mem := rfl
@[simp] theorem State.setPower_poison (s : State) (u : Nat) (v : Power) : (s.setPower u v).poison = s.poison := rfl
@[simp] theorem State.setPower_staging (s : State) (u : Nat) (v : Power) : (s.setPower u v).staging = s.staging := rfl
@[simp] theorem State.setPower_clk (s : State) (u : Nat) (v : Power) : (s.setPower u v).clk = s.clk := rfl
@[simp] theorem State.setPower_brd (s : State) (u : Nat) (v : Power) : (s.setPower u v).brd = s.brd := rfl
@[simp] theorem State.setPower_flash (s : State) (u : Nat) (v : Power) : (s.setPower u v).flash = s.flash := rfl
@[simp] theorem State.setPower_boot (s : State) (u : Nat) (v : Power) : (s.setPower u v).boot = s.boot := rfl
@[simp] theorem State.setPower_hp (s : State) (u : Nat) (v : Power) : (s.setPower u v).hp = s.hp := rfl
@[simp] theorem State.setPower_mb (s : State) (u : Nat) (v : Power) : (s.setPower u v).mb = s.mb := rfl
@[simp] theorem State.setPower_ck (s : State) (u : Nat) (v : Power) : (s.setPower u v).ck = s.ck := rfl
@[simp] theorem State.setPower_stackTab (s : State) (u : Nat) (v : Power) : (s.setPower u v).stackTab = s.stackTab := rfl
@[simp] theorem State.setPower_ostlers (s : State) (u : Nat) (v : Power) : (s.setPower u v).ostlers = s.ostlers := rfl
@[simp] theorem State.setPower_ostSel (s : State) (u : Nat) (v : Power) : (s.setPower u v).ostSel = s.ostSel := rfl
@[simp] theorem State.setPower_ab (s : State) (u : Nat) (v : Power) : (s.setPower u v).ab = s.ab := rfl
@[simp] theorem State.setPower_tal (s : State) (u : Nat) (v : Power) : (s.setPower u v).tal = s.tal := rfl
@[simp] theorem State.setPower_dies (s : State) (u : Nat) (v : Power) : (s.setPower u v).dies = s.dies := rfl
@[simp] theorem State.setPower_bays (s : State) (u : Nat) (v : Power) : (s.setPower u v).bays = s.bays := rfl
@[simp] theorem State.setPower_millerHalf (s : State) (u : Nat) (v : Power) : (s.setPower u v).millerHalf = s.millerHalf := rfl
@[simp] theorem State.setPower_refusals (s : State) (u : Nat) (v : Power) : (s.setPower u v).refusals = s.refusals := rfl
@[simp] theorem State.setPower_logTotal (s : State) (u : Nat) (v : Power) : (s.setPower u v).logTotal = s.logTotal := rfl
@[simp] theorem State.setPower_units (s : State) (u : Nat) (v : Power) : (s.setPower u v).units = s.units := rfl
@[simp] theorem State.setPower_capsules (s : State) (u : Nat) (v : Power) : (s.setPower u v).capsules = s.capsules := rfl
@[simp] theorem State.setPower_mg (s : State) (u : Nat) (v : Power) : (s.setPower u v).mg = s.mg := rfl

/-! ### setUnit -/

@[simp] theorem State.setUnit_pending (s : State) (u : Nat) (v : UnitState) : (s.setUnit u v).pending = s.pending := rfl
@[simp] theorem State.setUnit_freeCtr (s : State) (u : Nat) (v : UnitState) : (s.setUnit u v).freeCtr = s.freeCtr := rfl
@[simp] theorem State.setUnit_resp (s : State) (u : Nat) (v : UnitState) : (s.setUnit u v).resp = s.resp := rfl
@[simp] theorem State.setUnit_respPoison (s : State) (u : Nat) (v : UnitState) : (s.setUnit u v).respPoison = s.respPoison := rfl
@[simp] theorem State.setUnit_out (s : State) (u : Nat) (v : UnitState) : (s.setUnit u v).out = s.out := rfl
@[simp] theorem State.setUnit_hostMem (s : State) (u : Nat) (v : UnitState) : (s.setUnit u v).hostMem = s.hostMem := rfl
@[simp] theorem State.setUnit_mem (s : State) (u : Nat) (v : UnitState) : (s.setUnit u v).mem = s.mem := rfl
@[simp] theorem State.setUnit_poison (s : State) (u : Nat) (v : UnitState) : (s.setUnit u v).poison = s.poison := rfl
@[simp] theorem State.setUnit_staging (s : State) (u : Nat) (v : UnitState) : (s.setUnit u v).staging = s.staging := rfl
@[simp] theorem State.setUnit_clk (s : State) (u : Nat) (v : UnitState) : (s.setUnit u v).clk = s.clk := rfl
@[simp] theorem State.setUnit_brd (s : State) (u : Nat) (v : UnitState) : (s.setUnit u v).brd = s.brd := rfl
@[simp] theorem State.setUnit_flash (s : State) (u : Nat) (v : UnitState) : (s.setUnit u v).flash = s.flash := rfl
@[simp] theorem State.setUnit_boot (s : State) (u : Nat) (v : UnitState) : (s.setUnit u v).boot = s.boot := rfl
@[simp] theorem State.setUnit_hp (s : State) (u : Nat) (v : UnitState) : (s.setUnit u v).hp = s.hp := rfl
@[simp] theorem State.setUnit_mb (s : State) (u : Nat) (v : UnitState) : (s.setUnit u v).mb = s.mb := rfl
@[simp] theorem State.setUnit_ck (s : State) (u : Nat) (v : UnitState) : (s.setUnit u v).ck = s.ck := rfl
@[simp] theorem State.setUnit_stackTab (s : State) (u : Nat) (v : UnitState) : (s.setUnit u v).stackTab = s.stackTab := rfl
@[simp] theorem State.setUnit_ostlers (s : State) (u : Nat) (v : UnitState) : (s.setUnit u v).ostlers = s.ostlers := rfl
@[simp] theorem State.setUnit_ostSel (s : State) (u : Nat) (v : UnitState) : (s.setUnit u v).ostSel = s.ostSel := rfl
@[simp] theorem State.setUnit_ab (s : State) (u : Nat) (v : UnitState) : (s.setUnit u v).ab = s.ab := rfl
@[simp] theorem State.setUnit_tal (s : State) (u : Nat) (v : UnitState) : (s.setUnit u v).tal = s.tal := rfl
@[simp] theorem State.setUnit_dies (s : State) (u : Nat) (v : UnitState) : (s.setUnit u v).dies = s.dies := rfl
@[simp] theorem State.setUnit_bays (s : State) (u : Nat) (v : UnitState) : (s.setUnit u v).bays = s.bays := rfl
@[simp] theorem State.setUnit_millerHalf (s : State) (u : Nat) (v : UnitState) : (s.setUnit u v).millerHalf = s.millerHalf := rfl
@[simp] theorem State.setUnit_pw (s : State) (u : Nat) (v : UnitState) : (s.setUnit u v).pw = s.pw := rfl
@[simp] theorem State.setUnit_refusals (s : State) (u : Nat) (v : UnitState) : (s.setUnit u v).refusals = s.refusals := rfl
@[simp] theorem State.setUnit_logTotal (s : State) (u : Nat) (v : UnitState) : (s.setUnit u v).logTotal = s.logTotal := rfl
@[simp] theorem State.setUnit_capsules (s : State) (u : Nat) (v : UnitState) : (s.setUnit u v).capsules = s.capsules := rfl
@[simp] theorem State.setUnit_mg (s : State) (u : Nat) (v : UnitState) : (s.setUnit u v).mg = s.mg := rfl

/-! ### setStall -/

@[simp] theorem State.setStall_pending (s : State) (k : Nat) (v : Option Stall) : (s.setStall k v).pending = s.pending := rfl
@[simp] theorem State.setStall_freeCtr (s : State) (k : Nat) (v : Option Stall) : (s.setStall k v).freeCtr = s.freeCtr := rfl
@[simp] theorem State.setStall_resp (s : State) (k : Nat) (v : Option Stall) : (s.setStall k v).resp = s.resp := rfl
@[simp] theorem State.setStall_respPoison (s : State) (k : Nat) (v : Option Stall) : (s.setStall k v).respPoison = s.respPoison := rfl
@[simp] theorem State.setStall_out (s : State) (k : Nat) (v : Option Stall) : (s.setStall k v).out = s.out := rfl
@[simp] theorem State.setStall_hostMem (s : State) (k : Nat) (v : Option Stall) : (s.setStall k v).hostMem = s.hostMem := rfl
@[simp] theorem State.setStall_mem (s : State) (k : Nat) (v : Option Stall) : (s.setStall k v).mem = s.mem := rfl
@[simp] theorem State.setStall_poison (s : State) (k : Nat) (v : Option Stall) : (s.setStall k v).poison = s.poison := rfl
@[simp] theorem State.setStall_staging (s : State) (k : Nat) (v : Option Stall) : (s.setStall k v).staging = s.staging := rfl
@[simp] theorem State.setStall_clk (s : State) (k : Nat) (v : Option Stall) : (s.setStall k v).clk = s.clk := rfl
@[simp] theorem State.setStall_brd (s : State) (k : Nat) (v : Option Stall) : (s.setStall k v).brd = s.brd := rfl
@[simp] theorem State.setStall_flash (s : State) (k : Nat) (v : Option Stall) : (s.setStall k v).flash = s.flash := rfl
@[simp] theorem State.setStall_boot (s : State) (k : Nat) (v : Option Stall) : (s.setStall k v).boot = s.boot := rfl
@[simp] theorem State.setStall_hp (s : State) (k : Nat) (v : Option Stall) : (s.setStall k v).hp = s.hp := rfl
@[simp] theorem State.setStall_mb (s : State) (k : Nat) (v : Option Stall) : (s.setStall k v).mb = s.mb := rfl
@[simp] theorem State.setStall_stackTab (s : State) (k : Nat) (v : Option Stall) : (s.setStall k v).stackTab = s.stackTab := rfl
@[simp] theorem State.setStall_ostlers (s : State) (k : Nat) (v : Option Stall) : (s.setStall k v).ostlers = s.ostlers := rfl
@[simp] theorem State.setStall_ostSel (s : State) (k : Nat) (v : Option Stall) : (s.setStall k v).ostSel = s.ostSel := rfl
@[simp] theorem State.setStall_ab (s : State) (k : Nat) (v : Option Stall) : (s.setStall k v).ab = s.ab := rfl
@[simp] theorem State.setStall_tal (s : State) (k : Nat) (v : Option Stall) : (s.setStall k v).tal = s.tal := rfl
@[simp] theorem State.setStall_dies (s : State) (k : Nat) (v : Option Stall) : (s.setStall k v).dies = s.dies := rfl
@[simp] theorem State.setStall_bays (s : State) (k : Nat) (v : Option Stall) : (s.setStall k v).bays = s.bays := rfl
@[simp] theorem State.setStall_millerHalf (s : State) (k : Nat) (v : Option Stall) : (s.setStall k v).millerHalf = s.millerHalf := rfl
@[simp] theorem State.setStall_pw (s : State) (k : Nat) (v : Option Stall) : (s.setStall k v).pw = s.pw := rfl
@[simp] theorem State.setStall_refusals (s : State) (k : Nat) (v : Option Stall) : (s.setStall k v).refusals = s.refusals := rfl
@[simp] theorem State.setStall_logTotal (s : State) (k : Nat) (v : Option Stall) : (s.setStall k v).logTotal = s.logTotal := rfl
@[simp] theorem State.setStall_units (s : State) (k : Nat) (v : Option Stall) : (s.setStall k v).units = s.units := rfl
@[simp] theorem State.setStall_capsules (s : State) (k : Nat) (v : Option Stall) : (s.setStall k v).capsules = s.capsules := rfl
@[simp] theorem State.setStall_mg (s : State) (k : Nat) (v : Option Stall) : (s.setStall k v).mg = s.mg := rfl
@[simp] theorem State.setStall_ck_queues (s : State) (k : Nat) (v : Option Stall) : (s.setStall k v).ck.queues = s.ck.queues := rfl
@[simp] theorem State.setStall_ck_cmds (s : State) (k : Nat) (v : Option Stall) : (s.setStall k v).ck.cmds = s.ck.cmds := rfl
@[simp] theorem State.setStall_ck_nextCmd (s : State) (k : Nat) (v : Option Stall) : (s.setStall k v).ck.nextCmd = s.ck.nextCmd := rfl
@[simp] theorem State.setStall_ck_svc (s : State) (k : Nat) (v : Option Stall) : (s.setStall k v).ck.svc = s.ck.svc := rfl
@[simp] theorem State.setStall_ck_claims (s : State) (k : Nat) (v : Option Stall) : (s.setStall k v).ck.claims = s.ck.claims := rfl
@[simp] theorem State.setStall_ck_rounds (s : State) (k : Nat) (v : Option Stall) : (s.setStall k v).ck.rounds = s.ck.rounds := rfl
@[simp] theorem State.setStall_ck_dropped (s : State) (k : Nat) (v : Option Stall) : (s.setStall k v).ck.dropped = s.ck.dropped := rfl
@[simp] theorem State.setStall_ck_vers (s : State) (k : Nat) (v : Option Stall) : (s.setStall k v).ck.vers = s.ck.vers := rfl
@[simp] theorem State.setStall_ck_lrec (s : State) (k : Nat) (v : Option Stall) : (s.setStall k v).ck.lrec = s.ck.lrec := rfl
@[simp] theorem State.setStall_ck_pubs (s : State) (k : Nat) (v : Option Stall) : (s.setStall k v).ck.pubs = s.ck.pubs := rfl
@[simp] theorem State.setStall_ck_owner (s : State) (k : Nat) (v : Option Stall) : (s.setStall k v).ck.owner = s.ck.owner := rfl
@[simp] theorem State.setStall_ck_heldClaim (s : State) (k : Nat) (v : Option Stall) : (s.setStall k v).ck.heldClaim = s.ck.heldClaim := rfl
@[simp] theorem State.setStall_ck_quiescing (s : State) (k : Nat) (v : Option Stall) : (s.setStall k v).ck.quiescing = s.ck.quiescing := rfl

/-! ### setRound -/

@[simp] theorem State.setRound_pending (s : State) (r : Nat) (v : Option Round) : (s.setRound r v).pending = s.pending := rfl
@[simp] theorem State.setRound_freeCtr (s : State) (r : Nat) (v : Option Round) : (s.setRound r v).freeCtr = s.freeCtr := rfl
@[simp] theorem State.setRound_resp (s : State) (r : Nat) (v : Option Round) : (s.setRound r v).resp = s.resp := rfl
@[simp] theorem State.setRound_respPoison (s : State) (r : Nat) (v : Option Round) : (s.setRound r v).respPoison = s.respPoison := rfl
@[simp] theorem State.setRound_out (s : State) (r : Nat) (v : Option Round) : (s.setRound r v).out = s.out := rfl
@[simp] theorem State.setRound_hostMem (s : State) (r : Nat) (v : Option Round) : (s.setRound r v).hostMem = s.hostMem := rfl
@[simp] theorem State.setRound_mem (s : State) (r : Nat) (v : Option Round) : (s.setRound r v).mem = s.mem := rfl
@[simp] theorem State.setRound_poison (s : State) (r : Nat) (v : Option Round) : (s.setRound r v).poison = s.poison := rfl
@[simp] theorem State.setRound_staging (s : State) (r : Nat) (v : Option Round) : (s.setRound r v).staging = s.staging := rfl
@[simp] theorem State.setRound_clk (s : State) (r : Nat) (v : Option Round) : (s.setRound r v).clk = s.clk := rfl
@[simp] theorem State.setRound_brd (s : State) (r : Nat) (v : Option Round) : (s.setRound r v).brd = s.brd := rfl
@[simp] theorem State.setRound_flash (s : State) (r : Nat) (v : Option Round) : (s.setRound r v).flash = s.flash := rfl
@[simp] theorem State.setRound_boot (s : State) (r : Nat) (v : Option Round) : (s.setRound r v).boot = s.boot := rfl
@[simp] theorem State.setRound_hp (s : State) (r : Nat) (v : Option Round) : (s.setRound r v).hp = s.hp := rfl
@[simp] theorem State.setRound_mb (s : State) (r : Nat) (v : Option Round) : (s.setRound r v).mb = s.mb := rfl
@[simp] theorem State.setRound_stackTab (s : State) (r : Nat) (v : Option Round) : (s.setRound r v).stackTab = s.stackTab := rfl
@[simp] theorem State.setRound_ostlers (s : State) (r : Nat) (v : Option Round) : (s.setRound r v).ostlers = s.ostlers := rfl
@[simp] theorem State.setRound_ostSel (s : State) (r : Nat) (v : Option Round) : (s.setRound r v).ostSel = s.ostSel := rfl
@[simp] theorem State.setRound_ab (s : State) (r : Nat) (v : Option Round) : (s.setRound r v).ab = s.ab := rfl
@[simp] theorem State.setRound_tal (s : State) (r : Nat) (v : Option Round) : (s.setRound r v).tal = s.tal := rfl
@[simp] theorem State.setRound_dies (s : State) (r : Nat) (v : Option Round) : (s.setRound r v).dies = s.dies := rfl
@[simp] theorem State.setRound_bays (s : State) (r : Nat) (v : Option Round) : (s.setRound r v).bays = s.bays := rfl
@[simp] theorem State.setRound_millerHalf (s : State) (r : Nat) (v : Option Round) : (s.setRound r v).millerHalf = s.millerHalf := rfl
@[simp] theorem State.setRound_pw (s : State) (r : Nat) (v : Option Round) : (s.setRound r v).pw = s.pw := rfl
@[simp] theorem State.setRound_refusals (s : State) (r : Nat) (v : Option Round) : (s.setRound r v).refusals = s.refusals := rfl
@[simp] theorem State.setRound_logTotal (s : State) (r : Nat) (v : Option Round) : (s.setRound r v).logTotal = s.logTotal := rfl
@[simp] theorem State.setRound_units (s : State) (r : Nat) (v : Option Round) : (s.setRound r v).units = s.units := rfl
@[simp] theorem State.setRound_capsules (s : State) (r : Nat) (v : Option Round) : (s.setRound r v).capsules = s.capsules := rfl
@[simp] theorem State.setRound_mg (s : State) (r : Nat) (v : Option Round) : (s.setRound r v).mg = s.mg := rfl
@[simp] theorem State.setRound_ck_queues (s : State) (r : Nat) (v : Option Round) : (s.setRound r v).ck.queues = s.ck.queues := rfl
@[simp] theorem State.setRound_ck_cmds (s : State) (r : Nat) (v : Option Round) : (s.setRound r v).ck.cmds = s.ck.cmds := rfl
@[simp] theorem State.setRound_ck_nextCmd (s : State) (r : Nat) (v : Option Round) : (s.setRound r v).ck.nextCmd = s.ck.nextCmd := rfl
@[simp] theorem State.setRound_ck_stalls (s : State) (r : Nat) (v : Option Round) : (s.setRound r v).ck.stalls = s.ck.stalls := rfl
@[simp] theorem State.setRound_ck_svc (s : State) (r : Nat) (v : Option Round) : (s.setRound r v).ck.svc = s.ck.svc := rfl
@[simp] theorem State.setRound_ck_claims (s : State) (r : Nat) (v : Option Round) : (s.setRound r v).ck.claims = s.ck.claims := rfl
@[simp] theorem State.setRound_ck_dropped (s : State) (r : Nat) (v : Option Round) : (s.setRound r v).ck.dropped = s.ck.dropped := rfl
@[simp] theorem State.setRound_ck_vers (s : State) (r : Nat) (v : Option Round) : (s.setRound r v).ck.vers = s.ck.vers := rfl
@[simp] theorem State.setRound_ck_lrec (s : State) (r : Nat) (v : Option Round) : (s.setRound r v).ck.lrec = s.ck.lrec := rfl
@[simp] theorem State.setRound_ck_pubs (s : State) (r : Nat) (v : Option Round) : (s.setRound r v).ck.pubs = s.ck.pubs := rfl
@[simp] theorem State.setRound_ck_owner (s : State) (r : Nat) (v : Option Round) : (s.setRound r v).ck.owner = s.ck.owner := rfl
@[simp] theorem State.setRound_ck_heldClaim (s : State) (r : Nat) (v : Option Round) : (s.setRound r v).ck.heldClaim = s.ck.heldClaim := rfl
@[simp] theorem State.setRound_ck_quiescing (s : State) (r : Nat) (v : Option Round) : (s.setRound r v).ck.quiescing = s.ck.quiescing := rfl

/-! ### setVers -/

@[simp] theorem State.setVers_pending (s : State) (a : Nat) (v : Vers) : (s.setVers a v).pending = s.pending := rfl
@[simp] theorem State.setVers_freeCtr (s : State) (a : Nat) (v : Vers) : (s.setVers a v).freeCtr = s.freeCtr := rfl
@[simp] theorem State.setVers_resp (s : State) (a : Nat) (v : Vers) : (s.setVers a v).resp = s.resp := rfl
@[simp] theorem State.setVers_respPoison (s : State) (a : Nat) (v : Vers) : (s.setVers a v).respPoison = s.respPoison := rfl
@[simp] theorem State.setVers_out (s : State) (a : Nat) (v : Vers) : (s.setVers a v).out = s.out := rfl
@[simp] theorem State.setVers_hostMem (s : State) (a : Nat) (v : Vers) : (s.setVers a v).hostMem = s.hostMem := rfl
@[simp] theorem State.setVers_mem (s : State) (a : Nat) (v : Vers) : (s.setVers a v).mem = s.mem := rfl
@[simp] theorem State.setVers_poison (s : State) (a : Nat) (v : Vers) : (s.setVers a v).poison = s.poison := rfl
@[simp] theorem State.setVers_staging (s : State) (a : Nat) (v : Vers) : (s.setVers a v).staging = s.staging := rfl
@[simp] theorem State.setVers_clk (s : State) (a : Nat) (v : Vers) : (s.setVers a v).clk = s.clk := rfl
@[simp] theorem State.setVers_brd (s : State) (a : Nat) (v : Vers) : (s.setVers a v).brd = s.brd := rfl
@[simp] theorem State.setVers_flash (s : State) (a : Nat) (v : Vers) : (s.setVers a v).flash = s.flash := rfl
@[simp] theorem State.setVers_boot (s : State) (a : Nat) (v : Vers) : (s.setVers a v).boot = s.boot := rfl
@[simp] theorem State.setVers_hp (s : State) (a : Nat) (v : Vers) : (s.setVers a v).hp = s.hp := rfl
@[simp] theorem State.setVers_mb (s : State) (a : Nat) (v : Vers) : (s.setVers a v).mb = s.mb := rfl
@[simp] theorem State.setVers_stackTab (s : State) (a : Nat) (v : Vers) : (s.setVers a v).stackTab = s.stackTab := rfl
@[simp] theorem State.setVers_ostlers (s : State) (a : Nat) (v : Vers) : (s.setVers a v).ostlers = s.ostlers := rfl
@[simp] theorem State.setVers_ostSel (s : State) (a : Nat) (v : Vers) : (s.setVers a v).ostSel = s.ostSel := rfl
@[simp] theorem State.setVers_ab (s : State) (a : Nat) (v : Vers) : (s.setVers a v).ab = s.ab := rfl
@[simp] theorem State.setVers_tal (s : State) (a : Nat) (v : Vers) : (s.setVers a v).tal = s.tal := rfl
@[simp] theorem State.setVers_dies (s : State) (a : Nat) (v : Vers) : (s.setVers a v).dies = s.dies := rfl
@[simp] theorem State.setVers_bays (s : State) (a : Nat) (v : Vers) : (s.setVers a v).bays = s.bays := rfl
@[simp] theorem State.setVers_millerHalf (s : State) (a : Nat) (v : Vers) : (s.setVers a v).millerHalf = s.millerHalf := rfl
@[simp] theorem State.setVers_pw (s : State) (a : Nat) (v : Vers) : (s.setVers a v).pw = s.pw := rfl
@[simp] theorem State.setVers_refusals (s : State) (a : Nat) (v : Vers) : (s.setVers a v).refusals = s.refusals := rfl
@[simp] theorem State.setVers_logTotal (s : State) (a : Nat) (v : Vers) : (s.setVers a v).logTotal = s.logTotal := rfl
@[simp] theorem State.setVers_units (s : State) (a : Nat) (v : Vers) : (s.setVers a v).units = s.units := rfl
@[simp] theorem State.setVers_capsules (s : State) (a : Nat) (v : Vers) : (s.setVers a v).capsules = s.capsules := rfl
@[simp] theorem State.setVers_mg (s : State) (a : Nat) (v : Vers) : (s.setVers a v).mg = s.mg := rfl
@[simp] theorem State.setVers_ck_queues (s : State) (a : Nat) (v : Vers) : (s.setVers a v).ck.queues = s.ck.queues := rfl
@[simp] theorem State.setVers_ck_cmds (s : State) (a : Nat) (v : Vers) : (s.setVers a v).ck.cmds = s.ck.cmds := rfl
@[simp] theorem State.setVers_ck_nextCmd (s : State) (a : Nat) (v : Vers) : (s.setVers a v).ck.nextCmd = s.ck.nextCmd := rfl
@[simp] theorem State.setVers_ck_stalls (s : State) (a : Nat) (v : Vers) : (s.setVers a v).ck.stalls = s.ck.stalls := rfl
@[simp] theorem State.setVers_ck_svc (s : State) (a : Nat) (v : Vers) : (s.setVers a v).ck.svc = s.ck.svc := rfl
@[simp] theorem State.setVers_ck_claims (s : State) (a : Nat) (v : Vers) : (s.setVers a v).ck.claims = s.ck.claims := rfl
@[simp] theorem State.setVers_ck_rounds (s : State) (a : Nat) (v : Vers) : (s.setVers a v).ck.rounds = s.ck.rounds := rfl
@[simp] theorem State.setVers_ck_dropped (s : State) (a : Nat) (v : Vers) : (s.setVers a v).ck.dropped = s.ck.dropped := rfl
@[simp] theorem State.setVers_ck_lrec (s : State) (a : Nat) (v : Vers) : (s.setVers a v).ck.lrec = s.ck.lrec := rfl
@[simp] theorem State.setVers_ck_pubs (s : State) (a : Nat) (v : Vers) : (s.setVers a v).ck.pubs = s.ck.pubs := rfl
@[simp] theorem State.setVers_ck_owner (s : State) (a : Nat) (v : Vers) : (s.setVers a v).ck.owner = s.ck.owner := rfl
@[simp] theorem State.setVers_ck_heldClaim (s : State) (a : Nat) (v : Vers) : (s.setVers a v).ck.heldClaim = s.ck.heldClaim := rfl
@[simp] theorem State.setVers_ck_quiescing (s : State) (a : Nat) (v : Vers) : (s.setVers a v).ck.quiescing = s.ck.quiescing := rfl

/-! ### setLrec -/

@[simp] theorem State.setLrec_pending (s : State) (a : Nat) (v : Option LayerRO) : (s.setLrec a v).pending = s.pending := rfl
@[simp] theorem State.setLrec_freeCtr (s : State) (a : Nat) (v : Option LayerRO) : (s.setLrec a v).freeCtr = s.freeCtr := rfl
@[simp] theorem State.setLrec_resp (s : State) (a : Nat) (v : Option LayerRO) : (s.setLrec a v).resp = s.resp := rfl
@[simp] theorem State.setLrec_respPoison (s : State) (a : Nat) (v : Option LayerRO) : (s.setLrec a v).respPoison = s.respPoison := rfl
@[simp] theorem State.setLrec_out (s : State) (a : Nat) (v : Option LayerRO) : (s.setLrec a v).out = s.out := rfl
@[simp] theorem State.setLrec_hostMem (s : State) (a : Nat) (v : Option LayerRO) : (s.setLrec a v).hostMem = s.hostMem := rfl
@[simp] theorem State.setLrec_mem (s : State) (a : Nat) (v : Option LayerRO) : (s.setLrec a v).mem = s.mem := rfl
@[simp] theorem State.setLrec_poison (s : State) (a : Nat) (v : Option LayerRO) : (s.setLrec a v).poison = s.poison := rfl
@[simp] theorem State.setLrec_staging (s : State) (a : Nat) (v : Option LayerRO) : (s.setLrec a v).staging = s.staging := rfl
@[simp] theorem State.setLrec_clk (s : State) (a : Nat) (v : Option LayerRO) : (s.setLrec a v).clk = s.clk := rfl
@[simp] theorem State.setLrec_brd (s : State) (a : Nat) (v : Option LayerRO) : (s.setLrec a v).brd = s.brd := rfl
@[simp] theorem State.setLrec_flash (s : State) (a : Nat) (v : Option LayerRO) : (s.setLrec a v).flash = s.flash := rfl
@[simp] theorem State.setLrec_boot (s : State) (a : Nat) (v : Option LayerRO) : (s.setLrec a v).boot = s.boot := rfl
@[simp] theorem State.setLrec_hp (s : State) (a : Nat) (v : Option LayerRO) : (s.setLrec a v).hp = s.hp := rfl
@[simp] theorem State.setLrec_mb (s : State) (a : Nat) (v : Option LayerRO) : (s.setLrec a v).mb = s.mb := rfl
@[simp] theorem State.setLrec_stackTab (s : State) (a : Nat) (v : Option LayerRO) : (s.setLrec a v).stackTab = s.stackTab := rfl
@[simp] theorem State.setLrec_ostlers (s : State) (a : Nat) (v : Option LayerRO) : (s.setLrec a v).ostlers = s.ostlers := rfl
@[simp] theorem State.setLrec_ostSel (s : State) (a : Nat) (v : Option LayerRO) : (s.setLrec a v).ostSel = s.ostSel := rfl
@[simp] theorem State.setLrec_ab (s : State) (a : Nat) (v : Option LayerRO) : (s.setLrec a v).ab = s.ab := rfl
@[simp] theorem State.setLrec_tal (s : State) (a : Nat) (v : Option LayerRO) : (s.setLrec a v).tal = s.tal := rfl
@[simp] theorem State.setLrec_dies (s : State) (a : Nat) (v : Option LayerRO) : (s.setLrec a v).dies = s.dies := rfl
@[simp] theorem State.setLrec_bays (s : State) (a : Nat) (v : Option LayerRO) : (s.setLrec a v).bays = s.bays := rfl
@[simp] theorem State.setLrec_millerHalf (s : State) (a : Nat) (v : Option LayerRO) : (s.setLrec a v).millerHalf = s.millerHalf := rfl
@[simp] theorem State.setLrec_pw (s : State) (a : Nat) (v : Option LayerRO) : (s.setLrec a v).pw = s.pw := rfl
@[simp] theorem State.setLrec_refusals (s : State) (a : Nat) (v : Option LayerRO) : (s.setLrec a v).refusals = s.refusals := rfl
@[simp] theorem State.setLrec_logTotal (s : State) (a : Nat) (v : Option LayerRO) : (s.setLrec a v).logTotal = s.logTotal := rfl
@[simp] theorem State.setLrec_units (s : State) (a : Nat) (v : Option LayerRO) : (s.setLrec a v).units = s.units := rfl
@[simp] theorem State.setLrec_capsules (s : State) (a : Nat) (v : Option LayerRO) : (s.setLrec a v).capsules = s.capsules := rfl
@[simp] theorem State.setLrec_mg (s : State) (a : Nat) (v : Option LayerRO) : (s.setLrec a v).mg = s.mg := rfl
@[simp] theorem State.setLrec_ck_queues (s : State) (a : Nat) (v : Option LayerRO) : (s.setLrec a v).ck.queues = s.ck.queues := rfl
@[simp] theorem State.setLrec_ck_cmds (s : State) (a : Nat) (v : Option LayerRO) : (s.setLrec a v).ck.cmds = s.ck.cmds := rfl
@[simp] theorem State.setLrec_ck_nextCmd (s : State) (a : Nat) (v : Option LayerRO) : (s.setLrec a v).ck.nextCmd = s.ck.nextCmd := rfl
@[simp] theorem State.setLrec_ck_stalls (s : State) (a : Nat) (v : Option LayerRO) : (s.setLrec a v).ck.stalls = s.ck.stalls := rfl
@[simp] theorem State.setLrec_ck_svc (s : State) (a : Nat) (v : Option LayerRO) : (s.setLrec a v).ck.svc = s.ck.svc := rfl
@[simp] theorem State.setLrec_ck_claims (s : State) (a : Nat) (v : Option LayerRO) : (s.setLrec a v).ck.claims = s.ck.claims := rfl
@[simp] theorem State.setLrec_ck_rounds (s : State) (a : Nat) (v : Option LayerRO) : (s.setLrec a v).ck.rounds = s.ck.rounds := rfl
@[simp] theorem State.setLrec_ck_dropped (s : State) (a : Nat) (v : Option LayerRO) : (s.setLrec a v).ck.dropped = s.ck.dropped := rfl
@[simp] theorem State.setLrec_ck_vers (s : State) (a : Nat) (v : Option LayerRO) : (s.setLrec a v).ck.vers = s.ck.vers := rfl
@[simp] theorem State.setLrec_ck_pubs (s : State) (a : Nat) (v : Option LayerRO) : (s.setLrec a v).ck.pubs = s.ck.pubs := rfl
@[simp] theorem State.setLrec_ck_owner (s : State) (a : Nat) (v : Option LayerRO) : (s.setLrec a v).ck.owner = s.ck.owner := rfl
@[simp] theorem State.setLrec_ck_heldClaim (s : State) (a : Nat) (v : Option LayerRO) : (s.setLrec a v).ck.heldClaim = s.ck.heldClaim := rfl
@[simp] theorem State.setLrec_ck_quiescing (s : State) (a : Nat) (v : Option LayerRO) : (s.setLrec a v).ck.quiescing = s.ck.quiescing := rfl

/-! ### setCmd -/

@[simp] theorem State.setCmd_pending (s : State) (x : Cmd) : (s.setCmd x).pending = s.pending := rfl
@[simp] theorem State.setCmd_freeCtr (s : State) (x : Cmd) : (s.setCmd x).freeCtr = s.freeCtr := rfl
@[simp] theorem State.setCmd_resp (s : State) (x : Cmd) : (s.setCmd x).resp = s.resp := rfl
@[simp] theorem State.setCmd_respPoison (s : State) (x : Cmd) : (s.setCmd x).respPoison = s.respPoison := rfl
@[simp] theorem State.setCmd_out (s : State) (x : Cmd) : (s.setCmd x).out = s.out := rfl
@[simp] theorem State.setCmd_hostMem (s : State) (x : Cmd) : (s.setCmd x).hostMem = s.hostMem := rfl
@[simp] theorem State.setCmd_mem (s : State) (x : Cmd) : (s.setCmd x).mem = s.mem := rfl
@[simp] theorem State.setCmd_poison (s : State) (x : Cmd) : (s.setCmd x).poison = s.poison := rfl
@[simp] theorem State.setCmd_staging (s : State) (x : Cmd) : (s.setCmd x).staging = s.staging := rfl
@[simp] theorem State.setCmd_clk (s : State) (x : Cmd) : (s.setCmd x).clk = s.clk := rfl
@[simp] theorem State.setCmd_brd (s : State) (x : Cmd) : (s.setCmd x).brd = s.brd := rfl
@[simp] theorem State.setCmd_flash (s : State) (x : Cmd) : (s.setCmd x).flash = s.flash := rfl
@[simp] theorem State.setCmd_boot (s : State) (x : Cmd) : (s.setCmd x).boot = s.boot := rfl
@[simp] theorem State.setCmd_hp (s : State) (x : Cmd) : (s.setCmd x).hp = s.hp := rfl
@[simp] theorem State.setCmd_mb (s : State) (x : Cmd) : (s.setCmd x).mb = s.mb := rfl
@[simp] theorem State.setCmd_stackTab (s : State) (x : Cmd) : (s.setCmd x).stackTab = s.stackTab := rfl
@[simp] theorem State.setCmd_ostlers (s : State) (x : Cmd) : (s.setCmd x).ostlers = s.ostlers := rfl
@[simp] theorem State.setCmd_ostSel (s : State) (x : Cmd) : (s.setCmd x).ostSel = s.ostSel := rfl
@[simp] theorem State.setCmd_ab (s : State) (x : Cmd) : (s.setCmd x).ab = s.ab := rfl
@[simp] theorem State.setCmd_tal (s : State) (x : Cmd) : (s.setCmd x).tal = s.tal := rfl
@[simp] theorem State.setCmd_dies (s : State) (x : Cmd) : (s.setCmd x).dies = s.dies := rfl
@[simp] theorem State.setCmd_bays (s : State) (x : Cmd) : (s.setCmd x).bays = s.bays := rfl
@[simp] theorem State.setCmd_millerHalf (s : State) (x : Cmd) : (s.setCmd x).millerHalf = s.millerHalf := rfl
@[simp] theorem State.setCmd_pw (s : State) (x : Cmd) : (s.setCmd x).pw = s.pw := rfl
@[simp] theorem State.setCmd_refusals (s : State) (x : Cmd) : (s.setCmd x).refusals = s.refusals := rfl
@[simp] theorem State.setCmd_logTotal (s : State) (x : Cmd) : (s.setCmd x).logTotal = s.logTotal := rfl
@[simp] theorem State.setCmd_units (s : State) (x : Cmd) : (s.setCmd x).units = s.units := rfl
@[simp] theorem State.setCmd_capsules (s : State) (x : Cmd) : (s.setCmd x).capsules = s.capsules := rfl
@[simp] theorem State.setCmd_mg (s : State) (x : Cmd) : (s.setCmd x).mg = s.mg := rfl
@[simp] theorem State.setCmd_ck_queues (s : State) (x : Cmd) : (s.setCmd x).ck.queues = s.ck.queues := rfl
@[simp] theorem State.setCmd_ck_nextCmd (s : State) (x : Cmd) : (s.setCmd x).ck.nextCmd = s.ck.nextCmd := rfl
@[simp] theorem State.setCmd_ck_stalls (s : State) (x : Cmd) : (s.setCmd x).ck.stalls = s.ck.stalls := rfl
@[simp] theorem State.setCmd_ck_svc (s : State) (x : Cmd) : (s.setCmd x).ck.svc = s.ck.svc := rfl
@[simp] theorem State.setCmd_ck_claims (s : State) (x : Cmd) : (s.setCmd x).ck.claims = s.ck.claims := rfl
@[simp] theorem State.setCmd_ck_rounds (s : State) (x : Cmd) : (s.setCmd x).ck.rounds = s.ck.rounds := rfl
@[simp] theorem State.setCmd_ck_dropped (s : State) (x : Cmd) : (s.setCmd x).ck.dropped = s.ck.dropped := rfl
@[simp] theorem State.setCmd_ck_vers (s : State) (x : Cmd) : (s.setCmd x).ck.vers = s.ck.vers := rfl
@[simp] theorem State.setCmd_ck_lrec (s : State) (x : Cmd) : (s.setCmd x).ck.lrec = s.ck.lrec := rfl
@[simp] theorem State.setCmd_ck_pubs (s : State) (x : Cmd) : (s.setCmd x).ck.pubs = s.ck.pubs := rfl
@[simp] theorem State.setCmd_ck_owner (s : State) (x : Cmd) : (s.setCmd x).ck.owner = s.ck.owner := rfl
@[simp] theorem State.setCmd_ck_heldClaim (s : State) (x : Cmd) : (s.setCmd x).ck.heldClaim = s.ck.heldClaim := rfl
@[simp] theorem State.setCmd_ck_quiescing (s : State) (x : Cmd) : (s.setCmd x).ck.quiescing = s.ck.quiescing := rfl

/-! ### onCmd -/

@[simp] theorem State.onCmd_pending (s : State) (c : CmdNo) (f : Cmd → Cmd) : (s.onCmd c f).pending = s.pending := rfl
@[simp] theorem State.onCmd_freeCtr (s : State) (c : CmdNo) (f : Cmd → Cmd) : (s.onCmd c f).freeCtr = s.freeCtr := rfl
@[simp] theorem State.onCmd_resp (s : State) (c : CmdNo) (f : Cmd → Cmd) : (s.onCmd c f).resp = s.resp := rfl
@[simp] theorem State.onCmd_respPoison (s : State) (c : CmdNo) (f : Cmd → Cmd) : (s.onCmd c f).respPoison = s.respPoison := rfl
@[simp] theorem State.onCmd_out (s : State) (c : CmdNo) (f : Cmd → Cmd) : (s.onCmd c f).out = s.out := rfl
@[simp] theorem State.onCmd_hostMem (s : State) (c : CmdNo) (f : Cmd → Cmd) : (s.onCmd c f).hostMem = s.hostMem := rfl
@[simp] theorem State.onCmd_mem (s : State) (c : CmdNo) (f : Cmd → Cmd) : (s.onCmd c f).mem = s.mem := rfl
@[simp] theorem State.onCmd_poison (s : State) (c : CmdNo) (f : Cmd → Cmd) : (s.onCmd c f).poison = s.poison := rfl
@[simp] theorem State.onCmd_staging (s : State) (c : CmdNo) (f : Cmd → Cmd) : (s.onCmd c f).staging = s.staging := rfl
@[simp] theorem State.onCmd_clk (s : State) (c : CmdNo) (f : Cmd → Cmd) : (s.onCmd c f).clk = s.clk := rfl
@[simp] theorem State.onCmd_brd (s : State) (c : CmdNo) (f : Cmd → Cmd) : (s.onCmd c f).brd = s.brd := rfl
@[simp] theorem State.onCmd_flash (s : State) (c : CmdNo) (f : Cmd → Cmd) : (s.onCmd c f).flash = s.flash := rfl
@[simp] theorem State.onCmd_boot (s : State) (c : CmdNo) (f : Cmd → Cmd) : (s.onCmd c f).boot = s.boot := rfl
@[simp] theorem State.onCmd_hp (s : State) (c : CmdNo) (f : Cmd → Cmd) : (s.onCmd c f).hp = s.hp := rfl
@[simp] theorem State.onCmd_mb (s : State) (c : CmdNo) (f : Cmd → Cmd) : (s.onCmd c f).mb = s.mb := rfl
@[simp] theorem State.onCmd_stackTab (s : State) (c : CmdNo) (f : Cmd → Cmd) : (s.onCmd c f).stackTab = s.stackTab := rfl
@[simp] theorem State.onCmd_ostlers (s : State) (c : CmdNo) (f : Cmd → Cmd) : (s.onCmd c f).ostlers = s.ostlers := rfl
@[simp] theorem State.onCmd_ostSel (s : State) (c : CmdNo) (f : Cmd → Cmd) : (s.onCmd c f).ostSel = s.ostSel := rfl
@[simp] theorem State.onCmd_ab (s : State) (c : CmdNo) (f : Cmd → Cmd) : (s.onCmd c f).ab = s.ab := rfl
@[simp] theorem State.onCmd_tal (s : State) (c : CmdNo) (f : Cmd → Cmd) : (s.onCmd c f).tal = s.tal := rfl
@[simp] theorem State.onCmd_dies (s : State) (c : CmdNo) (f : Cmd → Cmd) : (s.onCmd c f).dies = s.dies := rfl
@[simp] theorem State.onCmd_bays (s : State) (c : CmdNo) (f : Cmd → Cmd) : (s.onCmd c f).bays = s.bays := rfl
@[simp] theorem State.onCmd_millerHalf (s : State) (c : CmdNo) (f : Cmd → Cmd) : (s.onCmd c f).millerHalf = s.millerHalf := rfl
@[simp] theorem State.onCmd_pw (s : State) (c : CmdNo) (f : Cmd → Cmd) : (s.onCmd c f).pw = s.pw := rfl
@[simp] theorem State.onCmd_refusals (s : State) (c : CmdNo) (f : Cmd → Cmd) : (s.onCmd c f).refusals = s.refusals := rfl
@[simp] theorem State.onCmd_logTotal (s : State) (c : CmdNo) (f : Cmd → Cmd) : (s.onCmd c f).logTotal = s.logTotal := rfl
@[simp] theorem State.onCmd_units (s : State) (c : CmdNo) (f : Cmd → Cmd) : (s.onCmd c f).units = s.units := rfl
@[simp] theorem State.onCmd_capsules (s : State) (c : CmdNo) (f : Cmd → Cmd) : (s.onCmd c f).capsules = s.capsules := rfl
@[simp] theorem State.onCmd_mg (s : State) (c : CmdNo) (f : Cmd → Cmd) : (s.onCmd c f).mg = s.mg := rfl
@[simp] theorem State.onCmd_ck_queues (s : State) (c : CmdNo) (f : Cmd → Cmd) : (s.onCmd c f).ck.queues = s.ck.queues := rfl
@[simp] theorem State.onCmd_ck_nextCmd (s : State) (c : CmdNo) (f : Cmd → Cmd) : (s.onCmd c f).ck.nextCmd = s.ck.nextCmd := rfl
@[simp] theorem State.onCmd_ck_stalls (s : State) (c : CmdNo) (f : Cmd → Cmd) : (s.onCmd c f).ck.stalls = s.ck.stalls := rfl
@[simp] theorem State.onCmd_ck_svc (s : State) (c : CmdNo) (f : Cmd → Cmd) : (s.onCmd c f).ck.svc = s.ck.svc := rfl
@[simp] theorem State.onCmd_ck_claims (s : State) (c : CmdNo) (f : Cmd → Cmd) : (s.onCmd c f).ck.claims = s.ck.claims := rfl
@[simp] theorem State.onCmd_ck_rounds (s : State) (c : CmdNo) (f : Cmd → Cmd) : (s.onCmd c f).ck.rounds = s.ck.rounds := rfl
@[simp] theorem State.onCmd_ck_dropped (s : State) (c : CmdNo) (f : Cmd → Cmd) : (s.onCmd c f).ck.dropped = s.ck.dropped := rfl
@[simp] theorem State.onCmd_ck_vers (s : State) (c : CmdNo) (f : Cmd → Cmd) : (s.onCmd c f).ck.vers = s.ck.vers := rfl
@[simp] theorem State.onCmd_ck_lrec (s : State) (c : CmdNo) (f : Cmd → Cmd) : (s.onCmd c f).ck.lrec = s.ck.lrec := rfl
@[simp] theorem State.onCmd_ck_pubs (s : State) (c : CmdNo) (f : Cmd → Cmd) : (s.onCmd c f).ck.pubs = s.ck.pubs := rfl
@[simp] theorem State.onCmd_ck_owner (s : State) (c : CmdNo) (f : Cmd → Cmd) : (s.onCmd c f).ck.owner = s.ck.owner := rfl
@[simp] theorem State.onCmd_ck_heldClaim (s : State) (c : CmdNo) (f : Cmd → Cmd) : (s.onCmd c f).ck.heldClaim = s.ck.heldClaim := rfl
@[simp] theorem State.onCmd_ck_quiescing (s : State) (c : CmdNo) (f : Cmd → Cmd) : (s.onCmd c f).ck.quiescing = s.ck.quiescing := rfl

/-! ### emit -/

@[simp] theorem State.emit_pending (s : State) (o : Out) : (s.emit o).pending = s.pending := rfl
@[simp] theorem State.emit_freeCtr (s : State) (o : Out) : (s.emit o).freeCtr = s.freeCtr := rfl
@[simp] theorem State.emit_resp (s : State) (o : Out) : (s.emit o).resp = s.resp := rfl
@[simp] theorem State.emit_respPoison (s : State) (o : Out) : (s.emit o).respPoison = s.respPoison := rfl
@[simp] theorem State.emit_hostMem (s : State) (o : Out) : (s.emit o).hostMem = s.hostMem := rfl
@[simp] theorem State.emit_mem (s : State) (o : Out) : (s.emit o).mem = s.mem := rfl
@[simp] theorem State.emit_poison (s : State) (o : Out) : (s.emit o).poison = s.poison := rfl
@[simp] theorem State.emit_staging (s : State) (o : Out) : (s.emit o).staging = s.staging := rfl
@[simp] theorem State.emit_clk (s : State) (o : Out) : (s.emit o).clk = s.clk := rfl
@[simp] theorem State.emit_brd (s : State) (o : Out) : (s.emit o).brd = s.brd := rfl
@[simp] theorem State.emit_flash (s : State) (o : Out) : (s.emit o).flash = s.flash := rfl
@[simp] theorem State.emit_boot (s : State) (o : Out) : (s.emit o).boot = s.boot := rfl
@[simp] theorem State.emit_hp (s : State) (o : Out) : (s.emit o).hp = s.hp := rfl
@[simp] theorem State.emit_mb (s : State) (o : Out) : (s.emit o).mb = s.mb := rfl
@[simp] theorem State.emit_ck (s : State) (o : Out) : (s.emit o).ck = s.ck := rfl
@[simp] theorem State.emit_stackTab (s : State) (o : Out) : (s.emit o).stackTab = s.stackTab := rfl
@[simp] theorem State.emit_ostlers (s : State) (o : Out) : (s.emit o).ostlers = s.ostlers := rfl
@[simp] theorem State.emit_ostSel (s : State) (o : Out) : (s.emit o).ostSel = s.ostSel := rfl
@[simp] theorem State.emit_ab (s : State) (o : Out) : (s.emit o).ab = s.ab := rfl
@[simp] theorem State.emit_tal (s : State) (o : Out) : (s.emit o).tal = s.tal := rfl
@[simp] theorem State.emit_dies (s : State) (o : Out) : (s.emit o).dies = s.dies := rfl
@[simp] theorem State.emit_bays (s : State) (o : Out) : (s.emit o).bays = s.bays := rfl
@[simp] theorem State.emit_millerHalf (s : State) (o : Out) : (s.emit o).millerHalf = s.millerHalf := rfl
@[simp] theorem State.emit_pw (s : State) (o : Out) : (s.emit o).pw = s.pw := rfl
@[simp] theorem State.emit_refusals (s : State) (o : Out) : (s.emit o).refusals = s.refusals := rfl
@[simp] theorem State.emit_logTotal (s : State) (o : Out) : (s.emit o).logTotal = s.logTotal := rfl
@[simp] theorem State.emit_units (s : State) (o : Out) : (s.emit o).units = s.units := rfl
@[simp] theorem State.emit_capsules (s : State) (o : Out) : (s.emit o).capsules = s.capsules := rfl
@[simp] theorem State.emit_mg (s : State) (o : Out) : (s.emit o).mg = s.mg := rfl

/-! ### answer -/

@[simp] theorem State.answer_pending (s : State) (n v : Nat) : (s.answer n v).pending = s.pending := rfl
@[simp] theorem State.answer_freeCtr (s : State) (n v : Nat) : (s.answer n v).freeCtr = s.freeCtr := rfl
@[simp] theorem State.answer_out (s : State) (n v : Nat) : (s.answer n v).out = s.out := rfl
@[simp] theorem State.answer_hostMem (s : State) (n v : Nat) : (s.answer n v).hostMem = s.hostMem := rfl
@[simp] theorem State.answer_mem (s : State) (n v : Nat) : (s.answer n v).mem = s.mem := rfl
@[simp] theorem State.answer_poison (s : State) (n v : Nat) : (s.answer n v).poison = s.poison := rfl
@[simp] theorem State.answer_staging (s : State) (n v : Nat) : (s.answer n v).staging = s.staging := rfl
@[simp] theorem State.answer_clk (s : State) (n v : Nat) : (s.answer n v).clk = s.clk := rfl
@[simp] theorem State.answer_brd (s : State) (n v : Nat) : (s.answer n v).brd = s.brd := rfl
@[simp] theorem State.answer_flash (s : State) (n v : Nat) : (s.answer n v).flash = s.flash := rfl
@[simp] theorem State.answer_boot (s : State) (n v : Nat) : (s.answer n v).boot = s.boot := rfl
@[simp] theorem State.answer_hp (s : State) (n v : Nat) : (s.answer n v).hp = s.hp := rfl
@[simp] theorem State.answer_mb (s : State) (n v : Nat) : (s.answer n v).mb = s.mb := rfl
@[simp] theorem State.answer_ck (s : State) (n v : Nat) : (s.answer n v).ck = s.ck := rfl
@[simp] theorem State.answer_stackTab (s : State) (n v : Nat) : (s.answer n v).stackTab = s.stackTab := rfl
@[simp] theorem State.answer_ostlers (s : State) (n v : Nat) : (s.answer n v).ostlers = s.ostlers := rfl
@[simp] theorem State.answer_ostSel (s : State) (n v : Nat) : (s.answer n v).ostSel = s.ostSel := rfl
@[simp] theorem State.answer_ab (s : State) (n v : Nat) : (s.answer n v).ab = s.ab := rfl
@[simp] theorem State.answer_tal (s : State) (n v : Nat) : (s.answer n v).tal = s.tal := rfl
@[simp] theorem State.answer_dies (s : State) (n v : Nat) : (s.answer n v).dies = s.dies := rfl
@[simp] theorem State.answer_bays (s : State) (n v : Nat) : (s.answer n v).bays = s.bays := rfl
@[simp] theorem State.answer_millerHalf (s : State) (n v : Nat) : (s.answer n v).millerHalf = s.millerHalf := rfl
@[simp] theorem State.answer_pw (s : State) (n v : Nat) : (s.answer n v).pw = s.pw := rfl
@[simp] theorem State.answer_refusals (s : State) (n v : Nat) : (s.answer n v).refusals = s.refusals := rfl
@[simp] theorem State.answer_logTotal (s : State) (n v : Nat) : (s.answer n v).logTotal = s.logTotal := rfl
@[simp] theorem State.answer_units (s : State) (n v : Nat) : (s.answer n v).units = s.units := rfl
@[simp] theorem State.answer_capsules (s : State) (n v : Nat) : (s.answer n v).capsules = s.capsules := rfl
@[simp] theorem State.answer_mg (s : State) (n v : Nat) : (s.answer n v).mg = s.mg := rfl

/-! ### setByte -/

@[simp] theorem State.setByte_pending (s : State) (a : Nat) (b : Byte) : (s.setByte a b).pending = s.pending := rfl
@[simp] theorem State.setByte_freeCtr (s : State) (a : Nat) (b : Byte) : (s.setByte a b).freeCtr = s.freeCtr := rfl
@[simp] theorem State.setByte_resp (s : State) (a : Nat) (b : Byte) : (s.setByte a b).resp = s.resp := rfl
@[simp] theorem State.setByte_respPoison (s : State) (a : Nat) (b : Byte) : (s.setByte a b).respPoison = s.respPoison := rfl
@[simp] theorem State.setByte_out (s : State) (a : Nat) (b : Byte) : (s.setByte a b).out = s.out := rfl
@[simp] theorem State.setByte_hostMem (s : State) (a : Nat) (b : Byte) : (s.setByte a b).hostMem = s.hostMem := rfl
@[simp] theorem State.setByte_poison (s : State) (a : Nat) (b : Byte) : (s.setByte a b).poison = s.poison := rfl
@[simp] theorem State.setByte_staging (s : State) (a : Nat) (b : Byte) : (s.setByte a b).staging = s.staging := rfl
@[simp] theorem State.setByte_clk (s : State) (a : Nat) (b : Byte) : (s.setByte a b).clk = s.clk := rfl
@[simp] theorem State.setByte_brd (s : State) (a : Nat) (b : Byte) : (s.setByte a b).brd = s.brd := rfl
@[simp] theorem State.setByte_flash (s : State) (a : Nat) (b : Byte) : (s.setByte a b).flash = s.flash := rfl
@[simp] theorem State.setByte_boot (s : State) (a : Nat) (b : Byte) : (s.setByte a b).boot = s.boot := rfl
@[simp] theorem State.setByte_hp (s : State) (a : Nat) (b : Byte) : (s.setByte a b).hp = s.hp := rfl
@[simp] theorem State.setByte_mb (s : State) (a : Nat) (b : Byte) : (s.setByte a b).mb = s.mb := rfl
@[simp] theorem State.setByte_ck (s : State) (a : Nat) (b : Byte) : (s.setByte a b).ck = s.ck := rfl
@[simp] theorem State.setByte_stackTab (s : State) (a : Nat) (b : Byte) : (s.setByte a b).stackTab = s.stackTab := rfl
@[simp] theorem State.setByte_ostlers (s : State) (a : Nat) (b : Byte) : (s.setByte a b).ostlers = s.ostlers := rfl
@[simp] theorem State.setByte_ostSel (s : State) (a : Nat) (b : Byte) : (s.setByte a b).ostSel = s.ostSel := rfl
@[simp] theorem State.setByte_ab (s : State) (a : Nat) (b : Byte) : (s.setByte a b).ab = s.ab := rfl
@[simp] theorem State.setByte_tal (s : State) (a : Nat) (b : Byte) : (s.setByte a b).tal = s.tal := rfl
@[simp] theorem State.setByte_dies (s : State) (a : Nat) (b : Byte) : (s.setByte a b).dies = s.dies := rfl
@[simp] theorem State.setByte_bays (s : State) (a : Nat) (b : Byte) : (s.setByte a b).bays = s.bays := rfl
@[simp] theorem State.setByte_millerHalf (s : State) (a : Nat) (b : Byte) : (s.setByte a b).millerHalf = s.millerHalf := rfl
@[simp] theorem State.setByte_pw (s : State) (a : Nat) (b : Byte) : (s.setByte a b).pw = s.pw := rfl
@[simp] theorem State.setByte_refusals (s : State) (a : Nat) (b : Byte) : (s.setByte a b).refusals = s.refusals := rfl
@[simp] theorem State.setByte_logTotal (s : State) (a : Nat) (b : Byte) : (s.setByte a b).logTotal = s.logTotal := rfl
@[simp] theorem State.setByte_units (s : State) (a : Nat) (b : Byte) : (s.setByte a b).units = s.units := rfl
@[simp] theorem State.setByte_capsules (s : State) (a : Nat) (b : Byte) : (s.setByte a b).capsules = s.capsules := rfl
@[simp] theorem State.setByte_mg (s : State) (a : Nat) (b : Byte) : (s.setByte a b).mg = s.mg := rfl

/-! ### store -/

@[simp] theorem State.store_pending (s : State) (a : Nat) (bs : List Byte) : (s.store a bs).pending = s.pending := rfl
@[simp] theorem State.store_freeCtr (s : State) (a : Nat) (bs : List Byte) : (s.store a bs).freeCtr = s.freeCtr := rfl
@[simp] theorem State.store_resp (s : State) (a : Nat) (bs : List Byte) : (s.store a bs).resp = s.resp := rfl
@[simp] theorem State.store_respPoison (s : State) (a : Nat) (bs : List Byte) : (s.store a bs).respPoison = s.respPoison := rfl
@[simp] theorem State.store_out (s : State) (a : Nat) (bs : List Byte) : (s.store a bs).out = s.out := rfl
@[simp] theorem State.store_hostMem (s : State) (a : Nat) (bs : List Byte) : (s.store a bs).hostMem = s.hostMem := rfl
@[simp] theorem State.store_staging (s : State) (a : Nat) (bs : List Byte) : (s.store a bs).staging = s.staging := rfl
@[simp] theorem State.store_clk (s : State) (a : Nat) (bs : List Byte) : (s.store a bs).clk = s.clk := rfl
@[simp] theorem State.store_brd (s : State) (a : Nat) (bs : List Byte) : (s.store a bs).brd = s.brd := rfl
@[simp] theorem State.store_flash (s : State) (a : Nat) (bs : List Byte) : (s.store a bs).flash = s.flash := rfl
@[simp] theorem State.store_boot (s : State) (a : Nat) (bs : List Byte) : (s.store a bs).boot = s.boot := rfl
@[simp] theorem State.store_hp (s : State) (a : Nat) (bs : List Byte) : (s.store a bs).hp = s.hp := rfl
@[simp] theorem State.store_mb (s : State) (a : Nat) (bs : List Byte) : (s.store a bs).mb = s.mb := rfl
@[simp] theorem State.store_ck (s : State) (a : Nat) (bs : List Byte) : (s.store a bs).ck = s.ck := rfl
@[simp] theorem State.store_stackTab (s : State) (a : Nat) (bs : List Byte) : (s.store a bs).stackTab = s.stackTab := rfl
@[simp] theorem State.store_ostlers (s : State) (a : Nat) (bs : List Byte) : (s.store a bs).ostlers = s.ostlers := rfl
@[simp] theorem State.store_ostSel (s : State) (a : Nat) (bs : List Byte) : (s.store a bs).ostSel = s.ostSel := rfl
@[simp] theorem State.store_ab (s : State) (a : Nat) (bs : List Byte) : (s.store a bs).ab = s.ab := rfl
@[simp] theorem State.store_tal (s : State) (a : Nat) (bs : List Byte) : (s.store a bs).tal = s.tal := rfl
@[simp] theorem State.store_dies (s : State) (a : Nat) (bs : List Byte) : (s.store a bs).dies = s.dies := rfl
@[simp] theorem State.store_bays (s : State) (a : Nat) (bs : List Byte) : (s.store a bs).bays = s.bays := rfl
@[simp] theorem State.store_millerHalf (s : State) (a : Nat) (bs : List Byte) : (s.store a bs).millerHalf = s.millerHalf := rfl
@[simp] theorem State.store_pw (s : State) (a : Nat) (bs : List Byte) : (s.store a bs).pw = s.pw := rfl
@[simp] theorem State.store_refusals (s : State) (a : Nat) (bs : List Byte) : (s.store a bs).refusals = s.refusals := rfl
@[simp] theorem State.store_logTotal (s : State) (a : Nat) (bs : List Byte) : (s.store a bs).logTotal = s.logTotal := rfl
@[simp] theorem State.store_units (s : State) (a : Nat) (bs : List Byte) : (s.store a bs).units = s.units := rfl
@[simp] theorem State.store_capsules (s : State) (a : Nat) (bs : List Byte) : (s.store a bs).capsules = s.capsules := rfl
@[simp] theorem State.store_mg (s : State) (a : Nat) (bs : List Byte) : (s.store a bs).mg = s.mg := rfl

/-! ### storeHost -/

@[simp] theorem State.storeHost_pending (s : State) (a : Nat) (bs : List Byte) : (s.storeHost a bs).pending = s.pending := rfl
@[simp] theorem State.storeHost_freeCtr (s : State) (a : Nat) (bs : List Byte) : (s.storeHost a bs).freeCtr = s.freeCtr := rfl
@[simp] theorem State.storeHost_resp (s : State) (a : Nat) (bs : List Byte) : (s.storeHost a bs).resp = s.resp := rfl
@[simp] theorem State.storeHost_respPoison (s : State) (a : Nat) (bs : List Byte) : (s.storeHost a bs).respPoison = s.respPoison := rfl
@[simp] theorem State.storeHost_out (s : State) (a : Nat) (bs : List Byte) : (s.storeHost a bs).out = s.out := rfl
@[simp] theorem State.storeHost_mem (s : State) (a : Nat) (bs : List Byte) : (s.storeHost a bs).mem = s.mem := rfl
@[simp] theorem State.storeHost_poison (s : State) (a : Nat) (bs : List Byte) : (s.storeHost a bs).poison = s.poison := rfl
@[simp] theorem State.storeHost_staging (s : State) (a : Nat) (bs : List Byte) : (s.storeHost a bs).staging = s.staging := rfl
@[simp] theorem State.storeHost_clk (s : State) (a : Nat) (bs : List Byte) : (s.storeHost a bs).clk = s.clk := rfl
@[simp] theorem State.storeHost_brd (s : State) (a : Nat) (bs : List Byte) : (s.storeHost a bs).brd = s.brd := rfl
@[simp] theorem State.storeHost_flash (s : State) (a : Nat) (bs : List Byte) : (s.storeHost a bs).flash = s.flash := rfl
@[simp] theorem State.storeHost_boot (s : State) (a : Nat) (bs : List Byte) : (s.storeHost a bs).boot = s.boot := rfl
@[simp] theorem State.storeHost_hp (s : State) (a : Nat) (bs : List Byte) : (s.storeHost a bs).hp = s.hp := rfl
@[simp] theorem State.storeHost_mb (s : State) (a : Nat) (bs : List Byte) : (s.storeHost a bs).mb = s.mb := rfl
@[simp] theorem State.storeHost_ck (s : State) (a : Nat) (bs : List Byte) : (s.storeHost a bs).ck = s.ck := rfl
@[simp] theorem State.storeHost_stackTab (s : State) (a : Nat) (bs : List Byte) : (s.storeHost a bs).stackTab = s.stackTab := rfl
@[simp] theorem State.storeHost_ostlers (s : State) (a : Nat) (bs : List Byte) : (s.storeHost a bs).ostlers = s.ostlers := rfl
@[simp] theorem State.storeHost_ostSel (s : State) (a : Nat) (bs : List Byte) : (s.storeHost a bs).ostSel = s.ostSel := rfl
@[simp] theorem State.storeHost_ab (s : State) (a : Nat) (bs : List Byte) : (s.storeHost a bs).ab = s.ab := rfl
@[simp] theorem State.storeHost_tal (s : State) (a : Nat) (bs : List Byte) : (s.storeHost a bs).tal = s.tal := rfl
@[simp] theorem State.storeHost_dies (s : State) (a : Nat) (bs : List Byte) : (s.storeHost a bs).dies = s.dies := rfl
@[simp] theorem State.storeHost_bays (s : State) (a : Nat) (bs : List Byte) : (s.storeHost a bs).bays = s.bays := rfl
@[simp] theorem State.storeHost_millerHalf (s : State) (a : Nat) (bs : List Byte) : (s.storeHost a bs).millerHalf = s.millerHalf := rfl
@[simp] theorem State.storeHost_pw (s : State) (a : Nat) (bs : List Byte) : (s.storeHost a bs).pw = s.pw := rfl
@[simp] theorem State.storeHost_refusals (s : State) (a : Nat) (bs : List Byte) : (s.storeHost a bs).refusals = s.refusals := rfl
@[simp] theorem State.storeHost_logTotal (s : State) (a : Nat) (bs : List Byte) : (s.storeHost a bs).logTotal = s.logTotal := rfl
@[simp] theorem State.storeHost_units (s : State) (a : Nat) (bs : List Byte) : (s.storeHost a bs).units = s.units := rfl
@[simp] theorem State.storeHost_capsules (s : State) (a : Nat) (bs : List Byte) : (s.storeHost a bs).capsules = s.capsules := rfl
@[simp] theorem State.storeHost_mg (s : State) (a : Nat) (bs : List Byte) : (s.storeHost a bs).mg = s.mg := rfl

/-! ### A unit read after a unit is written -/

@[simp] theorem State.queue_setQueue (s : State) (k : Nat) (v : Queue) : (s.setQueue k v).queue k = v := tget_tset_same _ _ _ _
theorem State.queue_setQueue_other (s : State) (k j : Nat) (v : Queue) (h : j ≠ k) : (s.setQueue k v).queue j = s.queue j :=
  tget_tset_other _ _ _ _ _ h
@[simp] theorem State.port_setPort (s : State) (k : Nat) (v : Port) : (s.setPort k v).port k = v := tget_tset_same _ _ _ _
theorem State.port_setPort_other (s : State) (k j : Nat) (v : Port) (h : j ≠ k) : (s.setPort k v).port j = s.port j :=
  tget_tset_other _ _ _ _ _ h
@[simp] theorem State.engine_setEngine (s : State) (k : Nat) (v : Engine) : (s.setEngine k v).engine k = v := tget_tset_same _ _ _ _
theorem State.engine_setEngine_other (s : State) (k j : Nat) (v : Engine) (h : j ≠ k) : (s.setEngine k v).engine j = s.engine j :=
  tget_tset_other _ _ _ _ _ h
@[simp] theorem State.group_setGroup (s : State) (k : Nat) (v : Group) : (s.setGroup k v).group k = v := tget_tset_same _ _ _ _
theorem State.group_setGroup_other (s : State) (k j : Nat) (v : Group) (h : j ≠ k) : (s.setGroup k v).group j = s.group j :=
  tget_tset_other _ _ _ _ _ h
@[simp] theorem State.bay_setBay (s : State) (k : Nat) (v : Bay) : (s.setBay k v).bay k = v := tget_tset_same _ _ _ _
theorem State.bay_setBay_other (s : State) (k j : Nat) (v : Bay) (h : j ≠ k) : (s.setBay k v).bay j = s.bay j :=
  tget_tset_other _ _ _ _ _ h
@[simp] theorem State.die_setDie (s : State) (k : Nat) (v : Die) : (s.setDie k v).die k = v := tget_tset_same _ _ _ _
theorem State.die_setDie_other (s : State) (k j : Nat) (v : Die) (h : j ≠ k) : (s.setDie k v).die j = s.die j :=
  tget_tset_other _ _ _ _ _ h
@[simp] theorem State.stack_setStack (s : State) (k : Nat) (v : Stack) : (s.setStack k v).stack k = v := tget_tset_same _ _ _ _
theorem State.stack_setStack_other (s : State) (k j : Nat) (v : Stack) (h : j ≠ k) : (s.setStack k v).stack j = s.stack j :=
  tget_tset_other _ _ _ _ _ h
@[simp] theorem State.ostler_setOstler (s : State) (k : Nat) (v : Ostler) : (s.setOstler k v).ostler k = v := tget_tset_same _ _ _ _
theorem State.ostler_setOstler_other (s : State) (k j : Nat) (v : Ostler) (h : j ≠ k) : (s.setOstler k v).ostler j = s.ostler j :=
  tget_tset_other _ _ _ _ _ h
@[simp] theorem State.power_setPower (s : State) (k : Nat) (v : Power) : (s.setPower k v).power k = v := tget_tset_same _ _ _ _
theorem State.power_setPower_other (s : State) (k j : Nat) (v : Power) (h : j ≠ k) : (s.setPower k v).power j = s.power j :=
  tget_tset_other _ _ _ _ _ h
@[simp] theorem State.unit_setUnit (s : State) (k : Nat) (v : UnitState) : (s.setUnit k v).unit k = v := tget_tset_same _ _ _ _
theorem State.unit_setUnit_other (s : State) (k j : Nat) (v : UnitState) (h : j ≠ k) : (s.setUnit k v).unit j = s.unit j :=
  tget_tset_other _ _ _ _ _ h
@[simp] theorem State.stall_setStall (s : State) (k : Nat) (v : Option Stall) : (s.setStall k v).stall k = v := tget_tset_same _ _ _ _
theorem State.stall_setStall_other (s : State) (k j : Nat) (v : Option Stall) (h : j ≠ k) : (s.setStall k v).stall j = s.stall j :=
  tget_tset_other _ _ _ _ _ h
@[simp] theorem State.round_setRound (s : State) (k : Nat) (v : Option Round) : (s.setRound k v).round k = v := tget_tset_same _ _ _ _
theorem State.round_setRound_other (s : State) (k j : Nat) (v : Option Round) (h : j ≠ k) : (s.setRound k v).round j = s.round j :=
  tget_tset_other _ _ _ _ _ h
@[simp] theorem State.vers_setVers (s : State) (k : Nat) (v : Vers) : (s.setVers k v).vers k = v := tget_tset_same _ _ _ _
theorem State.vers_setVers_other (s : State) (k j : Nat) (v : Vers) (h : j ≠ k) : (s.setVers k v).vers j = s.vers j :=
  tget_tset_other _ _ _ _ _ h
@[simp] theorem State.lrec_setLrec (s : State) (k : Nat) (v : Option LayerRO) : (s.setLrec k v).lrec k = v := tget_tset_same _ _ _ _
theorem State.lrec_setLrec_other (s : State) (k j : Nat) (v : Option LayerRO) (h : j ≠ k) : (s.setLrec k v).lrec j = s.lrec j :=
  tget_tset_other _ _ _ _ _ h
@[simp] theorem State.queue_setPort (s : State) (k j : Nat) (v : Port) : (s.setPort k v).queue j = s.queue j := rfl
@[simp] theorem State.queue_setEngine (s : State) (k j : Nat) (v : Engine) : (s.setEngine k v).queue j = s.queue j := rfl
@[simp] theorem State.queue_setGroup (s : State) (k j : Nat) (v : Group) : (s.setGroup k v).queue j = s.queue j := rfl
@[simp] theorem State.queue_setBay (s : State) (k j : Nat) (v : Bay) : (s.setBay k v).queue j = s.queue j := rfl
@[simp] theorem State.queue_setDie (s : State) (k j : Nat) (v : Die) : (s.setDie k v).queue j = s.queue j := rfl
@[simp] theorem State.queue_setStack (s : State) (k j : Nat) (v : Stack) : (s.setStack k v).queue j = s.queue j := rfl
@[simp] theorem State.queue_setOstler (s : State) (k j : Nat) (v : Ostler) : (s.setOstler k v).queue j = s.queue j := rfl
@[simp] theorem State.queue_setPower (s : State) (k j : Nat) (v : Power) : (s.setPower k v).queue j = s.queue j := rfl
@[simp] theorem State.queue_setUnit (s : State) (k j : Nat) (v : UnitState) : (s.setUnit k v).queue j = s.queue j := rfl
@[simp] theorem State.queue_setStall (s : State) (k j : Nat) (v : Option Stall) : (s.setStall k v).queue j = s.queue j := rfl
@[simp] theorem State.queue_setRound (s : State) (k j : Nat) (v : Option Round) : (s.setRound k v).queue j = s.queue j := rfl
@[simp] theorem State.queue_setVers (s : State) (k j : Nat) (v : Vers) : (s.setVers k v).queue j = s.queue j := rfl
@[simp] theorem State.queue_setLrec (s : State) (k j : Nat) (v : Option LayerRO) : (s.setLrec k v).queue j = s.queue j := rfl
@[simp] theorem State.port_setQueue (s : State) (k j : Nat) (v : Queue) : (s.setQueue k v).port j = s.port j := rfl
@[simp] theorem State.port_setEngine (s : State) (k j : Nat) (v : Engine) : (s.setEngine k v).port j = s.port j := rfl
@[simp] theorem State.port_setGroup (s : State) (k j : Nat) (v : Group) : (s.setGroup k v).port j = s.port j := rfl
@[simp] theorem State.port_setBay (s : State) (k j : Nat) (v : Bay) : (s.setBay k v).port j = s.port j := rfl
@[simp] theorem State.port_setDie (s : State) (k j : Nat) (v : Die) : (s.setDie k v).port j = s.port j := rfl
@[simp] theorem State.port_setStack (s : State) (k j : Nat) (v : Stack) : (s.setStack k v).port j = s.port j := rfl
@[simp] theorem State.port_setOstler (s : State) (k j : Nat) (v : Ostler) : (s.setOstler k v).port j = s.port j := rfl
@[simp] theorem State.port_setPower (s : State) (k j : Nat) (v : Power) : (s.setPower k v).port j = s.port j := rfl
@[simp] theorem State.port_setUnit (s : State) (k j : Nat) (v : UnitState) : (s.setUnit k v).port j = s.port j := rfl
@[simp] theorem State.port_setStall (s : State) (k j : Nat) (v : Option Stall) : (s.setStall k v).port j = s.port j := rfl
@[simp] theorem State.port_setRound (s : State) (k j : Nat) (v : Option Round) : (s.setRound k v).port j = s.port j := rfl
@[simp] theorem State.port_setVers (s : State) (k j : Nat) (v : Vers) : (s.setVers k v).port j = s.port j := rfl
@[simp] theorem State.port_setLrec (s : State) (k j : Nat) (v : Option LayerRO) : (s.setLrec k v).port j = s.port j := rfl
@[simp] theorem State.engine_setQueue (s : State) (k j : Nat) (v : Queue) : (s.setQueue k v).engine j = s.engine j := rfl
@[simp] theorem State.engine_setPort (s : State) (k j : Nat) (v : Port) : (s.setPort k v).engine j = s.engine j := rfl
@[simp] theorem State.engine_setGroup (s : State) (k j : Nat) (v : Group) : (s.setGroup k v).engine j = s.engine j := rfl
@[simp] theorem State.engine_setBay (s : State) (k j : Nat) (v : Bay) : (s.setBay k v).engine j = s.engine j := rfl
@[simp] theorem State.engine_setDie (s : State) (k j : Nat) (v : Die) : (s.setDie k v).engine j = s.engine j := rfl
@[simp] theorem State.engine_setStack (s : State) (k j : Nat) (v : Stack) : (s.setStack k v).engine j = s.engine j := rfl
@[simp] theorem State.engine_setOstler (s : State) (k j : Nat) (v : Ostler) : (s.setOstler k v).engine j = s.engine j := rfl
@[simp] theorem State.engine_setPower (s : State) (k j : Nat) (v : Power) : (s.setPower k v).engine j = s.engine j := rfl
@[simp] theorem State.engine_setUnit (s : State) (k j : Nat) (v : UnitState) : (s.setUnit k v).engine j = s.engine j := rfl
@[simp] theorem State.engine_setStall (s : State) (k j : Nat) (v : Option Stall) : (s.setStall k v).engine j = s.engine j := rfl
@[simp] theorem State.engine_setRound (s : State) (k j : Nat) (v : Option Round) : (s.setRound k v).engine j = s.engine j := rfl
@[simp] theorem State.engine_setVers (s : State) (k j : Nat) (v : Vers) : (s.setVers k v).engine j = s.engine j := rfl
@[simp] theorem State.engine_setLrec (s : State) (k j : Nat) (v : Option LayerRO) : (s.setLrec k v).engine j = s.engine j := rfl
@[simp] theorem State.group_setQueue (s : State) (k j : Nat) (v : Queue) : (s.setQueue k v).group j = s.group j := rfl
@[simp] theorem State.group_setPort (s : State) (k j : Nat) (v : Port) : (s.setPort k v).group j = s.group j := rfl
@[simp] theorem State.group_setEngine (s : State) (k j : Nat) (v : Engine) : (s.setEngine k v).group j = s.group j := rfl
@[simp] theorem State.group_setBay (s : State) (k j : Nat) (v : Bay) : (s.setBay k v).group j = s.group j := rfl
@[simp] theorem State.group_setDie (s : State) (k j : Nat) (v : Die) : (s.setDie k v).group j = s.group j := rfl
@[simp] theorem State.group_setStack (s : State) (k j : Nat) (v : Stack) : (s.setStack k v).group j = s.group j := rfl
@[simp] theorem State.group_setOstler (s : State) (k j : Nat) (v : Ostler) : (s.setOstler k v).group j = s.group j := rfl
@[simp] theorem State.group_setPower (s : State) (k j : Nat) (v : Power) : (s.setPower k v).group j = s.group j := rfl
@[simp] theorem State.group_setUnit (s : State) (k j : Nat) (v : UnitState) : (s.setUnit k v).group j = s.group j := rfl
@[simp] theorem State.group_setStall (s : State) (k j : Nat) (v : Option Stall) : (s.setStall k v).group j = s.group j := rfl
@[simp] theorem State.group_setRound (s : State) (k j : Nat) (v : Option Round) : (s.setRound k v).group j = s.group j := rfl
@[simp] theorem State.group_setVers (s : State) (k j : Nat) (v : Vers) : (s.setVers k v).group j = s.group j := rfl
@[simp] theorem State.group_setLrec (s : State) (k j : Nat) (v : Option LayerRO) : (s.setLrec k v).group j = s.group j := rfl
@[simp] theorem State.bay_setQueue (s : State) (k j : Nat) (v : Queue) : (s.setQueue k v).bay j = s.bay j := rfl
@[simp] theorem State.bay_setPort (s : State) (k j : Nat) (v : Port) : (s.setPort k v).bay j = s.bay j := rfl
@[simp] theorem State.bay_setEngine (s : State) (k j : Nat) (v : Engine) : (s.setEngine k v).bay j = s.bay j := rfl
@[simp] theorem State.bay_setGroup (s : State) (k j : Nat) (v : Group) : (s.setGroup k v).bay j = s.bay j := rfl
@[simp] theorem State.bay_setDie (s : State) (k j : Nat) (v : Die) : (s.setDie k v).bay j = s.bay j := rfl
@[simp] theorem State.bay_setStack (s : State) (k j : Nat) (v : Stack) : (s.setStack k v).bay j = s.bay j := rfl
@[simp] theorem State.bay_setOstler (s : State) (k j : Nat) (v : Ostler) : (s.setOstler k v).bay j = s.bay j := rfl
@[simp] theorem State.bay_setPower (s : State) (k j : Nat) (v : Power) : (s.setPower k v).bay j = s.bay j := rfl
@[simp] theorem State.bay_setUnit (s : State) (k j : Nat) (v : UnitState) : (s.setUnit k v).bay j = s.bay j := rfl
@[simp] theorem State.bay_setStall (s : State) (k j : Nat) (v : Option Stall) : (s.setStall k v).bay j = s.bay j := rfl
@[simp] theorem State.bay_setRound (s : State) (k j : Nat) (v : Option Round) : (s.setRound k v).bay j = s.bay j := rfl
@[simp] theorem State.bay_setVers (s : State) (k j : Nat) (v : Vers) : (s.setVers k v).bay j = s.bay j := rfl
@[simp] theorem State.bay_setLrec (s : State) (k j : Nat) (v : Option LayerRO) : (s.setLrec k v).bay j = s.bay j := rfl
@[simp] theorem State.die_setQueue (s : State) (k j : Nat) (v : Queue) : (s.setQueue k v).die j = s.die j := rfl
@[simp] theorem State.die_setPort (s : State) (k j : Nat) (v : Port) : (s.setPort k v).die j = s.die j := rfl
@[simp] theorem State.die_setEngine (s : State) (k j : Nat) (v : Engine) : (s.setEngine k v).die j = s.die j := rfl
@[simp] theorem State.die_setGroup (s : State) (k j : Nat) (v : Group) : (s.setGroup k v).die j = s.die j := rfl
@[simp] theorem State.die_setBay (s : State) (k j : Nat) (v : Bay) : (s.setBay k v).die j = s.die j := rfl
@[simp] theorem State.die_setStack (s : State) (k j : Nat) (v : Stack) : (s.setStack k v).die j = s.die j := rfl
@[simp] theorem State.die_setOstler (s : State) (k j : Nat) (v : Ostler) : (s.setOstler k v).die j = s.die j := rfl
@[simp] theorem State.die_setPower (s : State) (k j : Nat) (v : Power) : (s.setPower k v).die j = s.die j := rfl
@[simp] theorem State.die_setUnit (s : State) (k j : Nat) (v : UnitState) : (s.setUnit k v).die j = s.die j := rfl
@[simp] theorem State.die_setStall (s : State) (k j : Nat) (v : Option Stall) : (s.setStall k v).die j = s.die j := rfl
@[simp] theorem State.die_setRound (s : State) (k j : Nat) (v : Option Round) : (s.setRound k v).die j = s.die j := rfl
@[simp] theorem State.die_setVers (s : State) (k j : Nat) (v : Vers) : (s.setVers k v).die j = s.die j := rfl
@[simp] theorem State.die_setLrec (s : State) (k j : Nat) (v : Option LayerRO) : (s.setLrec k v).die j = s.die j := rfl
@[simp] theorem State.stack_setQueue (s : State) (k j : Nat) (v : Queue) : (s.setQueue k v).stack j = s.stack j := rfl
@[simp] theorem State.stack_setPort (s : State) (k j : Nat) (v : Port) : (s.setPort k v).stack j = s.stack j := rfl
@[simp] theorem State.stack_setEngine (s : State) (k j : Nat) (v : Engine) : (s.setEngine k v).stack j = s.stack j := rfl
@[simp] theorem State.stack_setGroup (s : State) (k j : Nat) (v : Group) : (s.setGroup k v).stack j = s.stack j := rfl
@[simp] theorem State.stack_setBay (s : State) (k j : Nat) (v : Bay) : (s.setBay k v).stack j = s.stack j := rfl
@[simp] theorem State.stack_setDie (s : State) (k j : Nat) (v : Die) : (s.setDie k v).stack j = s.stack j := rfl
@[simp] theorem State.stack_setOstler (s : State) (k j : Nat) (v : Ostler) : (s.setOstler k v).stack j = s.stack j := rfl
@[simp] theorem State.stack_setPower (s : State) (k j : Nat) (v : Power) : (s.setPower k v).stack j = s.stack j := rfl
@[simp] theorem State.stack_setUnit (s : State) (k j : Nat) (v : UnitState) : (s.setUnit k v).stack j = s.stack j := rfl
@[simp] theorem State.stack_setStall (s : State) (k j : Nat) (v : Option Stall) : (s.setStall k v).stack j = s.stack j := rfl
@[simp] theorem State.stack_setRound (s : State) (k j : Nat) (v : Option Round) : (s.setRound k v).stack j = s.stack j := rfl
@[simp] theorem State.stack_setVers (s : State) (k j : Nat) (v : Vers) : (s.setVers k v).stack j = s.stack j := rfl
@[simp] theorem State.stack_setLrec (s : State) (k j : Nat) (v : Option LayerRO) : (s.setLrec k v).stack j = s.stack j := rfl
@[simp] theorem State.ostler_setQueue (s : State) (k j : Nat) (v : Queue) : (s.setQueue k v).ostler j = s.ostler j := rfl
@[simp] theorem State.ostler_setPort (s : State) (k j : Nat) (v : Port) : (s.setPort k v).ostler j = s.ostler j := rfl
@[simp] theorem State.ostler_setEngine (s : State) (k j : Nat) (v : Engine) : (s.setEngine k v).ostler j = s.ostler j := rfl
@[simp] theorem State.ostler_setGroup (s : State) (k j : Nat) (v : Group) : (s.setGroup k v).ostler j = s.ostler j := rfl
@[simp] theorem State.ostler_setBay (s : State) (k j : Nat) (v : Bay) : (s.setBay k v).ostler j = s.ostler j := rfl
@[simp] theorem State.ostler_setDie (s : State) (k j : Nat) (v : Die) : (s.setDie k v).ostler j = s.ostler j := rfl
@[simp] theorem State.ostler_setStack (s : State) (k j : Nat) (v : Stack) : (s.setStack k v).ostler j = s.ostler j := rfl
@[simp] theorem State.ostler_setPower (s : State) (k j : Nat) (v : Power) : (s.setPower k v).ostler j = s.ostler j := rfl
@[simp] theorem State.ostler_setUnit (s : State) (k j : Nat) (v : UnitState) : (s.setUnit k v).ostler j = s.ostler j := rfl
@[simp] theorem State.ostler_setStall (s : State) (k j : Nat) (v : Option Stall) : (s.setStall k v).ostler j = s.ostler j := rfl
@[simp] theorem State.ostler_setRound (s : State) (k j : Nat) (v : Option Round) : (s.setRound k v).ostler j = s.ostler j := rfl
@[simp] theorem State.ostler_setVers (s : State) (k j : Nat) (v : Vers) : (s.setVers k v).ostler j = s.ostler j := rfl
@[simp] theorem State.ostler_setLrec (s : State) (k j : Nat) (v : Option LayerRO) : (s.setLrec k v).ostler j = s.ostler j := rfl
@[simp] theorem State.power_setQueue (s : State) (k j : Nat) (v : Queue) : (s.setQueue k v).power j = s.power j := rfl
@[simp] theorem State.power_setPort (s : State) (k j : Nat) (v : Port) : (s.setPort k v).power j = s.power j := rfl
@[simp] theorem State.power_setEngine (s : State) (k j : Nat) (v : Engine) : (s.setEngine k v).power j = s.power j := rfl
@[simp] theorem State.power_setGroup (s : State) (k j : Nat) (v : Group) : (s.setGroup k v).power j = s.power j := rfl
@[simp] theorem State.power_setBay (s : State) (k j : Nat) (v : Bay) : (s.setBay k v).power j = s.power j := rfl
@[simp] theorem State.power_setDie (s : State) (k j : Nat) (v : Die) : (s.setDie k v).power j = s.power j := rfl
@[simp] theorem State.power_setStack (s : State) (k j : Nat) (v : Stack) : (s.setStack k v).power j = s.power j := rfl
@[simp] theorem State.power_setOstler (s : State) (k j : Nat) (v : Ostler) : (s.setOstler k v).power j = s.power j := rfl
@[simp] theorem State.power_setUnit (s : State) (k j : Nat) (v : UnitState) : (s.setUnit k v).power j = s.power j := rfl
@[simp] theorem State.power_setStall (s : State) (k j : Nat) (v : Option Stall) : (s.setStall k v).power j = s.power j := rfl
@[simp] theorem State.power_setRound (s : State) (k j : Nat) (v : Option Round) : (s.setRound k v).power j = s.power j := rfl
@[simp] theorem State.power_setVers (s : State) (k j : Nat) (v : Vers) : (s.setVers k v).power j = s.power j := rfl
@[simp] theorem State.power_setLrec (s : State) (k j : Nat) (v : Option LayerRO) : (s.setLrec k v).power j = s.power j := rfl
@[simp] theorem State.unit_setQueue (s : State) (k j : Nat) (v : Queue) : (s.setQueue k v).unit j = s.unit j := rfl
@[simp] theorem State.unit_setPort (s : State) (k j : Nat) (v : Port) : (s.setPort k v).unit j = s.unit j := rfl
@[simp] theorem State.unit_setEngine (s : State) (k j : Nat) (v : Engine) : (s.setEngine k v).unit j = s.unit j := rfl
@[simp] theorem State.unit_setGroup (s : State) (k j : Nat) (v : Group) : (s.setGroup k v).unit j = s.unit j := rfl
@[simp] theorem State.unit_setBay (s : State) (k j : Nat) (v : Bay) : (s.setBay k v).unit j = s.unit j := rfl
@[simp] theorem State.unit_setDie (s : State) (k j : Nat) (v : Die) : (s.setDie k v).unit j = s.unit j := rfl
@[simp] theorem State.unit_setStack (s : State) (k j : Nat) (v : Stack) : (s.setStack k v).unit j = s.unit j := rfl
@[simp] theorem State.unit_setOstler (s : State) (k j : Nat) (v : Ostler) : (s.setOstler k v).unit j = s.unit j := rfl
@[simp] theorem State.unit_setPower (s : State) (k j : Nat) (v : Power) : (s.setPower k v).unit j = s.unit j := rfl
@[simp] theorem State.unit_setStall (s : State) (k j : Nat) (v : Option Stall) : (s.setStall k v).unit j = s.unit j := rfl
@[simp] theorem State.unit_setRound (s : State) (k j : Nat) (v : Option Round) : (s.setRound k v).unit j = s.unit j := rfl
@[simp] theorem State.unit_setVers (s : State) (k j : Nat) (v : Vers) : (s.setVers k v).unit j = s.unit j := rfl
@[simp] theorem State.unit_setLrec (s : State) (k j : Nat) (v : Option LayerRO) : (s.setLrec k v).unit j = s.unit j := rfl
@[simp] theorem State.stall_setQueue (s : State) (k j : Nat) (v : Queue) : (s.setQueue k v).stall j = s.stall j := rfl
@[simp] theorem State.stall_setPort (s : State) (k j : Nat) (v : Port) : (s.setPort k v).stall j = s.stall j := rfl
@[simp] theorem State.stall_setEngine (s : State) (k j : Nat) (v : Engine) : (s.setEngine k v).stall j = s.stall j := rfl
@[simp] theorem State.stall_setGroup (s : State) (k j : Nat) (v : Group) : (s.setGroup k v).stall j = s.stall j := rfl
@[simp] theorem State.stall_setBay (s : State) (k j : Nat) (v : Bay) : (s.setBay k v).stall j = s.stall j := rfl
@[simp] theorem State.stall_setDie (s : State) (k j : Nat) (v : Die) : (s.setDie k v).stall j = s.stall j := rfl
@[simp] theorem State.stall_setStack (s : State) (k j : Nat) (v : Stack) : (s.setStack k v).stall j = s.stall j := rfl
@[simp] theorem State.stall_setOstler (s : State) (k j : Nat) (v : Ostler) : (s.setOstler k v).stall j = s.stall j := rfl
@[simp] theorem State.stall_setPower (s : State) (k j : Nat) (v : Power) : (s.setPower k v).stall j = s.stall j := rfl
@[simp] theorem State.stall_setUnit (s : State) (k j : Nat) (v : UnitState) : (s.setUnit k v).stall j = s.stall j := rfl
@[simp] theorem State.stall_setRound (s : State) (k j : Nat) (v : Option Round) : (s.setRound k v).stall j = s.stall j := rfl
@[simp] theorem State.stall_setVers (s : State) (k j : Nat) (v : Vers) : (s.setVers k v).stall j = s.stall j := rfl
@[simp] theorem State.stall_setLrec (s : State) (k j : Nat) (v : Option LayerRO) : (s.setLrec k v).stall j = s.stall j := rfl
@[simp] theorem State.round_setQueue (s : State) (k j : Nat) (v : Queue) : (s.setQueue k v).round j = s.round j := rfl
@[simp] theorem State.round_setPort (s : State) (k j : Nat) (v : Port) : (s.setPort k v).round j = s.round j := rfl
@[simp] theorem State.round_setEngine (s : State) (k j : Nat) (v : Engine) : (s.setEngine k v).round j = s.round j := rfl
@[simp] theorem State.round_setGroup (s : State) (k j : Nat) (v : Group) : (s.setGroup k v).round j = s.round j := rfl
@[simp] theorem State.round_setBay (s : State) (k j : Nat) (v : Bay) : (s.setBay k v).round j = s.round j := rfl
@[simp] theorem State.round_setDie (s : State) (k j : Nat) (v : Die) : (s.setDie k v).round j = s.round j := rfl
@[simp] theorem State.round_setStack (s : State) (k j : Nat) (v : Stack) : (s.setStack k v).round j = s.round j := rfl
@[simp] theorem State.round_setOstler (s : State) (k j : Nat) (v : Ostler) : (s.setOstler k v).round j = s.round j := rfl
@[simp] theorem State.round_setPower (s : State) (k j : Nat) (v : Power) : (s.setPower k v).round j = s.round j := rfl
@[simp] theorem State.round_setUnit (s : State) (k j : Nat) (v : UnitState) : (s.setUnit k v).round j = s.round j := rfl
@[simp] theorem State.round_setStall (s : State) (k j : Nat) (v : Option Stall) : (s.setStall k v).round j = s.round j := rfl
@[simp] theorem State.round_setVers (s : State) (k j : Nat) (v : Vers) : (s.setVers k v).round j = s.round j := rfl
@[simp] theorem State.round_setLrec (s : State) (k j : Nat) (v : Option LayerRO) : (s.setLrec k v).round j = s.round j := rfl
@[simp] theorem State.vers_setQueue (s : State) (k j : Nat) (v : Queue) : (s.setQueue k v).vers j = s.vers j := rfl
@[simp] theorem State.vers_setPort (s : State) (k j : Nat) (v : Port) : (s.setPort k v).vers j = s.vers j := rfl
@[simp] theorem State.vers_setEngine (s : State) (k j : Nat) (v : Engine) : (s.setEngine k v).vers j = s.vers j := rfl
@[simp] theorem State.vers_setGroup (s : State) (k j : Nat) (v : Group) : (s.setGroup k v).vers j = s.vers j := rfl
@[simp] theorem State.vers_setBay (s : State) (k j : Nat) (v : Bay) : (s.setBay k v).vers j = s.vers j := rfl
@[simp] theorem State.vers_setDie (s : State) (k j : Nat) (v : Die) : (s.setDie k v).vers j = s.vers j := rfl
@[simp] theorem State.vers_setStack (s : State) (k j : Nat) (v : Stack) : (s.setStack k v).vers j = s.vers j := rfl
@[simp] theorem State.vers_setOstler (s : State) (k j : Nat) (v : Ostler) : (s.setOstler k v).vers j = s.vers j := rfl
@[simp] theorem State.vers_setPower (s : State) (k j : Nat) (v : Power) : (s.setPower k v).vers j = s.vers j := rfl
@[simp] theorem State.vers_setUnit (s : State) (k j : Nat) (v : UnitState) : (s.setUnit k v).vers j = s.vers j := rfl
@[simp] theorem State.vers_setStall (s : State) (k j : Nat) (v : Option Stall) : (s.setStall k v).vers j = s.vers j := rfl
@[simp] theorem State.vers_setRound (s : State) (k j : Nat) (v : Option Round) : (s.setRound k v).vers j = s.vers j := rfl
@[simp] theorem State.vers_setLrec (s : State) (k j : Nat) (v : Option LayerRO) : (s.setLrec k v).vers j = s.vers j := rfl
@[simp] theorem State.lrec_setQueue (s : State) (k j : Nat) (v : Queue) : (s.setQueue k v).lrec j = s.lrec j := rfl
@[simp] theorem State.lrec_setPort (s : State) (k j : Nat) (v : Port) : (s.setPort k v).lrec j = s.lrec j := rfl
@[simp] theorem State.lrec_setEngine (s : State) (k j : Nat) (v : Engine) : (s.setEngine k v).lrec j = s.lrec j := rfl
@[simp] theorem State.lrec_setGroup (s : State) (k j : Nat) (v : Group) : (s.setGroup k v).lrec j = s.lrec j := rfl
@[simp] theorem State.lrec_setBay (s : State) (k j : Nat) (v : Bay) : (s.setBay k v).lrec j = s.lrec j := rfl
@[simp] theorem State.lrec_setDie (s : State) (k j : Nat) (v : Die) : (s.setDie k v).lrec j = s.lrec j := rfl
@[simp] theorem State.lrec_setStack (s : State) (k j : Nat) (v : Stack) : (s.setStack k v).lrec j = s.lrec j := rfl
@[simp] theorem State.lrec_setOstler (s : State) (k j : Nat) (v : Ostler) : (s.setOstler k v).lrec j = s.lrec j := rfl
@[simp] theorem State.lrec_setPower (s : State) (k j : Nat) (v : Power) : (s.setPower k v).lrec j = s.lrec j := rfl
@[simp] theorem State.lrec_setUnit (s : State) (k j : Nat) (v : UnitState) : (s.setUnit k v).lrec j = s.lrec j := rfl
@[simp] theorem State.lrec_setStall (s : State) (k j : Nat) (v : Option Stall) : (s.setStall k v).lrec j = s.lrec j := rfl
@[simp] theorem State.lrec_setRound (s : State) (k j : Nat) (v : Option Round) : (s.setRound k v).lrec j = s.lrec j := rfl
@[simp] theorem State.lrec_setVers (s : State) (k j : Nat) (v : Vers) : (s.setVers k v).lrec j = s.lrec j := rfl

end Sys2Proof.Machine
end

