-- ==== Sys2Proof/Laws/Ops.lean ====
section
/-! SUPPORT. Laws of the shared operations of Machine/Ops.lean: memory, byte strings, the command table, interrupts and
error records. -/

namespace Sys2Proof.Machine

/-! ## Memory -/

@[simp] theorem State.byte_setByte (s : State) (a : Nat) (b : Byte) : (s.setByte a b).byte a = b := tget_tset_same _ _ _ _
theorem State.byte_setByte_other (s : State) (a c : Nat) (b : Byte) (h : c ≠ a) : (s.setByte a b).byte c = s.byte c :=
  tget_tset_other _ _ _ _ _ h
theorem State.wf_setByte (s : State) (a : Nat) (b : Byte) (h : Memory.wf s.mem = true) : Memory.wf (s.setByte a b).mem = true :=
  tableWf_tset _ _ _ _ h

theorem wf_writeTable (m : TMap Byte) (a : Nat) (bs : List Byte) (h : Memory.wf m = true) : Memory.wf (writeTable m a bs) = true := by
  induction bs generalizing m a with
  | nil => exact h
  | cons b bs ih => exact ih _ _ (tableWf_tset _ _ _ _ h)

/-- What a table of bytes reads as after a write of a byte string. -/
theorem tget_writeTable (m : TMap Byte) (a c : Nat) (bs : List Byte) :
    tget 0 (writeTable m a bs) c = if a ≤ c ∧ c < a + bs.length then bs.getD (c - a) 0 else tget 0 m c := by
  induction bs generalizing m a with
  | nil =>
    have h : ¬(a ≤ c ∧ c < a + ([] : List Byte).length) := by simp
    rw [if_neg h]; rfl
  | cons b bs ih =>
    simp only [writeTable, ih, tget_tset, List.length_cons]
    by_cases h1 : c = a
    · subst h1
      have h3 : ¬(c + 1 ≤ c ∧ c < c + 1 + bs.length) := by omega
      have h4 : c ≤ c ∧ c < c + (bs.length + 1) := by omega
      rw [if_neg h3, if_pos rfl, if_pos h4]; simp
    · by_cases h2 : a + 1 ≤ c ∧ c < a + 1 + bs.length
      · have h3 : a ≤ c ∧ c < a + (bs.length + 1) := by omega
        have h4 : c - a = (c - (a + 1)) + 1 := by omega
        simp [h2, h3, h4]
      · have h3 : ¬(a ≤ c ∧ c < a + (bs.length + 1)) := by omega
        rw [if_neg h2, if_neg h1, if_neg h3]

/-- Every byte after a store. -/
theorem State.byte_store (s : State) (a c : Nat) (bs : List Byte) :
    (s.store a bs).byte c = if a ≤ c ∧ c < a + bs.length then bs.getD (c - a) 0 else s.byte c := tget_writeTable _ _ _ _
/-- A store leaves every byte outside its span alone. -/
theorem State.byte_store_outside (s : State) (a c : Nat) (bs : List Byte) (h : c < a ∨ a + bs.length ≤ c) :
    (s.store a bs).byte c = s.byte c := by
  rw [State.byte_store, if_neg]; omega
theorem State.wf_store (s : State) (a : Nat) (bs : List Byte) (h : Memory.wf s.mem = true) : Memory.wf (s.store a bs).mem = true :=
  wf_writeTable _ _ _ h
theorem State.wf_storeHost (s : State) (a : Nat) (bs : List Byte) (h : Memory.wf s.hostMem = true) :
    Memory.wf (s.storeHost a bs).hostMem = true := wf_writeTable _ _ _ h

@[simp] theorem State.readBytes_length (s : State) (a n : Nat) : (s.readBytes a n).length = n := by
  induction n generalizing a with
  | zero => rfl
  | succ n ih => simp [State.readBytes, ih]

/-! ## Byte strings -/

@[simp] theorem bytesLE_length (n v : Nat) : (bytesLE n v).length = n := by
  induction n generalizing v with
  | zero => rfl
  | succ n ih => simp [bytesLE, ih]

/-- The number that `n` bytes of a number spell. -/
theorem natLE_bytesLE (n v : Nat) : natLE (bytesLE n v) = v % 256 ^ n := by
  induction n generalizing v with
  | zero => simp [bytesLE, natLE, Nat.mod_one]
  | succ n ih =>
    have h := Nat.mod_mul (x := v) (a := 256) (b := 256 ^ n)
    simp only [bytesLE, natLE, ih, BitVec.toNat_ofNat]
    rw [show 256 ^ (n + 1) = 256 * 256 ^ n by rw [Nat.pow_succ, Nat.mul_comm], h]

/-! ## The command table -/

/-- A change of an entry that keeps its number, seen through a read of the same number. -/
theorem State.cmd_onCmd (s : State) (c : CmdNo) (f : Cmd → Cmd) (h : ∀ x, (f x).no = x.no) :
    (s.onCmd c f).cmd c = (s.cmd c).map f := by
  unfold State.onCmd State.cmd
  simp only
  induction s.ck.cmds with
  | nil => rfl
  | cons y ys ih =>
    by_cases e : y.no = c
    · have h1 : (y.no == c) = true := by simp [e]
      have h2 : ((f y).no == c) = true := by simp [h, e]
      simp only [List.map_cons, h1, if_true, List.find?_cons, h2, Option.map_some]
    · have h1 : (y.no == c) = false := by simp [e]
      simp only [List.map_cons, h1, Bool.false_eq_true, if_false, List.find?_cons]
      exact ih

theorem State.cmd_onCmd_other (s : State) (c j : CmdNo) (f : Cmd → Cmd) (h : ∀ x, (f x).no = x.no) (hj : j ≠ c) :
    (s.onCmd c f).cmd j = s.cmd j := by
  unfold State.onCmd State.cmd
  simp only
  induction s.ck.cmds with
  | nil => rfl
  | cons y ys ih =>
    by_cases e : y.no = c
    · have h1 : (y.no == c) = true := by simp [e]
      have h2 : ((f y).no == j) = false := by simp [h, e, Ne.symm hj]
      have h3 : (y.no == j) = false := by simp [e, Ne.symm hj]
      simp only [List.map_cons, h1, if_true, List.find?_cons, h2, h3]
      exact ih
    · have h1 : (y.no == c) = false := by simp [e]
      simp only [List.map_cons, h1, Bool.false_eq_true, if_false, List.find?_cons, ih]

/-- What `running` answers: the entry is there, dispatched, not started, and of the opcode. -/
theorem State.running_eq (s : State) (c : CmdNo) (op : Nat) (x : Cmd) (h : s.running c op = some x) :
    s.cmd c = some x ∧ x.phase = .running ∧ x.hdr.opcode.toNat = op := by
  unfold State.running at h
  split at h
  · split at h
    · simp_all
    · simp at h
  · simp at h

theorem State.cmd_no (s : State) (c : CmdNo) (x : Cmd) (h : s.cmd c = some x) : x.no = c := by
  have := List.find?_some h
  simpa using this

/-- After its work ends normally, a command of the table that ran has ended with its normal status. -/
theorem State.cmd_doneCmd (s : State) (c : CmdNo) (x : Cmd) (h : s.cmd c = some x) (hp : x.phase ≠ .ended) :
    (s.doneCmd c).cmd c = some { x with phase := .ended, status := x.normalStatus } := by
  unfold State.doneCmd
  rw [State.cmd_onCmd _ _ _ (fun y => by split <;> rfl), h]
  simp [hp]

/-! ## Interrupts: they change the port and what leaves the part, nothing else -/

/-- What signalling a vector can do. -/
theorem State.signal_cases (s : State) (v : Nat) :
    s.signal v = s.emit (.msix v (tget ({} : MsixEntry) s.hp.msix v).addr (tget ({} : MsixEntry) s.hp.msix v).data) ∨ s.signal v = { s with hp := { s.hp with pba := s.hp.pba ||| BitVec.ofNat 70 (2 ^ v) } } := by
  unfold State.signal; simp only; split <;> simp

/-- After a cause is set its bit reads 1, and the mask and the rest of the port but the pending bits stay. -/
theorem State.setCause_eq (s : State) (k : Nat) :
    ∃ o p, s.setCause k = { s with out := o, hp := { s.hp with cause := (s.setCause k).hp.cause, pba := p } } := by
  unfold State.setCause
  split
  · exact ⟨s.out, s.hp.pba, rfl⟩
  · simp only
    split
    · exact ⟨s.out, s.hp.pba, rfl⟩
    · rcases State.signal_cases { s with hp := { s.hp with cause := s.hp.cause ||| BitVec.ofNat 6 (2 ^ k) } } (64 + k) with h | h
      · exact ⟨s.out ++ [.msix (64 + k) (tget ({} : MsixEntry) s.hp.msix (64 + k)).addr (tget ({} : MsixEntry) s.hp.msix (64 + k)).data], s.hp.pba, by rw [h]; rfl⟩
      · exact ⟨s.out, s.hp.pba ||| BitVec.ofNat 70 (2 ^ (64 + k)), by rw [h]⟩

@[simp] theorem State.setCause_pending (s : State) (k : Nat) : (s.setCause k).pending = s.pending := by
  obtain ⟨o, p, h⟩ := s.setCause_eq k; rw [h]
@[simp] theorem State.setCause_freeCtr (s : State) (k : Nat) : (s.setCause k).freeCtr = s.freeCtr := by
  obtain ⟨o, p, h⟩ := s.setCause_eq k; rw [h]
@[simp] theorem State.setCause_resp (s : State) (k : Nat) : (s.setCause k).resp = s.resp := by
  obtain ⟨o, p, h⟩ := s.setCause_eq k; rw [h]
@[simp] theorem State.setCause_respPoison (s : State) (k : Nat) : (s.setCause k).respPoison = s.respPoison := by
  obtain ⟨o, p, h⟩ := s.setCause_eq k; rw [h]
@[simp] theorem State.setCause_hostMem (s : State) (k : Nat) : (s.setCause k).hostMem = s.hostMem := by
  obtain ⟨o, p, h⟩ := s.setCause_eq k; rw [h]
@[simp] theorem State.setCause_mem (s : State) (k : Nat) : (s.setCause k).mem = s.mem := by
  obtain ⟨o, p, h⟩ := s.setCause_eq k; rw [h]
@[simp] theorem State.setCause_poison (s : State) (k : Nat) : (s.setCause k).poison = s.poison := by
  obtain ⟨o, p, h⟩ := s.setCause_eq k; rw [h]
@[simp] theorem State.setCause_staging (s : State) (k : Nat) : (s.setCause k).staging = s.staging := by
  obtain ⟨o, p, h⟩ := s.setCause_eq k; rw [h]
@[simp] theorem State.setCause_clk (s : State) (k : Nat) : (s.setCause k).clk = s.clk := by
  obtain ⟨o, p, h⟩ := s.setCause_eq k; rw [h]
@[simp] theorem State.setCause_brd (s : State) (k : Nat) : (s.setCause k).brd = s.brd := by
  obtain ⟨o, p, h⟩ := s.setCause_eq k; rw [h]
@[simp] theorem State.setCause_flash (s : State) (k : Nat) : (s.setCause k).flash = s.flash := by
  obtain ⟨o, p, h⟩ := s.setCause_eq k; rw [h]
@[simp] theorem State.setCause_boot (s : State) (k : Nat) : (s.setCause k).boot = s.boot := by
  obtain ⟨o, p, h⟩ := s.setCause_eq k; rw [h]
@[simp] theorem State.setCause_mb (s : State) (k : Nat) : (s.setCause k).mb = s.mb := by
  obtain ⟨o, p, h⟩ := s.setCause_eq k; rw [h]
@[simp] theorem State.setCause_ck (s : State) (k : Nat) : (s.setCause k).ck = s.ck := by
  obtain ⟨o, p, h⟩ := s.setCause_eq k; rw [h]
@[simp] theorem State.setCause_stackTab (s : State) (k : Nat) : (s.setCause k).stackTab = s.stackTab := by
  obtain ⟨o, p, h⟩ := s.setCause_eq k; rw [h]
@[simp] theorem State.setCause_ostlers (s : State) (k : Nat) : (s.setCause k).ostlers = s.ostlers := by
  obtain ⟨o, p, h⟩ := s.setCause_eq k; rw [h]
@[simp] theorem State.setCause_ostSel (s : State) (k : Nat) : (s.setCause k).ostSel = s.ostSel := by
  obtain ⟨o, p, h⟩ := s.setCause_eq k; rw [h]
@[simp] theorem State.setCause_ab (s : State) (k : Nat) : (s.setCause k).ab = s.ab := by
  obtain ⟨o, p, h⟩ := s.setCause_eq k; rw [h]
@[simp] theorem State.setCause_tal (s : State) (k : Nat) : (s.setCause k).tal = s.tal := by
  obtain ⟨o, p, h⟩ := s.setCause_eq k; rw [h]
@[simp] theorem State.setCause_dies (s : State) (k : Nat) : (s.setCause k).dies = s.dies := by
  obtain ⟨o, p, h⟩ := s.setCause_eq k; rw [h]
@[simp] theorem State.setCause_bays (s : State) (k : Nat) : (s.setCause k).bays = s.bays := by
  obtain ⟨o, p, h⟩ := s.setCause_eq k; rw [h]
@[simp] theorem State.setCause_millerHalf (s : State) (k : Nat) : (s.setCause k).millerHalf = s.millerHalf := by
  obtain ⟨o, p, h⟩ := s.setCause_eq k; rw [h]
@[simp] theorem State.setCause_pw (s : State) (k : Nat) : (s.setCause k).pw = s.pw := by
  obtain ⟨o, p, h⟩ := s.setCause_eq k; rw [h]
@[simp] theorem State.setCause_refusals (s : State) (k : Nat) : (s.setCause k).refusals = s.refusals := by
  obtain ⟨o, p, h⟩ := s.setCause_eq k; rw [h]
@[simp] theorem State.setCause_logTotal (s : State) (k : Nat) : (s.setCause k).logTotal = s.logTotal := by
  obtain ⟨o, p, h⟩ := s.setCause_eq k; rw [h]
@[simp] theorem State.setCause_units (s : State) (k : Nat) : (s.setCause k).units = s.units := by
  obtain ⟨o, p, h⟩ := s.setCause_eq k; rw [h]
@[simp] theorem State.setCause_capsules (s : State) (k : Nat) : (s.setCause k).capsules = s.capsules := by
  obtain ⟨o, p, h⟩ := s.setCause_eq k; rw [h]
@[simp] theorem State.setCause_mg (s : State) (k : Nat) : (s.setCause k).mg = s.mg := by
  obtain ⟨o, p, h⟩ := s.setCause_eq k; rw [h]
@[simp] theorem State.setCause_hp_resetting (s : State) (k : Nat) : (s.setCause k).hp.resetting = s.hp.resetting := by
  obtain ⟨o, p, h⟩ := s.setCause_eq k; rw [h]
@[simp] theorem State.setCause_hp_linkUp (s : State) (k : Nat) : (s.setCause k).hp.linkUp = s.hp.linkUp := by
  obtain ⟨o, p, h⟩ := s.setCause_eq k; rw [h]
@[simp] theorem State.setCause_hp_mode (s : State) (k : Nat) : (s.setCause k).hp.mode = s.hp.mode := by
  obtain ⟨o, p, h⟩ := s.setCause_eq k; rw [h]
@[simp] theorem State.setCause_hp_width (s : State) (k : Nat) : (s.setCause k).hp.width = s.hp.width := by
  obtain ⟨o, p, h⟩ := s.setCause_eq k; rw [h]
@[simp] theorem State.setCause_hp_mask (s : State) (k : Nat) : (s.setCause k).hp.mask = s.hp.mask := by
  obtain ⟨o, p, h⟩ := s.setCause_eq k; rw [h]
@[simp] theorem State.setCause_hp_notOwner (s : State) (k : Nat) : (s.setCause k).hp.notOwner = s.hp.notOwner := by
  obtain ⟨o, p, h⟩ := s.setCause_eq k; rw [h]
@[simp] theorem State.setCause_hp_lostReply (s : State) (k : Nat) : (s.setCause k).hp.lostReply = s.hp.lostReply := by
  obtain ⟨o, p, h⟩ := s.setCause_eq k; rw [h]
@[simp] theorem State.setCause_hp_msix (s : State) (k : Nat) : (s.setCause k).hp.msix = s.hp.msix := by
  obtain ⟨o, p, h⟩ := s.setCause_eq k; rw [h]
@[simp] theorem State.setCause_hp_msixEnable (s : State) (k : Nat) : (s.setCause k).hp.msixEnable = s.hp.msixEnable := by
  obtain ⟨o, p, h⟩ := s.setCause_eq k; rw [h]
@[simp] theorem State.setCause_hp_msixFnMask (s : State) (k : Nat) : (s.setCause k).hp.msixFnMask = s.hp.msixFnMask := by
  obtain ⟨o, p, h⟩ := s.setCause_eq k; rw [h]
@[simp] theorem State.setCause_hp_bar0 (s : State) (k : Nat) : (s.setCause k).hp.bar0 = s.hp.bar0 := by
  obtain ⟨o, p, h⟩ := s.setCause_eq k; rw [h]
@[simp] theorem State.setCause_hp_bar2 (s : State) (k : Nat) : (s.setCause k).hp.bar2 = s.hp.bar2 := by
  obtain ⟨o, p, h⟩ := s.setCause_eq k; rw [h]
@[simp] theorem State.setCause_hp_command (s : State) (k : Nat) : (s.setCause k).hp.command = s.hp.command := by
  obtain ⟨o, p, h⟩ := s.setCause_eq k; rw [h]
@[simp] theorem State.setCause_hp_hdm0 (s : State) (k : Nat) : (s.setCause k).hp.hdm0 = s.hp.hdm0 := by
  obtain ⟨o, p, h⟩ := s.setCause_eq k; rw [h]
@[simp] theorem State.setCause_hp_hdm1 (s : State) (k : Nat) : (s.setCause k).hp.hdm1 = s.hp.hdm1 := by
  obtain ⟨o, p, h⟩ := s.setCause_eq k; rw [h]
@[simp] theorem State.setCause_hp_dec0 (s : State) (k : Nat) : (s.setCause k).hp.dec0 = s.hp.dec0 := by
  obtain ⟨o, p, h⟩ := s.setCause_eq k; rw [h]
@[simp] theorem State.setCause_hp_dec1 (s : State) (k : Nat) : (s.setCause k).hp.dec1 = s.hp.dec1 := by
  obtain ⟨o, p, h⟩ := s.setCause_eq k; rw [h]
@[simp] theorem State.setCause_hp_ide0 (s : State) (k : Nat) : (s.setCause k).hp.ide0 = s.hp.ide0 := by
  obtain ⟨o, p, h⟩ := s.setCause_eq k; rw [h]
@[simp] theorem State.setCause_hp_ide1 (s : State) (k : Nat) : (s.setCause k).hp.ide1 = s.hp.ide1 := by
  obtain ⟨o, p, h⟩ := s.setCause_eq k; rw [h]
@[simp] theorem State.setCause_hp_snoop (s : State) (k : Nat) : (s.setCause k).hp.snoop = s.hp.snoop := by
  obtain ⟨o, p, h⟩ := s.setCause_eq k; rw [h]
@[simp] theorem State.setCause_hp_qcache (s : State) (k : Nat) : (s.setCause k).hp.qcache = s.hp.qcache := by
  obtain ⟨o, p, h⟩ := s.setCause_eq k; rw [h]

/-! ## Error records -/

/-- What writing a record does: the index counts on, the newest records are kept, CAUSE bit 3 is set. -/
theorem State.note_index (s : State) (r : ErrRec) : (s.note r).mg.nextIndex = nextIndex s.mg.nextIndex := by
  unfold State.note State.record; simp

@[simp] theorem State.record_pending (s : State) (r : ErrRec) : (s.record r).2.pending = s.pending := by unfold State.record; simp
@[simp] theorem State.note_pending (s : State) (r : ErrRec) : (s.note r).pending = s.pending := by unfold State.note; simp
@[simp] theorem State.record_resp (s : State) (r : ErrRec) : (s.record r).2.resp = s.resp := by unfold State.record; simp
@[simp] theorem State.note_resp (s : State) (r : ErrRec) : (s.note r).resp = s.resp := by unfold State.note; simp
@[simp] theorem State.record_respPoison (s : State) (r : ErrRec) : (s.record r).2.respPoison = s.respPoison := by unfold State.record; simp
@[simp] theorem State.note_respPoison (s : State) (r : ErrRec) : (s.note r).respPoison = s.respPoison := by unfold State.note; simp
@[simp] theorem State.record_hostMem (s : State) (r : ErrRec) : (s.record r).2.hostMem = s.hostMem := by unfold State.record; simp
@[simp] theorem State.note_hostMem (s : State) (r : ErrRec) : (s.note r).hostMem = s.hostMem := by unfold State.note; simp
@[simp] theorem State.record_mem (s : State) (r : ErrRec) : (s.record r).2.mem = s.mem := by unfold State.record; simp
@[simp] theorem State.note_mem (s : State) (r : ErrRec) : (s.note r).mem = s.mem := by unfold State.note; simp
@[simp] theorem State.record_poison (s : State) (r : ErrRec) : (s.record r).2.poison = s.poison := by unfold State.record; simp
@[simp] theorem State.note_poison (s : State) (r : ErrRec) : (s.note r).poison = s.poison := by unfold State.note; simp
@[simp] theorem State.record_staging (s : State) (r : ErrRec) : (s.record r).2.staging = s.staging := by unfold State.record; simp
@[simp] theorem State.note_staging (s : State) (r : ErrRec) : (s.note r).staging = s.staging := by unfold State.note; simp
@[simp] theorem State.record_clk (s : State) (r : ErrRec) : (s.record r).2.clk = s.clk := by unfold State.record; simp
@[simp] theorem State.note_clk (s : State) (r : ErrRec) : (s.note r).clk = s.clk := by unfold State.note; simp
@[simp] theorem State.record_brd (s : State) (r : ErrRec) : (s.record r).2.brd = s.brd := by unfold State.record; simp
@[simp] theorem State.note_brd (s : State) (r : ErrRec) : (s.note r).brd = s.brd := by unfold State.note; simp
@[simp] theorem State.record_flash (s : State) (r : ErrRec) : (s.record r).2.flash = s.flash := by unfold State.record; simp
@[simp] theorem State.note_flash (s : State) (r : ErrRec) : (s.note r).flash = s.flash := by unfold State.note; simp
@[simp] theorem State.record_boot (s : State) (r : ErrRec) : (s.record r).2.boot = s.boot := by unfold State.record; simp
@[simp] theorem State.note_boot (s : State) (r : ErrRec) : (s.note r).boot = s.boot := by unfold State.note; simp
@[simp] theorem State.record_mb (s : State) (r : ErrRec) : (s.record r).2.mb = s.mb := by unfold State.record; simp
@[simp] theorem State.note_mb (s : State) (r : ErrRec) : (s.note r).mb = s.mb := by unfold State.note; simp
@[simp] theorem State.record_ck (s : State) (r : ErrRec) : (s.record r).2.ck = s.ck := by unfold State.record; simp
@[simp] theorem State.note_ck (s : State) (r : ErrRec) : (s.note r).ck = s.ck := by unfold State.note; simp
@[simp] theorem State.record_stackTab (s : State) (r : ErrRec) : (s.record r).2.stackTab = s.stackTab := by unfold State.record; simp
@[simp] theorem State.note_stackTab (s : State) (r : ErrRec) : (s.note r).stackTab = s.stackTab := by unfold State.note; simp
@[simp] theorem State.record_ostlers (s : State) (r : ErrRec) : (s.record r).2.ostlers = s.ostlers := by unfold State.record; simp
@[simp] theorem State.note_ostlers (s : State) (r : ErrRec) : (s.note r).ostlers = s.ostlers := by unfold State.note; simp
@[simp] theorem State.record_ostSel (s : State) (r : ErrRec) : (s.record r).2.ostSel = s.ostSel := by unfold State.record; simp
@[simp] theorem State.note_ostSel (s : State) (r : ErrRec) : (s.note r).ostSel = s.ostSel := by unfold State.note; simp
@[simp] theorem State.record_ab (s : State) (r : ErrRec) : (s.record r).2.ab = s.ab := by unfold State.record; simp
@[simp] theorem State.note_ab (s : State) (r : ErrRec) : (s.note r).ab = s.ab := by unfold State.note; simp
@[simp] theorem State.record_tal (s : State) (r : ErrRec) : (s.record r).2.tal = s.tal := by unfold State.record; simp
@[simp] theorem State.note_tal (s : State) (r : ErrRec) : (s.note r).tal = s.tal := by unfold State.note; simp
@[simp] theorem State.record_dies (s : State) (r : ErrRec) : (s.record r).2.dies = s.dies := by unfold State.record; simp
@[simp] theorem State.note_dies (s : State) (r : ErrRec) : (s.note r).dies = s.dies := by unfold State.note; simp
@[simp] theorem State.record_bays (s : State) (r : ErrRec) : (s.record r).2.bays = s.bays := by unfold State.record; simp
@[simp] theorem State.note_bays (s : State) (r : ErrRec) : (s.note r).bays = s.bays := by unfold State.note; simp
@[simp] theorem State.record_millerHalf (s : State) (r : ErrRec) : (s.record r).2.millerHalf = s.millerHalf := by unfold State.record; simp
@[simp] theorem State.note_millerHalf (s : State) (r : ErrRec) : (s.note r).millerHalf = s.millerHalf := by unfold State.note; simp
@[simp] theorem State.record_pw (s : State) (r : ErrRec) : (s.record r).2.pw = s.pw := by unfold State.record; simp
@[simp] theorem State.note_pw (s : State) (r : ErrRec) : (s.note r).pw = s.pw := by unfold State.note; simp
@[simp] theorem State.record_refusals (s : State) (r : ErrRec) : (s.record r).2.refusals = s.refusals := by unfold State.record; simp
@[simp] theorem State.note_refusals (s : State) (r : ErrRec) : (s.note r).refusals = s.refusals := by unfold State.note; simp
@[simp] theorem State.record_logTotal (s : State) (r : ErrRec) : (s.record r).2.logTotal = s.logTotal := by unfold State.record; simp
@[simp] theorem State.note_logTotal (s : State) (r : ErrRec) : (s.note r).logTotal = s.logTotal := by unfold State.note; simp
@[simp] theorem State.record_units (s : State) (r : ErrRec) : (s.record r).2.units = s.units := by unfold State.record; simp
@[simp] theorem State.note_units (s : State) (r : ErrRec) : (s.note r).units = s.units := by unfold State.note; simp
@[simp] theorem State.record_capsules (s : State) (r : ErrRec) : (s.record r).2.capsules = s.capsules := by unfold State.record; simp
@[simp] theorem State.note_capsules (s : State) (r : ErrRec) : (s.note r).capsules = s.capsules := by unfold State.note; simp

/-! ## Free values, timers, accesses over CXL.io -/

@[simp] theorem State.fresh_eq (s : State) (p i : Nat) : s.fresh p i = (Config.free s.freeCtr p i, { s with freeCtr := s.freeCtr + 1 }) := rfl
@[simp] theorem State.latched_of_nil (s : State) (f : Instr → Bool) (h : s.pending = []) : s.latched f = false := by simp [State.latched, h]
theorem State.latched_iff (s : State) (f : Instr → Bool) : s.latched f = true ↔ ∃ i ∈ s.pending, f i = true := by simp [State.latched]
/-- What an access over CXL.io can do: what it asks, or nothing while its stream is insecure. -/
theorem State.viaIo_cases (s : State) (k : State → State) : s.ioOpen = true ∧ s.viaIo k = k s ∨ s.ioOpen = false ∧ s.viaIo k = s := by
  unfold State.viaIo; split <;> simp_all
@[simp] theorem State.viaIo_open (s : State) (k : State → State) (h : s.ioOpen = true) : s.viaIo k = k s := by simp [State.viaIo, h]
@[simp] theorem State.viaIo_insecure (s : State) (k : State → State) (h : s.ioOpen = false) : s.viaIo k = s := by simp [State.viaIo, h]
@[simp] theorem State.reached_self (s : State) : s.reached s.now = true := by simp [State.reached, State.now]

end Sys2Proof.Machine
end

