-- ==== Sys2Proof/Laws/Clerk.lean ====
section
/-! SUPPORT. Laws of the Clerk's shared operations: queues and ownership. -/

namespace Sys2Proof.Machine

theorem State.foldQueues (l : List Nat) (hl : l.Nodup) (s : State) (f : Nat → Queue → Queue) :
    ∃ qs, l.foldl (fun t q => t.setQueue q (f q (t.queue q))) s = { s with ck := { s.ck with queues := qs } } ∧
      ∀ q, tget {} qs q = if q ∈ l then f q (s.queue q) else s.queue q := by
  induction l generalizing s with
  | nil => exact ⟨s.ck.queues, rfl, fun q => by simp; rfl⟩
  | cons a l ih =>
    obtain ⟨qs, h1, h2⟩ := ih (List.nodup_cons.mp hl).2 (s.setQueue a (f a (s.queue a)))
    refine ⟨qs, by simpa using h1, fun q => ?_⟩
    rw [h2]
    by_cases e : q = a
    · subst e; simp [(List.nodup_cons.mp hl).1]
    · simp [e, State.queue_setQueue_other]

/-- Changing every queue changes the queues alone, each by the function. -/
theorem State.mapQueues_eq (s : State) (f : Nat → Queue → Queue) :
    ∃ qs, s.mapQueues f = { s with ck := { s.ck with queues := qs } } ∧
      ∀ q, tget {} qs q = if q < 64 then f q (s.queue q) else s.queue q := by
  obtain ⟨qs, h1, h2⟩ := State.foldQueues (List.range 64) List.nodup_range s f
  exact ⟨qs, h1, fun q => by simpa using h2 q⟩

/-- A new owner: the owner changes, every queue's grant ends, nothing else changes. -/
theorem State.own_eq (s : State) (o : Owner) :
    ∃ qs, s.own o = { s with ck := { s.ck with owner := o, queues := qs } } ∧
      ∀ q, tget {} qs q = if q < 64 then { s.queue q with granted := false } else s.queue q := by
  obtain ⟨qs, h1, h2⟩ := State.mapQueues_eq { s with ck := { s.ck with owner := o } } (fun _ q => { q with granted := false })
  exact ⟨qs, h1, h2⟩

end Sys2Proof.Machine
end

