-- ==== Sys2Proof/Laws/Host.lean ====
section
/-! SUPPORT. Laws of the mailboxes and the other units of the host port. -/

namespace Sys2Proof.Machine

@[simp] theorem State.h2c_setH2c (s : State) (i : Nat) (m : Mailbox) : (s.setH2c i m).h2c i = m := tget_tset_same _ _ _ _
theorem State.h2c_setH2c_other (s : State) (i j : Nat) (m : Mailbox) (h : j ≠ i) : (s.setH2c i m).h2c j = s.h2c j :=
  tget_tset_other _ _ _ _ _ h
@[simp] theorem State.c2h_setC2h (s : State) (i : Nat) (m : Mailbox) : (s.setC2h i m).c2h i = m := tget_tset_same _ _ _ _
theorem State.c2h_setC2h_other (s : State) (i j : Nat) (m : Mailbox) (h : j ≠ i) : (s.setC2h i m).c2h j = s.c2h j :=
  tget_tset_other _ _ _ _ _ h
@[simp] theorem State.holdReg_setHoldReg (s : State) (i : Nat) (v : Option U32) : (s.setHoldReg i v).holdReg i = v := tget_tset_same _ _ _ _
@[simp] theorem State.c2h_setH2c (s : State) (i j : Nat) (m : Mailbox) : (s.setH2c i m).c2h j = s.c2h j := rfl
@[simp] theorem State.h2c_setC2h (s : State) (i j : Nat) (m : Mailbox) : (s.setC2h i m).h2c j = s.h2c j := rfl
@[simp] theorem State.holdReg_setH2c (s : State) (i j : Nat) (m : Mailbox) : (s.setH2c i m).holdReg j = s.holdReg j := rfl
@[simp] theorem State.holdReg_setC2h (s : State) (i j : Nat) (m : Mailbox) : (s.setC2h i m).holdReg j = s.holdReg j := rfl
@[simp] theorem State.h2c_setHoldReg (s : State) (i j : Nat) (v : Option U32) : (s.setHoldReg i v).h2c j = s.h2c j := rfl
@[simp] theorem State.c2h_setHoldReg (s : State) (i j : Nat) (v : Option U32) : (s.setHoldReg i v).c2h j = s.c2h j := rfl
@[simp] theorem State.h2c_setCause (s : State) (k j : Nat) : (s.setCause k).h2c j = s.h2c j := by unfold State.h2c; simp
@[simp] theorem State.c2h_setCause (s : State) (k j : Nat) : (s.setCause k).c2h j = s.c2h j := by unfold State.c2h; simp
@[simp] theorem State.holdReg_setCause (s : State) (k j : Nat) : (s.setCause k).holdReg j = s.holdReg j := by unfold State.holdReg; simp
@[simp] theorem State.h2c_answer (s : State) (n v j : Nat) : (s.answer n v).h2c j = s.h2c j := rfl
@[simp] theorem State.c2h_answer (s : State) (n v j : Nat) : (s.answer n v).c2h j = s.c2h j := rfl
@[simp] theorem State.holdReg_answer (s : State) (n v j : Nat) : (s.answer n v).holdReg j = s.holdReg j := rfl
@[simp] theorem State.hdm_setHdm (s : State) (n : Nat) (r : HdmRange) : (s.setHdm n r).hdm n = r := by
  unfold State.hdm State.setHdm; by_cases h : n = 0 <;> simp [h]
@[simp] theorem State.dec_setDec (s : State) (n : Nat) (d : HdmDecoder) : (s.setDec n d).dec n = d := by
  unfold State.dec State.setDec; by_cases h : n = 0 <;> simp [h]

end Sys2Proof.Machine
end

