-- ==== Sys2Proof/Machine/Wire.lean ====
section
/-! DEFINITION. A flit as its 256 bytes: header, payload and CRC-64 (R252, R254), and the codewords that carry flits (R252). -/

namespace Sys2Proof.Machine

/-- The 128 bits of a flit's header (Table 09-4). -/
def flitHeader (f : Flit) : Nat :=
  pack [(124, 4, f.kind.toNat), (122, 2, f.vc.toNat), (110, 12, f.seq.toNat), (98, 12, f.ack.toNat), (97, 1, b1 f.nak), (96, 1, b1 f.sr), (80, 16, f.dst.toNat),
    (64, 16, f.src.toNat), (56, 8, f.payload.length), (54, 2, f.crvc.toNat), (44, 10, f.crcnt.toNat), (43, 1, b1 f.park), (40, 3, f.hop.toNat), (34, 6, f.ttl.toNat),
    (24, 8, f.stall.toNat), (0, 24, f.tag.toNat)]

/-- One byte of the CRC-64 with the generator polynomial of R254, the most significant bit first. DESIGN CHOICE (log 62): the spec does not
say which bit of a byte goes first. -/
def crcByte (c : U64) (b : Byte) : U64 :=
  (List.range 8).foldl (fun (c : U64) _ => if c.getLsbD 63 then (c <<< 1) ^^^ 0x42F0E1EBA9EA3693 else c <<< 1) (c ^^^ ((b.setWidth 64) <<< 56))

/-- CRC-64: starts at all ones, inverted at the end (R254). -/
def crc64 (bs : List Byte) : U64 := ~~~(bs.foldl crcByte (BitVec.allOnes 64))

/-- Bytes 0 to 247 of a flit: header and payload, unused bytes zero (R252). -/
def flitBody (f : Flit) : List Byte := bytesLE 16 (flitHeader f) ++ (f.payload ++ List.replicate (232 - f.payload.length) 0).take 232

/-- The 256 bytes of a flit (R252, R254). -/
def flitImage (f : Flit) : List Byte := flitBody f ++ bytesLE 8 (crc64 (flitBody f)).toNat

/-- The CRC of 256 received bytes holds (R254). -/
def crcOk (bs : List Byte) : Bool := bs.length = 256 && (crc64 (bs.take 248)).toNat = fieldAt bs 248 8

/-- The flit that 256 received bytes carry (R252): none where the CRC fails, which is the command FLIT_DISCARD (R254). -/
def flitOfImage (bs : List Byte) : Option Flit :=
  if !crcOk bs then none
  else
    let h := fieldAt bs 0 16
    some { kind := BitVec.ofNat 4 (bits h 127 124), vc := BitVec.ofNat 2 (bits h 123 122), seq := BitVec.ofNat 12 (bits h 121 110), ack := BitVec.ofNat 12 (bits h 109 98)
           nak := bit h 97, sr := bit h 96, dst := BitVec.ofNat 16 (bits h 95 80), src := BitVec.ofNat 16 (bits h 79 64), crvc := BitVec.ofNat 2 (bits h 55 54)
           crcnt := BitVec.ofNat 10 (bits h 53 44), park := bit h 43, hop := BitVec.ofNat 3 (bits h 42 40), ttl := BitVec.ofNat 6 (bits h 39 34)
           stall := BitVec.ofNat 8 (bits h 31 24), tag := BitVec.ofNat 24 (bits h 23 0), payload := slice bs 16 (min 232 (bits h 63 56)) }

/-- A codeword of RS(544, 514): 514 symbols of 10 bits of the flit stream, and 30 check symbols (R252). The spec gives neither the field's
polynomial nor the code's generator: the check symbols are free (log 62). -/
def codeword (stream : Nat) (k : Nat) : List (BitVec 10) :=
  let data := (List.range 514).map (fun i => BitVec.ofNat 10 (stream / 2 ^ (5140 * k + 10 * i)))
  data ++ (List.range 30).map (fun j => Config.rsCheck data j)

/-- The flits sent on a port, end to end, as the bits that fill codewords (R252): a flit may span two codewords. -/
def flitStream (fs : List Flit) : Nat := fieldAt (fs.flatMap flitImage) 0 (256 * fs.length)

end Sys2Proof.Machine
end

