-- ==== Sys2Proof/Tests/Slice0.lean ====
section
/-! SUPPORT. Tests: ill-formed terms that WellFormed refuses, witnesses of the statements' hypotheses, and the spec's own
examples. The expected values are the spec's. -/

namespace Sys2Proof.Tests
set_option Elab.async false
open Sys2Proof Sys2Proof.Machine

/-! ## Helpers -/

/-- The module up and READY, the link up in 256-byte mode. -/
def up : State :=
  { State.reset with brd := { sense := true, inrush := true, pg := true, mgmtRom := true, mgmtRun := true, modPg := true, abrefOk := true, cxlRefOk := true, powered := true }, boot := { ready := true }, hp := { linkUp := true, mode := 1, width := 16 } }
def owned (s : State) (o : Owner) : State := { s with ck := { s.ck with owner := o } }
def withQueue (s : State) (q : Queue) : State := s.setQueue 3 q
/-- A command of an opcode on a stall, number 7, with parameters given as (offset, bytes, value). -/
def cmdOf (op stall : Nat) (fs : List (Nat × Nat × Nat)) (ph : Phase := .running) : Cmd :=
  { no := 7, origin := .queue 0, hdr := { opcode := BitVec.ofNat 16 op, stall := BitVec.ofNat 8 stall }, phase := ph
    params := bytesLE 48 (pack (fs.map (fun f => (8 * f.1, 8 * f.2.1, f.2.2)))) }
def withCmd (s : State) (x : Cmd) : State := { s with ck := { s.ck with cmds := [x] } }

/-! ## Well-formedness: one ill-formed term for each check -/

def okFlit (k vc : Nat) : Flit := { kind := BitVec.ofNat 4 k, vc := BitVec.ofNat 2 vc, payload := [1, 2] }
def okHdr : CollHdr := ⟨1, 0, 1, 0, 0, 0, false, false, 0, 0, 0, 0, 0, false, false⟩
def okProbe : Probe := ⟨5, true, 1, 9, 3, []⟩
def okTest : TestResult := ⟨0xF, 1, false, false, false, 3, 1, 0, 70, 700, 1600, [], true⟩

theorem test_wf_accepts : (Instr.cmdFlit 0 (okFlit 8 1)).wf = true ∧ (Instr.poll 0 (okFlit 9 0) okHdr).wf = true ∧ (Instr.caps 0).wf = true ∧
    (Instr.memWrite 0 (okFlit 4 1) ⟨0, 2, [1, 2]⟩).wf = true ∧ (Instr.verdict 0x1000 okTest).wf = true ∧ (Instr.cxlLinkUp 1 16).wf = true := by decide +kernel
theorem test_wf_kind : (Instr.cmdFlit 0 (okFlit 7 1)).wf = false ∧ (Instr.heartbeat 0 (okFlit 0 0)).wf = false ∧ (Instr.probe 0 (okFlit 3 0) okProbe).wf = false ∧
    (Instr.probeReply 0 (okFlit 2 0) okProbe).wf = false ∧ (Instr.resp 0 (okFlit 8 2) ⟨false, 0, 0, []⟩).wf = false ∧
    (Instr.segGrant 0 (okFlit 8 3) okHdr).wf = false ∧ (Instr.arrive 0 (okFlit 8 3) okHdr).wf = false ∧ (Instr.release 0 (okFlit 8 3) okHdr).wf = false ∧
    (Instr.abort 0 (okFlit 8 3) okHdr).wf = false ∧ (Instr.pollAns 0 (okFlit 8 0) okHdr).wf = false := by decide +kernel
theorem test_wf_channel : (Instr.cmdFlit 0 (okFlit 8 2)).wf = false ∧ (Instr.poll 0 (okFlit 9 3) okHdr).wf = false ∧
    (Instr.allgatherData 0 (okFlit 9 0) okHdr []).wf = false ∧ (Instr.alltoallData 0 (okFlit 9 0) okHdr []).wf = false := by decide +kernel
theorem test_wf_payload : (Instr.heartbeat 0 { okFlit 1 0 with payload := List.replicate 233 0 }).wf = false := by decide +kernel
theorem test_wf_null_seq : (Instr.null 0 { okFlit 0 0 with seq := 1 }).wf = false := by decide +kernel
theorem test_wf_switch_kind : (Instr.switchRoute 0 (okFlit 3 0)).wf = false ∧ (Instr.reservedKindFlit 0 (okFlit 9 0)).wf = false := by decide +kernel
theorem test_wf_probe_route : (Instr.probe 0 (okFlit 2 0) { okProbe with ret := List.replicate 9 0 }).wf = false := by decide +kernel
theorem test_wf_memory_message : (Instr.memWrite 0 (okFlit 4 1) ⟨0, 3, [1, 2]⟩).wf = false ∧ (Instr.memRead 0 (okFlit 5 1) ⟨0, 0, []⟩).wf = false ∧
    (Instr.memData 0 (okFlit 6 2) ⟨0, 2, []⟩).wf = false := by decide +kernel
theorem test_wf_segment : (Instr.redscatterData 0 (okFlit 9 3) okHdr ⟨[0, 0], [1], []⟩).wf = false ∧ (Instr.redscatterData 0 (okFlit 9 3) okHdr ⟨[0], [1], [1]⟩).wf = false := by decide +kernel
theorem test_wf_bytes_segment : (Instr.allgatherData 0 (okFlit 9 3) okHdr (List.replicate 16385 0)).wf = false := by decide +kernel
theorem test_wf_management_unit : (Instr.mgmtMailboxWord false 0 1 (.unitState 0x9000)).wf = false := by decide +kernel
theorem test_wf_bar2_length : (Instr.bar2Write 0 [] none).wf = false ∧ (Instr.bar2Write 0 [] (some 65)).wf = false ∧ (Instr.bar2Write 0 [1] (some 4)).wf = false := by decide +kernel
theorem test_wf_hdm_write_line : (Instr.hdmWrite 60 [1, 2, 3, 4, 5]).wf = false := by decide +kernel
theorem test_wf_hdm_ways : (Instr.hdmCommit 0 true 0 0 0).wf = false := by decide +kernel
theorem test_wf_request : (Instr.ostlerRequest 0 0 none 0 none none).wf = false ∧ (Instr.ostlerRequest 0 0 (some 7) 4 (some 3) none).wf = false := by decide +kernel
theorem test_wf_crossing : (Instr.crossingLoss 0 0x3040 1).wf = false ∧ (Instr.crossingLoss 0 0x3000 65536).wf = false := by decide +kernel
theorem test_wf_training : (Instr.training 0 ⟨true, false, 1, 0xFF, false, 0, true, 3, [8, 8, 8, 8], okProbe⟩).wf = false := by decide +kernel
theorem test_wf_memory_address : (Instr.dramReadCorrected 0xC000000000 0 0).wf = false ∧ (Instr.uncorrectableRead 0x44000000000 none).wf = false ∧
    (Instr.scrubRead 0xFFFFFFFFFF 0 0 0).wf = false := by decide +kernel
theorem test_wf_unit_codes : (Instr.sramSecondCorrection 0x1040 0 0 0).wf = false ∧ (Instr.sramSecondCorrection 0x1000 0 72 0).wf = false ∧ (Instr.residueDetection 0x2008 0 0 0 [] none).wf = false ∧ (Instr.parityError 0x4004).wf = false ∧
    (Instr.capsuleCopy 0).wf = false ∧ (Instr.viewDisagreement 0x5030).wf = false ∧ (Instr.farrierTest 0x6001).wf = false ∧ (Instr.verdict 0x7001 okTest).wf = false ∧
    (Instr.shoeingDue 0x8001).wf = false ∧ (Instr.shoeingSlice 0xF000 0).wf = false := by decide +kernel
theorem test_wf_window_counts : (Instr.budgetWindowEnd ⟨List.replicate 73 0, []⟩).wf = false := by decide +kernel
theorem test_wf_idle_unit : (Instr.idleBgEntry 0x3000).wf = false := by decide +kernel
theorem test_wf_power_unit : (Instr.powerStateReached 141).wf = false ∧ (Instr.wakeComplete 141 true []).wf = false ∧ (Instr.wakeComplete 0 true [(48, 0)]).wf = false ∧ (Instr.wakeComplete 0 true [(24, 4)]).wf = false := by decide +kernel
theorem test_wf_test_result : (Instr.verdict 0x1000 { okTest with ran := 1, failed := 2 }).wf = false ∧ (Instr.verdict 0x1000 { okTest with replays := 0 }).wf = false ∧
    (Instr.verdict 0x1000 { okTest with captured := List.replicate 9 [] }).wf = false := by decide +kernel
theorem test_wf_boot : (Instr.bootChain ⟨[0, 0, 0], true, [], [], []⟩).wf = false ∧ (Instr.bootChain ⟨[0, 0, 0, 0], true, [64], [], []⟩).wf = false ∧
    (Instr.bootChain ⟨[0, 0, 0, 0], true, [], [(48, 0)], []⟩).wf = false ∧ (Instr.bootChain ⟨[0, 0, 0, 0], true, [], [], [(48, 0)]⟩).wf = false := by decide +kernel
theorem test_wf_residue : (Instr.residueDetection 0x1000 8 0 0 [] none).wf = false ∧ (Instr.residueDetection 0x1000 0 0 0 [] none 72).wf = false := by decide +kernel
theorem test_wf_sync : (Instr.syncInPulse 1).wf = false := by decide +kernel
theorem test_wf_link_width : (Instr.cxlLinkUp 1 2).wf = false := by decide +kernel

/-! ## Witnesses: for each statement with hypotheses, states and operands that meet them, clause by clause -/

theorem test_witness_StepRunsTheFrontCommand : State.reset.pending = [] := rfl
/-- The stream of CXL.io, or of CXL.cachemem, insecure. -/
def insecure (s : State) (k : Fin 2) : State := s.setIde k { enabled := true, insecure := true }
theorem test_witness_MailboxWriteH2c : up.ioOpen = true ∧ (insecure up 0).ioOpen = false := by decide +kernel
def mailFull : State := (up.setH2c 0 { data := 5, full := true }).setC2h 1 { data := 9 }
theorem test_witness_MailboxAnswers : (mailFull.h2c 0).full = true ∧ mailFull.holdReg 0 = none ∧
    ((up.setHoldReg 1 (some 4)).holdReg 1 = some 4 ∧ ((up.setHoldReg 1 (some 4)).c2h 1).full = false) ∧ (insecure mailFull 0).ioOpen = false ∧ mailFull.ioOpen = true := by decide +kernel
def afterFall : State := { State.reset with brd := { fellAt := some 10 }, clk := { ticks := 5000009 } }
theorem test_witness_ClearingReads : (insecure up 0).ioOpen = false ∧ up.ioOpen = true ∧ up.brd.mgmtRun = true ∧ (afterFall.brd.fellAt = some 10 ∧ afterFall.clk.ticks < 10 + 5000000) ∧
    (State.reset.brd.mgmtRun = false ∧ State.reset.brd.fellAt = none) ∧
    ({ afterFall with clk := { ticks := 5000010 } } : State).brd.mgmtRun = false := by decide +kernel
theorem test_witness_OwnershipMoves : (up.ck.owner = .nobody ∧ up.boot.ready = true) ∧ (State.reset.ck.owner = .nobody ∧ State.reset.boot.ready = false) ∧
    (owned up (.peer 5)).ck.owner = .peer 5 ∧ (owned up .host).ck.owner = .host ∧ (owned up (.peer 5)).ck.owner ≠ .peer 6 ∧ (owned up .host).ck.owner ≠ .nobody := by decide +kernel
theorem test_witness_OwnershipMoves_no_peer : ∀ f, (owned up .host).ck.owner ≠ .peer f := nofun
def decoded : State := { up with hp := { up.hp with dec0 := { committed := true, hpaBase := 0x100000000, size := 0x10000000000 } } }
theorem test_witness_HdmDecodersAndAccesses : (up.hp.mode ≤ 2 ∧ (up.dec 0).committed = false ∧ (up.dec 1).committed = false) ∧
    (decoded.hp.mode ≤ 2 ∧ (decoded.dec 0).committed = true ∧ (decoded.dec 1).committed = false ∧ (decoded.dec 0).hpaBase ≤ 0x100000000 ∧
      (0x100000000 : U64).toNat < (decoded.dec 0).hpaBase.toNat + (decoded.dec 0).size ∧
      (0x100FFFFFFFF : U64).toNat < (decoded.dec 0).hpaBase.toNat + (decoded.dec 0).size ∧ decoded.poison.contains (0x1000 * 2 ^ 28 / 64) = false ∧ decoded.memOpen = true ∧ (insecure decoded 1).memOpen = false ∧ ((insecure decoded 1).dec 0).committed = true) ∧
    (({ decoded with poison := [0x400000000] } : State).poison.contains (0x01000 * 2 ^ 28 / 64) = true) ∧
    ({ up with hp := { mode := 3 } } : State).hp.mode > 2 := by decide +kernel
theorem test_witness_RegisterWrites : (¬((3 = 4 ∨ 3 = 8) ∧ 0 % 3 = 0)) ∧ (¬((4 = 4 ∨ 4 = 8) ∧ 2 % 4 = 0)) ∧ (insecure up 0).ioOpen = false ∧ (owned up .host).ioOpen = true ∧ 0x18 ∈ [0x00, 0x04, 0x18, 0x100, 0x104, 0x1000] ∧ up.ioOpen = true ∧ up.ck.owner ≠ .host ∧ (0x4000 % 4 = 0 ∧ 0x4000 ≤ 0x4000 ∧ 0x4000 < 0x4200) ∧
    (0x51FC % 4 = 0 ∧ 0x5000 ≤ 0x51FC ∧ 0x51FC < 0x5200) ∧ (owned up .host).ck.owner = .host := by decide +kernel
def tierM : Queue := { qbase := 0x10000000000, rbase := 0x10000100000, enable := true, loc := 2 }
theorem test_witness_Bar2WindowsAndIdeFailures : (({ up with hp := { mode := 5 } } : State).hp.mode = 5 ∧ (insecure up 0).ioOpen = false) ∧ up.hp.mode ≠ 5 ∧ (up.setQueue 0 tierM).ioOpen = true ∧
    ((up.setQueue 0 tierM).queue 0).enable = true ∧ ((up.setQueue 0 tierM).queue 0).loc = 2 ∧ 1020 + 4 ≤ min (2 ^ 22) (64 * 2 ^ ((up.setQueue 0 tierM).queue 0).csize.toNat) ∧
    ((up.setQueue 0 tierM).queue 0).drain = false ∧ (up.setQueue 0 tierM).partPoisoned (0x10000000000 + 1020) 4 = false ∧ ¬(1021 + 4 ≤ 64 * 2 ^ tierM.csize.toNat) ∧
    ((up.setIde 1 { enabled := true }).ide 1).enabled = true := by decide +kernel
def resetting (cxl : Bool) : State := { up with hp := { up.hp with resetting := some { until_ := 100000000, cxl := cxl, ended := true } } }
theorem test_witness_PortResets : (100000 ≤ 100000) ∧ 999 < 1000 ∧ (State.reset.hp.linkUp = false ∧ (resetting false).portReset ≠ none) ∧
    ((resetting true).hp.linkUp = true ∧ (resetting true).portReset = some { until_ := 100000000, cxl := true, ended := true }) ∧
    ((resetting false).hp.linkUp = true ∧ (resetting false).portReset = some { until_ := 100000000, cxl := false, ended := true }) ∧
    (up.hp.linkUp = true ∧ up.portReset = none ∧ up.ck.stalls = [] ∧ up.ck.quiescing = []) := by decide +kernel
def tripped : State := { up with brd := { up.brd with trip := true } }
theorem test_witness_ModuleResets : (up.brd.pg = true ∧ up.brd.trip = false) ∧ (({ up with boot := { nowResetAt := some 3 } } : State).boot.nowResetAt.isSome = true) ∧
    up.boot.nowResetAt = none ∧ (tripped.brd.pg = true ∧ tripped.brd.trip = true ∧ tripped.boot.nowResetAt = none) ∧
    (({ up with brd := { resetHeld := true } } : State).brd.resetHeld = true ∧ (89 : Int) < 90) ∧ (90 : Int) ≤ 90 ∧ up.booting = false ∧
    (let s : State := { up with boot := { t0 := some 0 }, clk := { ticks := 22000000, time := 22000000 }, flash := { ptrA := { valid0 := true, valid1 := true, pending := some 1 }, ptrB := { valid0 := true, valid1 := true, pending := some 1 } } };
      s.booting = true ∧ s.reached (0 + 22000000) = true ∧ s.flash.ptr.pending = some 1 ∧ (1 : Fin 2) ≠ s.flash.committed ∧ s.flash.ptr.tries < 2 ∧ s.flash.ptr.seq.toNat + 1 < 2 ^ 32) := by decide +kernel

def closed : State := { State.reset with brd := { sense := true, inrush := true }, clk := { ticks := 30000000 } }
def romUp : State := { closed with brd := { sense := true, inrush := true, pg := true, mgmtRom := true, pgAt := 5000000 } }
theorem test_witness_PowerInput : State.reset.brd.inrush = false ∧ (closed.brd.inrush = true ∧ closed.brd.inrushAt + 900000 ≤ closed.clk.ticks ∧ closed.brd.pg = false ∧ closed.brd.fellAt = none) ∧
    (romUp.brd.pg = true ∧ romUp.brd.mgmtRom = true ∧ romUp.brd.mgmtRun = false ∧ romUp.brd.pgAt + 25000000 ≤ romUp.clk.ticks) ∧
    up.brd.pg = true ∧ State.reset.brd.pg = false ∧ ({ up with boot := { halted := true } } : State).boot.halted = true ∧
    (up.boot.halted = false ∧ up.boot.failed = false ∧ up.boot.ready = true ∧ up.boot.slot ≠ 2) ∧ ({ up with brd := { trip := true } } : State).brd.trip = true ∧
    (up.brd.trip = false ∧ ∀ x ∈ up.units, x.2.clerk ≠ .fenced) := by decide +kernel
def started : State := { up with boot := { t0 := some 0 }, clk := { ticks := 2000000, time := 2000000 }, hp := {} }
theorem test_witness_ReferenceClocks : 10000 < 10001 ∧ up.brd.abrefOk = true ∧ 10000 ≤ 10000 ∧ (1000000 ≤ 1000000 ∧ romUp.brd.abrefOk = false ∧ romUp.brd.pg = true) ∧
    up.brd.cxlRefOk = true ∧ (romUp.brd.cxlRefOk = false ∧ romUp.brd.pg = true) ∧
    (started.boot.t0 = some 0 ∧ started.reached (0 + 2000000) = true ∧ (16 = 4 ∨ 16 = 8 ∨ 16 = 16) ∧ started.brd.cxlRefOk = true ∧ started.hp.linkUp = false) := by decide +kernel
def timed : State := { up with clk := { time := 3000000000, ptpOnly := false, ticks := 3000000000 }, brd := { up.brd with syncFall := some 5 }, ck := { claims := [⟨1, 0xFF, 1, 0⟩] } }
theorem test_witness_ModuleTimeAndSyncOut :
    ((3000000000 : U64).toNat % 1000000000 = 0 ∧ timed.brd.mgmtRun = true ∧ (3000000000 : U64).toNat ≤ timed.clk.time.toNat + 100000000 ∧
      timed.clk.time.toNat ≤ (3000000000 : U64).toNat + 100000000) ∧ timed.clk.time.toNat + 100000000 < (4000000000 : U64).toNat ∧
    (.syncInPulse 3000000000 ∈ ({ timed with pending := [.syncInPulse 3000000000] } : State).pending) ∧
    (timed.clk.ptpOnly = false ∧ timed.reached (timed.clk.lastSyncTicks + 3000000000) = true ∧ timed.pending = []) ∧
    (up.brd.mgmtRun = true ∧ up.clk.ptpOnly = true) ∧ timed.holder 1 0xFF = some ⟨1, 0xFF, 1, 0⟩ ∧ timed.clk.time.toNat % 1000000000 ≤ 10 ∧
    (99999990 ≤ (1100000000 : U64).toNat % 1000000000 ∧ (1100000000 : U64).toNat % 1000000000 < 999999990) ∧ (timed.brd.syncFall = some 5 ∧ timed.reached 5 = true) := by decide +kernel
def booting : State := { romUp with boot := { t0 := some 0 }, brd := { romUp.brd with mgmtRun := true, abrefOk := true }, clk := { ticks := 3000000000, time := 3000000000 } }
def noPuf : BootResult := ⟨[0, 3, 0, 0], true, [], [], []⟩
def goodBoot : BootResult := ⟨[0, 2, 0, 0], true, [], [], []⟩
theorem test_witness_BootChainEnds : (booting.boot.t0 = some 0 ∧ booting.boot.ready = false ∧ booting.boot.halted = false ∧ booting.boot.failed = false ∧ booting.brd.pg = true ∧ booting.brd.trip = false) ∧
    (∃ d : Fin 4, 3 ≤ noPuf.pufReads.getD d 0) ∧ (∀ d : Fin 4, goodBoot.pufReads.getD d 0 < 3) ∧ ({ goodBoot with regionOk := false } : BootResult).regionOk = false ∧
    goodBoot.regionOk = true ∧ (booting.reached (0 + 3000000) = true ∧ booting.reached (0 + 4000000) = true ∧ booting.reached (0 + 3000000000) = true) ∧ booting.boot.rngStopped = false ∧ booting.pending = [] := by decide +kernel
theorem test_witness_BootChainEnds_time : booting.reached (0 + 0) = true ∧ booting.reached (0 + 565000000) = true := by decide +kernel
def msgs : State := { up with mg := { nextIndex := 1, unsent := [0], kept := [{}], log := [{}], remapDue := [3], unacked := [⟨1, 9, 0, [], 0⟩], collector := some 7 }, capsules := [(2, some ⟨0x1000, 4, [1], none⟩)] }
theorem test_witness_ManagementMessages : ((0 : U32) ∈ msgs.mg.unsent ∧ msgs.mg.kept.find? (fun r => r.index = 0) = some {}) ∧ 3 ∈ msgs.mg.remapDue ∧
    (msgs.capsules.filterMap (fun x => x.2)).find? (fun k => k.record = 4) = some ⟨0x1000, 4, [1], none⟩ ∧ msgs.mg.collector.isSome = true ∧
    (∃ m ∈ msgs.mg.unacked, m.mseq = 9) ∧ up.mg.collector = none ∧ msgs.mg.collector = some 7 ∧ msgs.mg.unacked.length < 65536 := by decide +kernel
theorem test_witness_ModuleFailureAndTrip : up.boot.failed = false ∧ (FailCause.thermalTrip = .thermalTrip → tripped.brd.trip = true) ∧
    3 ≤ (({ up with mg := { resets := [0, 0, 0] } } : State).mg.resets.filter (fun t => !up.reached (t + 1000000000))).length ∧
    500000 ≤ 500000 ∧ 499999 < 500000 ∧ 100000 ≤ 100000 ∧ 99999 < 100000 ∧ ((115 : Int) ≤ 115 ∧ up.brd.trip = false) ∧ (114 : Int) < 115 := by decide +kernel
def hitTwice : State := { up with stackTab := [(16, { rowHits := [(1, 2, 0), (1, 2, 0)] })] }
def spent : State := { hitTwice with flash := { repairList := [[16, 1, 0, 0], [16, 1, 1, 1], [16, 1, 2, 2], [16, 1, 3, 3]] } }
def isHit (s : State) (h : Nat × Nat × Nat) : Prop := s.reached (h.2.2 + 86400000000000) = false ∧ h.1 = 1 ∧ h.2.1 = 2
theorem test_witness_MemoryErrorEvents : storeBay (0xF0000000000 : BitVec 48).toNat = some 0 ∧ stackOf (0x10000000000 : BitVec 48).toNat = some 16 ∧ stackOf (0 : BitVec 48).toNat = some 0 ∧
    stackOf (0x43FFFFFFFFF : BitVec 48).toNat = some 47 ∧ (up.stack 16).rowHits = [] ∧ ((hitTwice.stack 16).rowHits = [(1, 2, 0), (1, 2, 0)] ∧ isHit hitTwice (1, 2, 0)) ∧
    hitTwice.sparedIn 16 1 < 4 ∧ 4 ≤ spent.sparedIn 16 1 ∧ (withCmd up (cmdOf 0x0301 1 [])).running 7 0x0501 = none ∧
    ((withCmd up (cmdOf 0x0301 1 [])).cmd 7 = some (cmdOf 0x0301 1 []) ∧ (cmdOf 0x0301 1 []).phase ≠ .ended) ∧
    ({ up with stackTab := [(16, { selfRefresh := true })] } : State).stack 16 = { selfRefresh := true } ∧ (up.stack 16).selfRefresh = false := by
  unfold isHit; decide +kernel
def suspected (x : UnitState) : State := { (up.setUnit 0x1000 x) with clk := { ticks := 90000000000000, time := 90000000000000 } }
/-- A layer record of 2 rows and 1 column, diagonal, every address in Tier F. -/
def smallRec : List Byte :=
  bytesLE 128 (pack [(976, 48, 0x20000010000), (928, 48, 0x20000011000), (880, 48, 0x20000012000), (832, 48, 0x20000013000), (784, 48, 0x20000014000), (736, 48, 0x20000015000),
    (688, 48, 0x20000016000), (616, 24, 2), (592, 24, 1), (560, 32, 0x3F666666), (528, 32, 0x3F733333), (496, 32, 0x38800000), (448, 16, 1), (440, 8, 8), (432, 8, 16), (414, 2, 1),
    (336, 32, 0x3F800000), (304, 32, 0x3F800000)])
def training1 : State :=
  let s := withCmd up (cmdOf 0x0501 1 [(0, 8, 0x20000000000), (12, 4, 0x3A83126F)])
  (s.setStall 1 (some { num := { now := { hdr := { step := 1 } }, closed := { hdr := {} } } })).store 0x20000000000 smallRec
theorem test_witness_DetectionsMakeUnitsSuspect_update : (training1.running 7 0x0501).isSome = true ∧
    (training1.updateOf (cmdOf 0x0501 1 [(0, 8, 0x20000000000), (12, 4, 0x3A83126F)])).isSome = true := by decide +kernel
theorem test_witness_DetectionsMakeUnitsSuspect : (hasState (0x1000 : U16).toNat = true ∧ (up.unit 0x1000).clerk = .active ∧ (up.unit 0x1000).before up.clk.ticks = .active ∧ (1 : Byte) ≠ 0 ∧
      residueFires (0x1000 : U16).toNat (1 : Byte).toNat (2 ^ 62) = true ∧ residueFires 0x2000 7 (7 * 2 ^ 124 + 2 ^ 65) = true ∧ residueFires 0x1000 1 0 = false ∧
      bits (0 : BitVec 128).toNat 67 65 = bits (0 : BitVec 128).toNat 64 62) ∧
    hasState (0x4003 : U16).toNat = true ∧ (∀ k, k < 48 → tget (0, false) up.mg.health k = (up.poisonedLines k, (up.stack k).degraded)) ∧
    ((suspected { clerk := .suspect, disagreeAt := some 0 }).unit 0x1000).disagreeAt = some 0 ∧ (suspected { clerk := .suspect, disagreeAt := some 0 }).reached (0 + 100000) = true ∧
    (suspected { clerk := .suspect, disagreeAt := some 0 }).pending = [] ∧ (suspected { clerk := .suspect, disagreeAt := some 0 }).viewsDiffer 0x1000 = true ∧
    (((suspected { frozen := some [1] }).unit 0x1000).frozen = some [1] ∧ (suspected { frozen := some [1] }).capsuleSlot = some 0) ∧
    (({ suspected {} with capsules := [(2, some ⟨0x1000, 4, [1], some 0⟩)] } : State).capsule 2 = some ⟨0x1000, 4, [1], some 0⟩ ∧ (suspected {}).reached (0 + 86400000000000) = true) ∧
    (3 : Nat) ∉ up.ab.edgesOut := by decide +kernel
theorem test_witness_FarrierTestsAndVerdicts :
    (((suspected { queuedTest := true }).unit 0x1000).queuedTest = true ∧ ((suspected { queuedTest := true }).unit 0x1000).testing = none ∧ (suspected { queuedTest := true }).testsOn 0 < 4 ∧
      (∀ y ∈ (suspected { queuedTest := true }).units, y.1 ≠ 0x1000 → y.2.waits = false) ∧ dieOf 0x1000 = 0 ∧ unitKind 0x1000 ≠ 3) ∧
    (((suspected { clerk := .suspect, testing := some (0, 6) }).unit 0x1000).testing = some (0, 6) ∧ ((suspected { clerk := .suspect, testing := some (0, 6) }).unit 0x1000).clerk = .suspect ∧
      ((suspected { clerk := .suspect, testing := some (0, 6) }).unit 0x1000).detPattern = 0 ∧ (6 : BitVec 4).getLsbD 1 = true ∧ (6 : BitVec 4).getLsbD 2 = true ∧ (suspected {}).flash.fenceList = []) ∧
    (({ okTest with ran := 7, failed := 0, replayFail := 0 } : TestResult).failed = 0 ∧ okTest.failed ≠ 0) ∧
    ((suspected {}).reached (((suspected {}).unit 0x1000).lastSlice + 86400000000000 + ((suspected {}).msTime - ((suspected {}).unit 0x1000).msAtSlice)) = true ∧ ((suspected {}).unit 0x1000).due = false ∧ ((suspected {}).unit 0x1000).cool = false) ∧ ((suspected { due := true }).sliceReady 0x1000 = true ∧ (114 : Int) < 115) := by decide +kernel

def bayed (b : Bay) : State := { (up.setBay 5 b) with clk := { ticks := 30000000, time := 30000000 } }
/-- Bay 5 on a rail of die 0 that still rises (time 30 us), or has risen. -/
def railing (b : Bay) (at_ : Nat) : State := (bayed b).setDie 0 { ((bayed b).die 0) with railFrom := 600, vcore := 700, railAt := at_ }
def dropping (b : Bay) : State := { bayed b with pending := [.droopTrip 5] }
theorem test_witness_FrequencyAndDroop :
    (((railing { want := some 3, step := 2 } 29999000).bay 5).want = some 3 ∧ ((railing { want := some 3, step := 2 } 29999000).bay 5).step < 3 ∧
      (railing { want := some 3, step := 2 } 29999000).reached (((railing { want := some 3, step := 2 } 29999000).die 0).railAt + 100 * (((railing { want := some 3, step := 2 } 29999000).die 0).vcore.toNat - ((railing { want := some 3, step := 2 } 29999000).die 0).railFrom.toNat)) = false) ∧
    (((bayed { want := some 3, stretched := true, step := 9 }).bay 5).stretched = true ∧ (3 : BitVec 5) ≤ ((bayed { want := some 3, stretched := true, step := 9 }).bay 5).step) ∧
    ((bayed { want := some 3, step := 2 }).reached ((bayed { want := some 3, step := 2 }).die 0).railSettled = true ∧ ((bayed { want := some 3, step := 2 }).bay 5).step < 3 ∧ ((bayed { want := some 3, step := 2 }).bay 5).stretched = false ∧
      (bayed { want := some 3, step := 2 }).tripsNow 5 = false ∧ (dropping { want := some 3, step := 9 }).tripsNow 5 = true ∧ ((dropping { want := some 3, step := 9 }).bay 5).stretched = false) ∧
    (((up.setDie 1 { railLowerAt := some 0 }).die 1).railLowerAt = some 0 ∧ up.reached 0 = true) ∧ (up.power 5).state = .a0 ∧ ((up.setPower 5 { state := .bg }).power 5).state ≠ .a0 ∧
    (((bayed { stretched := true }).bay 5).stretched = true ∧ 32 ≤ (bayed { stretched := true }).cleanCycles 5 ∧ (bayed { stretched := true }).tripsNow 5 = false ∧ (bayed { stretched := true, cleanFrom := 30000000 }).cleanCycles 5 < 32 ∧ 31 < 32) ∧
    (((bayed { held := some 3, step := 4 }).bay 5).held = some 3 ∧ ((bayed { held := some 3, step := 4 }).bay 5).stretched = false ∧ 256 ≤ (bayed { held := some 3, step := 4 }).cleanCycles 5 ∧ (3 : BitVec 5) ≤ 4 ∧
      (bayed { held := some 3, step := 4 }).tripsNow 5 = false ∧ (bayed { cleanFrom := 30000000 }).cleanCycles 5 < 256 ∧ 255 < 256) := by decide +kernel
theorem test_witness_BoostFollowsItsConditions : (let s := bayed { step := 29, plan := 29, boost := 3 }
    let x := (s.sampleBay 5 90 1250).bay 5
    x.fixed = false ∧ (s.power 5).state = .a0 ∧ s.tal.braked = false ∧ s.tal.cutC = 0 ∧ s.loweredOn 5 = 0 ∧ x.safe = [] ∧ x.pace = none ∧ x.plan.toNat = s.planOf 0 x.boost ∧ x.step = x.plan ∧
      x.boost ≤ 4 ∧ x.held = none ∧ x.want = none ∧ (90 : Int) ≤ 90 ∧ 27 + x.boost ≤ (s.tal.set.fmax.toNat - 800) / 50 ∧ s.reached (x.boostAt + 1000000) = true ∧ 1250 ≤ 1250 ∧ (s.die 0).hottest ≤ 90) ∧
    ((bayed { step := 26, plan := 26 }).sampleBay 5 90 1250).bay 5 = { step := 26, plan := 26, tj := some 90 } ∧
    0 < ((bayed { boost := 1 }).bay 5).boost ∧ (90 : Int) < 91 ∧ 1250 < 1251 ∧ ((bayed { boost := 1, held := some 3 }).bay 5).held.isSome = true ∧ ((bayed {}).bay 5).boost = 0 := by decide +kernel
def limited (row unit at_ : Nat) : State := { (bayed { safe := [(row, 4)], step := 4 }) with tal := { limits := [⟨row, unit, at_, at_, false, false⟩] } }
theorem test_witness_SafetyLimitsAct : ((100 : Int) ≤ 100 ∧ (99 : Int) < 100 ∧ up.inEpisode 1 5 = false ∧ (limited 1 5 29999999).actsAgain 1 5 20000 = false) ∧ ((105 : Int) ≤ 105 ∧ (104 : Int) < 105 ∧ (up.bay 5).step = 0 ∧ up.inEpisode 2 5 = false) ∧ up.inEpisode 4 7 = false ∧
    (1350 < 1351 ∧ 1351 ≤ 65535 ∧ 1350 ≤ 1350 ∧ up.inEpisode 5 3 = false) ∧ (4500 < 4501 ∧ 4500 ≤ 4500 ∧ up.inEpisode 6 0 = false) ∧ ((95 : Int) ≤ 95 ∧ up.inEpisode 8 47 = false) ∧
    ((limited 1 5 0).episode 1 5 = some ⟨1, 5, 0, 0, false, false⟩ ∧ releases 1 97 = false ∧ releases 1 96 = true ∧ (limited 1 5 0).reached (0 + (⟨1, 5, 0, 0, false, false⟩ : Episode).wait) = true ∧
      ((limited 1 5 0).bay 5).limit 1 = some 4) ∧
    ((limited 2 5 0).episode 2 5 = some ⟨2, 5, 0, 0, false, false⟩ ∧ releases 2 99 = true ∧ releases 2 100 = false) ∧ ((limited 4 7 0).episode 4 7 = some ⟨4, 7, 0, 0, false, false⟩ ∧ releases 4 96 = true) ∧
    ((limited 5 0 0).episode 5 0 = some ⟨5, 0, 0, 0, false, false⟩ ∧ releases 5 1299 = true ∧ releases 5 1300 = false ∧ ((limited 5 0 0).bay 5).limit 5 = some 4) ∧
    ((limited 6 0 0).episode 6 0 = some ⟨6, 0, 0, 0, false, false⟩ ∧ releases 6 4399 = true ∧ ((limited 6 0 0).bay 5).limit 6 = some 4) ∧
    ((limited 7 0 0).episode 7 0 = some ⟨7, 0, 0, 0, false, false⟩ ∧ releases 7 0 = true ∧ (limited 7 0 0).reached (0 + (⟨7, 0, 0, 0, false, false⟩ : Episode).wait) = true ∧ ((limited 7 0 0).bay 5).limit 7 = some 4) ∧
    ((limited 8 47 0).episode 8 47 = some ⟨8, 47, 0, 0, false, false⟩ ∧ releases 8 91 = true ∧ stackDie 23 = some 3 ∧ stackDie 47 = none) := by decide +kernel
/-- TREAD names bay 5 of the state. -/
def treading (s : State) : State := { s with tal := { s.tal with set := { s.tal.set with tread := 32 } } }
def windowed : State := { bayed { waitStart := some 0 } with tal := { next := [(4, { capw := 3000 })], reserve := 8000000, modelled := 7, set := { tread := 32 } } }
theorem test_witness_EnergyWindowsAndTrim : (windowed.clk.time.toNat / 50000 ≠ windowed.tal.lastWindow ∧ (∀ y ∈ windowed.ck.cmds, y.phase ≠ .energyWait) ∧ windowed.tal.next = [(4, { capw := 3000 })] ∧
      windowed.tal.nextOrder = []) ∧ up.clk.time.toNat / 50000 = up.tal.lastWindow ∧ (up.tal.set.capw.toNat * 50 + min up.tal.reserve.toNat 20000 ≤ 220000 ∧ up.tal.braked = false ∧ 199999 < up.tal.set.capw.toNat * 50) ∧
    (windowed.clk.time.toNat / 1000000 ≠ (windowed.die 1).lastTrim ∧ windowed.railOn 1 = true ∧ (∀ b : Idx64, b / 16 = 1 → (windowed.bay b).stretched = false) ∧ (windowed.die 1).strcycInt = 0 ∧ (95 : Int) ≤ 95) ∧
    7 < ((up.setDie 1 { strcycInt := 1 }).die 1).strcycInt * 1000 ∧ ({ windowed with clk := { time := 10000000 } } : State).clk.time.toNat / 10000000 ≠ windowed.tal.lastK ∧
    (¬(7 : Nat) < ((up.setDie 1 { strcycInt := 0 }).die 1).strcycInt * 1000 ∧ (95 : Int) < 96) ∧ (7 < ((up.setDie 1 { strcycInt := 1, vtrim := 10 }).die 1).strcycInt * 100) ∧
    ((windowed.bay 5).waitStart = some 0 ∧ windowed.tal.set.tread.getLsbD (5 : Idx64) = true ∧ windowed.reached (0 + 10000000) = true ∧ 0 + 10000000 ≤ windowed.clk.time.toNat ∧ windowed.limitOnDie 0 = false ∧
      (treading (limited 1 5 0)).limitOnDie 0 = true ∧ (treading (limited 1 5 0)).tal.set.tread.getLsbD (5 : Idx64) = true) ∧ 0 < windowed.tal.modelled ∧ up.tal.set.tread.getLsbD (5 : Idx64) = false ∧
    ((treading (bayed { waitStart := some 29990000 })).reached (29990000 + 5000) = true ∧ (treading (bayed { waitStart := some 29990000 })).reached (29990000 + 10000000) = false ∧
      29990000 + 5000 ≤ (treading (bayed { waitStart := some 29990000 })).clk.time.toNat ∧ (treading (bayed { waitStart := some 29990000 })).clk.time.toNat < 29990000 + 10000000) ∧
    ((treading (bayed { work := some 16, combined := 4 })).tal.set.tread.getLsbD (5 : Idx64) = true ∧ ((bayed { work := some 16, combined := 4 }).bay 5).waitStart = none ∧ ((bayed { work := some 16, combined := 4 }).bay 5).work = some 16) := by decide +kernel
theorem test_witness_EnergyCommands : (withCmd up (cmdOf 0x0701 0xFF [(0, 2, 3000)])).running 7 0x0701 = some (cmdOf 0x0701 0xFF [(0, 2, 3000)]) ∧
    (withCmd up (cmdOf 0x0702 0xFF [(0, 1, 6)])).running 7 0x0702 = some (cmdOf 0x0702 0xFF [(0, 1, 6)]) ∧
    (withCmd up (cmdOf 0x0703 0xFF [(0, 1, 1)])).running 7 0x0703 = some (cmdOf 0x0703 0xFF [(0, 1, 1)]) := by decide +kernel
/-- A PSTATE_REQ of a unit code for a state code. -/
def asks (unit code : Nat) : Cmd := cmdOf 0x0801 0xFF [(0, 2, unit), (2, 1, code)]
theorem test_witness_PowerStateRequests_entries : ((withCmd up (asks 0x1005 1)).running 7 0x0801 = some (asks 0x1005 1) ∧ (asks 0x1005 1).p 2 1 = 1 ∧ powerIndex ((asks 0x1005 1).p 0 2) = some 5 ∧
      ((withCmd up (asks 0x1005 1)).power 5).state ≠ .bg ∧ (withCmd up (asks 0x1005 1)).refusalOf 7 5 .bg = none) ∧
    ((asks 0x1005 2).p 2 1 = 2 ∧ (withCmd up (asks 0x1005 2)).refusalOf 7 5 .bo = none) ∧
    (((withCmd up (asks 0x1005 1)).setPower 5 { state := .bg }).power 5).state = .bg := by decide +kernel
theorem test_witness_PowerStateRequests_a0 : (withCmd up (asks 0x1005 0)).running 7 0x0801 = some (asks 0x1005 0) ∧ (asks 0x1005 0).p 2 1 = 0 ∧ (asks 0x1005 0).p 3 1 % 2 = 0 ∧ (asks 0x1005 0).p 0 2 = 0x1000 + 5 ∧
    (((withCmd up (asks 0x1005 0)).setPower 5 { state := .bo }).power 5).state ≠ .a0 ∧ ((withCmd up (asks 0x1005 0)).unit 0x1005).clerk ≠ .fenced ∧ ((withCmd up (asks 0x1005 0)).power 5).state = .a0 ∧ ((withCmd up (asks 0x1005 0)).power 5).entering = none := by decide +kernel
/-- Bay 5 on its way to BO, while its request stands at an Ostler. -/
def busyBay : State := (up.setOstler 0 { queue := [(5, [⟨0, 0, 0, 1, none, false⟩])] }).setPower 5 { entering := some .bo }
def entering : State := { (up.setPower 5 { entering := some .bg, req := some 7 }) with ck := { cmds := [asks 0x1005 1] }, clk := { ticks := 10000 } }
theorem test_witness_PowerStateTransitions : (powerIndex (0x2007 : U16).toNat = some 71 ∧ 71 < 72 ∧ (up.power 71).state = .a0 ∧ (up.unit 0x2007).testing = none ∧ (up.power 71).entering = none ∧ (up.power 71).waking = false ∧
      (∀ y ∈ up.ck.cmds, up.cmdUses y 71 = false) ∧ up.wakeLatched up.ck.nextCmd 71 = false ∧ up.crossing 71 = false ∧ up.reached ((up.power 71).idleFrom + 10000) = false ∧ ({ up with clk := { time := 10000 } } : State).reached ((up.power 71).idleFrom + 10000) = true ∧ (up.bay 71).fill = 0) ∧
    ((entering.power 5).entering = some .bg ∧ entering.entryWaits 5 .bg = false ∧ (entering.power 5).state ≠ .bg ∧ (entering.power 5).req = some 7 ∧ entering.cmd 7 = some (asks 0x1005 1) ∧ (asks 0x1005 1).phase ≠ .ended) ∧
    ((up.setPower 75 { entering := some .bo }).entryWaits 75 .bo = false ∧ ((up.setPower 75 { entering := some .bo }).power 75).state ≠ .bo) ∧ (up.setPower 137 { entering := some .do_ }).entryWaits 137 .do_ = false ∧
    (up.setPower 140 { entering := some .ms }).entryWaits 140 .ms = false ∧ (busyBay.entryWaits 5 .bo = true ∧ (busyBay.power 5).entering = some .bo) ∧
    (((up.setPower 75 { waking := true }).power (72 + (3 : Idx64))).waking = true ∧ (up.setPower 75 { waking := true }).supplied (72 + (3 : Idx64)) = true ∧ ((up.setPort 3 { enable := false }).port (3 : Idx64)).enable = false ∧
      (up.setPower 75 { waking := true }).portCanTrain 3 = true ∧ ((up.setPower 75 { waking := true }).port (3 : Idx64)).nbr.state = .down) ∧
    (up.setPower 5 { waking := true }).supplied 5 = true ∧ ((up.setPower 137 { state := .do_ }).setPower 20 { waking := true }).supplied 20 = false ∧
    (((up.setPower 5 { waking := true }).power 5).waking = true ∧ ((up.setPower 5 { waking := true }).power 5).entering = none ∧ ((up.setPower 5 { waking := true }).power 5).sequenced = false ∧
      ((up.setPower 5 { waking := true }).power 5).req = none) := by decide +kernel

/-- Every bay in BG. -/
def allBg (s : State) : State := (List.range 64).foldl (fun s b => s.setPower b { state := .bg }) s
theorem test_witness_PowerStateRequests_dies : (withCmd up (asks 0x4001 3)).running 7 0x0801 = some (asks 0x4001 3) ∧ (asks 0x4001 3).p 2 1 = 3 ∧ powerIndex ((asks 0x4001 3).p 0 2) = some 137 ∧
    ((withCmd up (asks 0x4001 3)).power 137).state ≠ .di ∧ (withCmd up (asks 0x4001 3)).refusalOf 7 137 .di = none ∧ ((withCmd up (asks 0x4001 3)).power (16 : Idx64)).state = .a0 ∧ (16 : Nat) / 16 = 137 - 136 ∧
    ((withCmd (allBg up) (asks 0x4001 3)).refusalOf 7 137 .di = none ∧ (∀ b : Idx64, b.val / 16 = 137 - 136 → ((withCmd (allBg up) (asks 0x4001 3)).power b).state ≠ .a0) ∧ (withCmd (allBg up) (asks 0x4001 3)).awake 16 = false) ∧
    (withCmd up (asks 0x4001 4)).refusalOf 7 137 .do_ = some (5, 0x4001, 0) ∧ ((asks 0x4001 4).p 2 1 = 4 ∧ (({ withCmd up (asks 0x4001 4) with hp := { hdm0 := { actSize := 0 } } } : State)).refusalOf 7 137 .do_ = none) ∧
    ((asks 0x6000 5).p 2 1 = 5 ∧ powerIndex ((asks 0x6000 5).p 0 2) = some 140 ∧ (withCmd up (asks 0x6000 5)).refusalOf 7 140 .ms = none) := by decide +kernel

theorem test_witness_AbondRegisters : up.ck.owner ≠ .host ∧ (owned up .host).ck.owner = .host ∧ (0 : U32).getLsbD 0 = false ∧ (0 : U32).getLsbD 3 = false ∧ up.portUp 3 = false ∧
    (up.setPort 3 { nbr := { state := .up } }).portUp 3 = true ∧ (owned up .host).ioOpen = true ∧ up.ioOpen = true ∧ (insecure up 0).ioOpen = false ∧ (1 : U32).getLsbD 0 = true := by decide +kernel
def trainee : State := (up.setPort 3 { nbr := { state := .training }, retryAt := some 0 })
def found : TrainResult := ⟨true, true, 0xFF, 0xFF, false, 200, true, 3, [8, 8, 8, 8], okProbe⟩
def late : State := { trainee with clk := { ticks := 30000000, time := 30000000 } }
theorem test_witness_PortsTrain : (trainee.portCanTrain 3 = true ∧ (trainee.port 3).nbr.state = .training ∧ trainee.reached ((trainee.port 3).trainingSince + 21400001) = false) ∧ (up.portCanTrain 3 = true ∧ (up.port 3).nbr.state = .down ∧ (up.port 3).retryAt = none) ∧
    (found.present = true ∧ widest found.pass128 ≠ 0 ∧ found.locked = true ∧ found.ppm ≤ 200 ∧ found.vmask.getLsbD 0 = true ∧ 0 < found.credits.getD 0 0) ∧ ({ found with credits := [] } : TrainResult).credits.getD 0 0 = 0 ∧
    (({ found with vmask := 4 } : TrainResult).vmask.getLsbD 0 = false ∧ ({ found with vmask := 4 } : TrainResult).vmask.getLsbD 1 = false) ∧ ¬(({ found with ppm := 201 } : TrainResult).ppm ≤ 200) ∧
    (late.port 3).nbr.state = .training ∧ (∀ k ∈ [1000000, 21000000, 21100000, 21200000, 21300000, 21400000], late.reached ((late.port 3).trainingSince + k) = true ∧ trainee.reached ((trainee.port 3).trainingSince + k) = false) ∧
    late.latched (fun i => match i with | .training q _ => q = 3 | _ => false) = false ∧
    ({ late with pending := [.training 3 found] } : State).latched (fun i => match i with | .training q _ => q = 3 | _ => false) = true ∧
    ((up.setPort 3 { retryAt := some 0 }).portCanTrain 3 = true ∧ up.reached 0 = true) ∧
    (up.setPort 3 { retryAt := some 0 }).port 3 = { retryAt := some 0 } ∧ ((up.setPort 3 { nbr := { state := .lost }, retryAt := some 0 }).port 3).nbr.state = .lost := by decide +kernel
/-- Port 3 is UP toward neighbour 6 of a module with identifier 5, with its route. -/
def linked (p : Port) : State :=
  { (up.setPort 3 { p with nbr := { p.nbr with state := .up, fid := 6, ver := 2 } }) with ab := { (up.setPort 3 { p with nbr := { p.nbr with state := .up, fid := 6, ver := 2 } }).ab with fid := 5, fidValid := true }, clk := { ticks := 30000000, time := 30000000 } }
def aFlit : Flit := { kind := 1, seq := 1, dst := 5, src := 6, ttl := 1 }
def data (dst : Fid) : Flit := { kind := 4, vc := 1, seq := 1, dst := dst, src := 6, ttl := 1 }
theorem test_witness_LinkLayerFlits : (up.port 3).nbr.trained = false ∧ ((linked {}).port 3).nbr.trained = true ∧ (aFlit.seq = ((linked {}).port 3).rxSeq + 1 ∧ ((linked {}).port 3).egress = [] ∧ (∀ v : Nat, ((linked {}).port 3).owed.getD v 0 = 0)) ∧
    aFlit.seq ≠ ((linked { rxSeq := 9 }).port 3).rxSeq + 1 ∧ (({ aFlit with kind := 10 } : Flit).kindOk = false ∧ ({ aFlit with vc := 3 } : Flit).kindOk = false) ∧
    ((linked {}).portUp 3 = true ∧ (linked { credits := [1] }).reached (((linked { credits := [1] }).port 3).lastSeqSent + 1000) = true ∧ ((linked {}).port 3).unacked.length < 2047 ∧
      0 < ((linked { credits := [1] }).port 3).credits.getD 0 0) ∧
    (((linked { unacked := [(aFlit, 0)] }).port 3).unacked = (aFlit, 0) :: [] ∧ (linked {}).reached (0 + 4000) = true ∧ (linked { unacked := [(aFlit, 0)] }).ackLatched 3 = false ∧
      ({ linked { unacked := [(aFlit, 0)] } with pending := [.null 3 { ack := 1 }] } : State).ackLatched 3 = true) ∧
    (((linked {}).port 3).parkEn = true ∧ ((linked {}).port 3).nbr.parkTx = false ∧ (linked {}).reached (((linked {}).port 3).lastTraffic + 1000 * min 1000 (max 5 ((linked {}).port 3).parkIdle.toNat)) = true ∧ (linked {}).trafficLatched 3 = false) ∧
    (((linked { nbr := { parkTx := true }, egress := [⟨data 6, 0, none⟩] }).port 3).nbr.parkTx = true ∧ ((linked { nbr := { parkTx := true }, egress := [⟨data 6, 0, none⟩] }).port 3).trafficWaits = true) ∧
    (linked { egress := [⟨data 6, 0, some 4⟩] }).latched (fun i => match flitOf i with | some (q, f) => q = 3 && 0 < f.crcnt.toNat | none => false) = false := by
  refine ⟨?_, ?_, ⟨?_, ?_, fun v => by cases v <;> rfl⟩, ?_⟩ <;> decide +kernel
theorem test_witness_ProbesAndSwitching : ((linked {}).portUp 3 = true ∧ (linked {}).reached (((linked {}).port 3).lastProbe + 1000000) = true) ∧ (((linked { probeSent := some 0 }).port 3).probeSent = some 0 ∧ (linked {}).reached (0 + 10000) = true ∧
      (linked {}).latched (fun i => match i with | .probeReply q _ _ => q = 3 | _ => false) = false ∧
      ({ linked {} with pending := [.probeReply 3 aFlit okProbe] } : State).latched (fun i => match i with | .probeReply q _ _ => q = 3 | _ => false) = true) ∧
    (aFlit.seq = ((linked {}).port 3).rxSeq + 1 ∧ aFlit.sr = false ∧ aFlit.vc = 0 ∧ ((linked {}).port 3).nbr.trained = true ∧ ({ aFlit with kind := 2 } : Flit).kind = 2 ∧ ({ aFlit with kind := 3 } : Flit).kind = 3) ∧
    (((linked { nbr := { id := 9 } }).port 3).nbr.id = okProbe.modid ∧ ((linked {}).port 3).nbr.id ≠ okProbe.modid ∧ ((linked {}).port 3).nbr.state = .up ∧ (up.port 3).nbr.state ≠ .up) ∧
    ((data 6).seq = ((linked {}).port 3).rxSeq + 1 ∧ (data 6).sr = false ∧ (data 6).kindOk = true ∧ (linked {}).ab.fidValid = true ∧ (data 6).dst ≠ (linked {}).ab.fid ∧ 0 < (data 6).ttl.toNat ∧ (linked {}).egressOf 6 = some 3 ∧
      ((linked {}).port 3).nbr.ver ≠ 1 ∧ ({ data 6 with ttl := 0 } : Flit).ttl = 0) := by decide +kernel
def peerWindow : Window := { valid := true, peer := true, w := true, r := true, base := 0, limit := 1 }
def fetching : Xfer := { tag := 4, peer := 6, port := some 3, cmd := 7, read := true, dst := 128, len := 2 }
def accessed : State := { linked {} with ck := { stalls := [(2, some { windows := [(0, peerWindow)] })], cmds := [cmdOf 0x0201 2 [] .working] }, ab := { (linked {}).ab with xfers := [fetching] } }
theorem test_witness_PeerMemoryAccesses : ((data 5).seq = (accessed.port 3).rxSeq + 1 ∧ (data 5).sr = false ∧ (accessed.port 3).nbr.state = .up ∧ (data 5).kindOk = true ∧ accessed.ab.fidValid = true ∧ (data 5).dst = accessed.ab.fid) ∧
    (allowed ((accessed.windowsOf ({ aFlit with stall := 2 } : Flit).stall.toNat).filter (fun w => w.2.peer)) false true 4094 2 = true ∧ accessed.partPoisoned 4094 2 = false ∧
      allowed ((accessed.windowsOf 2).filter (fun w => w.2.peer)) false true 4095 2 = false ∧ allowed ((accessed.windowsOf 2).filter (fun w => w.2.peer)) true false 0 64 = true ∧ accessed.poisoned 0 64 = false) ∧
    (accessed.ab.xfers.find? (fun y => y.tag = 4 && y.read && y.peer = 6) = some fetching ∧ accessed.cmd fetching.cmd = some (cmdOf 0x0201 2 [] .working) ∧ (cmdOf 0x0201 2 [] .working).runs = true ∧
      (cmdOf 0x0201 2 [] .working).op ≠ 0x0B04 ∧ ¬((cmdOf 0x0201 2 []).op = 0x0201 ∧ (cmdOf 0x0201 2 []).p 24 1 = 1) ∧ accessed.partPoisoned fetching.dst fetching.len = false ∧ (accessed.egressOf (data 5).src).isSome = true) ∧
    (accessed.ab.xfers.find? (fun y => y.tag = 4 && y.peer = 6) = some fetching ∧ ({ fetching with read := false } : Xfer).read = false ∧ (∀ cl ∈ accessed.ab.colls, cl.cmd ≠ fetching.cmd) ∧ fetching ∈ accessed.ab.xfers ∧
      (cmdOf 0x0201 2 [] .working).phase ≠ .ended) := by decide +kernel
/-- Two members, 5 and 6, of group 1, described at address 64. -/
def grouped (x : Cmd) (me : Fid) : State := { linked {} with mem := [(64, 1), (68, 2), (72, 5), (74, 6)], ck := { cmds := [x] }, ab := { (linked {}).ab with fid := me } }
def member (op : Nat) : Cmd := { cmdOf op 1 [(0, 8, 64)] with grp := some (1, 0) }
theorem test_witness_CollectivesStart : (∀ op ∈ [0x0601, 0x0602, 0x0603, 0x0604, 0x0605], (grouped (member op) 5).begins 7 op = some (member op)) ∧ (member 0x0601).grp = some (1, 0) ∧
    indexOf (grouped (member 0x0601) 5).ab.fid ((grouped (member 0x0601) 5).groupDesc ((member 0x0601).addr 0)).members = some 0 ∧ (∀ d ∈ (grouped (member 0x0601) 5).ab.colls, d.cmd ≠ 7) ∧ (∀ d ∈ (grouped (member 0x0601) 5).ab.colls, d.toGrant = []) ∧ (∀ b ∈ (grouped (member 0x0604) 5).ab.barriers, b.group ≠ 1 ∧ b.cmd ≠ 7) ∧
    (([5, 6] : List Fid).length ≠ 1 ∧ (∀ i, i < 2 → i ≠ 0 → ((grouped (member 0x0601) 5).egressOf (([5, 6] : List Fid).getD i 0)).isSome = true) ∧ ((grouped (member 0x0601) 5).group 1).held = [] ∧
      (grouped (member 0x0601) 5).chunks (member 0x0601).chunkTable.1 (member 0x0601).chunkTable.2 = []) ∧
    (({ grouped (member 0x0604) 5 with mem := [(64, 1), (68, 1), (72, 5)] } : State).groupDesc ((member 0x0604).addr 0)).members = [5] ∧
    (indexOf (5 : Fid) [6, 5] = some 1 ∧ (({ grouped (member 0x0604) 5 with mem := [(64, 1), (68, 2), (72, 6), (74, 5)] } : State).groupDesc ((member 0x0604).addr 0)).members = [6, 5] ∧ (2 : Nat) ≤ 16 * 1 + 1 ∧
      ({ grouped (member 0x0604) 5 with mem := [(64, 1), (68, 2), (72, 6), (74, 5)] } : State).egressOf (([6, 5] : List Fid).getD ((1 - 1) / 16) 0) = some 3) := by decide +kernel
def collHdr (rank : U16) : CollHdr := { okHdr with rank := rank }
def part : Coll := { group := 1, inst := 0, cmd := 7, members := [5, 6, 9], rank := 0, chunks := [(0, 1, 0, 32), (0, 1, 0, 32), (0, 1, 0, 32)], need := [(1, 1, 0), (2, 1, 0)], toSend := [(1, 0, 0)] }
def slot : AccSlot := { group := 1, inst := 0, chunk := 0, segment := 0, sums := [0, 0], nans := [], marked := [], ranks := [0] }
/-- The collective at work, its commands under a window over the first 4 KiB. -/
def atWork (op : Nat) : Cmd := { member op with phase := .working, wins := [(0, peerWindow)] }
def gathering (op : Nat) (cl : Coll) : State :=
  { grouped (atWork op) 5 with ab := { (linked {}).ab with colls := [cl], slots := [slot] }, ck := { cmds := [atWork op], stalls := [(1, some {})] } }
theorem test_witness_CollectiveData : (∀ op ∈ [0x0602, 0x0603, 0x0605], (gathering op part).collOf (collHdr 1) = some (part, atWork op) ∧ (gathering op part).usesGroup 1 = true) ∧
    (aFlit.seq = ((gathering 0x0603 part).port 3).rxSeq + 1 ∧ aFlit.sr = false ∧ ((gathering 0x0603 part).port 3).nbr.state = .up ∧ aFlit.kindOk = true ∧ (gathering 0x0603 part).badElem (atWork 0x0603) false true (part.place (atWork 0x0603) 1 0).1 ((atWork 0x0603).gatherWidth * (part.place (atWork 0x0603) 1 0).2) = none ∧
      (gathering 0x0603 part).badElem (atWork 0x0603) true false (part.sendSpan (atWork 0x0603) 1 0 0).1 (part.sendSpan (atWork 0x0603) 1 0 0).2 = none ∧ (gathering 0x0603 part).ab.fidValid = true ∧ aFlit.dst = (gathering 0x0603 part).ab.fid) ∧
    (part.need.contains ((collHdr 1).rank.toNat, ({ collHdr 1 with chunk := 1 } : CollHdr).chunk.toNat, 0) = true ∧ (∃ y ∈ part.need.erase (1, 1, 0), y.2.1 = 1)) ∧
    (({ part with need := [(1, 0, 0)] } : Coll).need.contains (1, 0, 0) = true ∧ (gathering 0x0602 part).ab.slots.find? (fun a => a.group = 1 && a.inst = 0 && a.chunk = 0 && a.segment = 0) = some slot ∧
      slot.ranks.length + 1 ≠ part.members.length) ∧ (gathering 0x0603 { part with inst := 8 }).collOf (collHdr 1) = none ∧
    (part.toSend.contains (1, 0, 0) = true ∧ (gathering 0x0603 part).stall 1 = some {} ∧ (gathering 0x0603 part).egressOf (part.members.getD 1 0) = some 3 ∧ ((gathering 0x0603 part).port 3).nbr.ver ≠ 1) := by decide +kernel
def barrier (rank : Nat) (n : Nat) : Barrier :=
  { group := 1, inst := 0, cmd := 7, members := (List.range n).map (fun k => if k = rank then 5 else if k = 0 then 6 else BitVec.ofNat 16 (6 + k)), rank := rank, comb := okHdr, arrivals := [], sentUp := rank != 0, polled := [(1, 0)] }
def meeting (b : Barrier) : State := { grouped { member 0x0604 with phase := .working } 5 with ab := { (linked {}).ab with barriers := [b] } }
theorem test_witness_BarrierMessages : ((meeting (barrier 0 3)).barrierOf (collHdr 1) = some (barrier 0 3, { member 0x0604 with phase := .working }) ∧ (meeting (barrier 0 3)).usesGroup 1 = true ∧ ((meeting (barrier 0 3)).port 3).nbr.ver ≠ 1 ∧
      (barrier 0 3).sentUp = false ∧ (childrenOf 0 3).contains 1 = true ∧ (barrier 0 3).arrivals.contains 1 = false ∧ (∃ k ∈ childrenOf 0 3, k ≠ 1 ∧ k ∉ (barrier 0 3).arrivals) ∧ aFlit.sr = false ∧ aFlit.kindOk = true ∧ ((meeting (barrier 0 3)).port 3).nbr.state = .up) ∧
    ((meeting (barrier 1 2)).barrierOf (collHdr 0) = some (barrier 1 2, { member 0x0604 with phase := .working }) ∧ (barrier 1 2).rank ≠ 0 ∧ (collHdr 0).rank.toNat = parentOf 1 ∧ (barrier 1 2).sentUp = true ∧ childrenOf 1 2 = [] ∧
      (member 0x0604).op = 0x0604) ∧ ((meeting (barrier 0 3)).egressOf aFlit.src).isSome = true ∧ (∃ y ∈ (meeting (barrier 0 3)).ck.cmds, y.grp = some (1, 0)) ∧
    ((meeting { barrier 0 3 with inst := 9 }).barrierOf (collHdr 1) = none ∧ ((meeting (barrier 0 3)).group 1).nextInst.toNat ≤ (collHdr 1).inst.toNat) ∧
    ((meeting (barrier 0 3)).ab.barriers = [barrier 0 3] ∧ (meeting (barrier 0 3)).reached ((barrier 0 3).lastPoll + 1000 * min 1000 (max 10 (meeting (barrier 0 3)).ab.pollInt.toNat)) = true ∧
      ((meeting (barrier 0 3)).overdue (barrier 0 3)).isSome = true ∧ (meeting (barrier 0 3)).pending = [] ∧ ((meeting (barrier 0 3)).overdue { barrier 0 3 with polled := [(1, 30000000)] }).isSome = false) ∧
    ((meeting (barrier 0 3)).egressOf aFlit.src).isSome = true := by decide +kernel
def ost (x : Ostler) : State := { up.setOstler 0 x with clk := { ticks := 128 } }
def waiting : Request := ⟨200, 175, 25, 4, none, false⟩
theorem test_witness_OstlerRequests : slotUsed 640 2 = false ∧ slotUsed 0 0 = true ∧ tget false (ost { masked := [(0, true)] } |>.ostler 0).masked 0 = true ∧ tget false (ost {} |>.ostler 0).masked 0 = false ∧
    (∀ l, (some 16 : Option Nat) = some l → l ≤ 16) ∧ (ost {} |>.ostler 0).lock = none ∧ (∃ l, (some 17 : Option Nat) = some l ∧ 16 < l) ∧ (slotUsed 744 19 = true ∧ 744 ≤ 744) ∧
    ((ost { busy := true, busyUntil := 1000, lock := some (0, 4) } |>.ostler 0).busy = true ∧ (ost {}).edge 0 false ≤ 1000) := by
  refine ⟨by decide +kernel, by decide +kernel, by decide +kernel, by decide +kernel, fun l h => by cases h; decide, by decide +kernel, ⟨17, by decide +kernel⟩, by decide +kernel, by decide +kernel⟩
/-- A locked sequence of slot 3 whose transfer ends on this edge, with a request that fits in what is left. -/
def sequence : State := ost { busy := true, busyUntil := 175, lock := some (3, 4), queue := [(3, [waiting])] }
theorem test_witness_OstlerArbitration : (0 < (ost {}).edges 0 ∧ (ost {}).edge 0 false = 175 ∧ ({ ost {} with clk := { ticks := 1 } } : State).edges 640 = 0) ∧ ((ost { busy := true, busyUntil := 1000 } |>.ostler 0).busy = true ∧ (ost {}).edge 0 false < 1000) ∧
    ((sequence.ostler 0).busy = true ∧ (sequence.ostler 0).busyUntil = sequence.edge 0 false ∧ (sequence.ostler 0).lock = some (3, 4) ∧ tget [] (sequence.ostler 0).queue 3 = [waiting] ∧ tget false (sequence.ostler 0).masked 3 = false ∧
      tget 0 (sequence.ostler 0).rising 3 ≤ 175 ∧ waiting.beats ≤ 4) ∧ (ost { queue := [(3, [waiting])] } |>.ostler 0).boundary 175 = true ∧
    (ost { queue := [(3, [waiting])] }).eligible 0 (ost { queue := [(3, [waiting])] } |>.ostler 0).applyCommit 175 3 = true ∧ (∀ k, k < 21 → (ost {}).eligible 0 (ost {} |>.ostler 0).applyCommit 175 k = false) ∧
    (ost { queue := [(3, [waiting])] } |>.ostler 0).front 3 175 = some waiting := by decide +kernel
theorem test_witness_OstlerRegisters_beats : (let x : Ostler := { busy := true, busyUntil := 5, due := 4 }; (x.moved 3 257).due = 2 ∧ (x.moved 3 257).ctrs.beats = 2) := by decide +kernel
theorem test_witness_OstlerRegisters : (insecure up 0).ioOpen = false ∧ (up.ioOpen = true ∧ up.ck.owner ≠ .host) ∧ ((owned up .host).ioOpen = true ∧ (owned up .host).ck.owner = .host ∧ (owned up .host).ostSel.toNat < 808) ∧
    808 ≤ ({ owned up .host with ostSel := 808 } : State).ostSel.toNat ∧
    ((withCmd up (cmdOf 0x0301 1 [])).cmd 7 = some (cmdOf 0x0301 1 []) ∧ (cmdOf 0x0301 1 []).runs = true ∧ (withCmd up (cmdOf 0x0301 1 [])).running 7 0x0501 = none) ∧ up.cmd 7 = none := by decide +kernel
theorem test_witness_EffectiveSlackIsExact : ∃ t, exec (.ostlerRequest 0 3 (some 200) 4 none none false) (ost {}) = .next t ∧
    (∃ r ∈ tget [] (t.ostler 0).queue 3, r ∉ tget [] ((ost {}).ostler 0).queue 3) := ⟨_, rfl, by decide +kernel⟩
def hostQ : Queue := { qbase := 0x1000, rbase := 0x8000, enable := true, loc := 1, cohwake := true }
def queued (q : Queue) : State := { up.setQueue 3 q with hp := { linkUp := true, mode := 1, width := 16, qcache := [0x40] } }
theorem test_witness_QueueRegisters : (insecure up 0).ioOpen = false ∧ (queued hostQ).ioOpen = true ∧ ((queued hostQ).hp.mode ≠ 5 ∧ ((queued hostQ).queue 3).enable = true ∧ ((queued hostQ).queue 3).loc ≠ 3 ∧ (65535 : U32).toNat < 65536) ∧
    ((up.queue 3).enable = false ∧ (up.queue 3).drain = false ∧ (0x94000000 : U32).getLsbD 31 = true) ∧ (((queued { hostQ with enable := false, drain := true }).queue 3).drain = true ∧
      (queued { hostQ with enable := false, drain := true }).outstanding 3 = 0) ∧ (withCmd up { cmdOf 0x0301 1 [] with origin := .queue 3 }).outstanding 3 ≠ 0 ∧ ((queued { hostQ with ringerr := true }).queue 3).ringerr = true ∧
    (((queued hostQ).queue 3).cohwake = true ∧ (queued hostQ).hp.mode ≤ 2 ∧ (0x1000 + 64 * (0 % 2 ^ 4)) / 64 ∈ (queued hostQ).hp.qcache) := by decide +kernel
theorem test_witness_DoorbellsDiscarded : (insecure up 0).ioOpen = false ∧ up.ioOpen = true ∧ (up.hp.mode ≠ 5 ∧ (up.queue 3).enable = false) ∧ ((queued { hostQ with loc := 3 }).queue 3).loc = 3 ∧ 65536 ≤ (65536 : U32).toNat ∧
    ({ up with hp := { mode := 5 } } : State).hp.mode = 5 := by decide +kernel
def woken (q : Queue) : State := queued { q with wake := some (0, 0) }
theorem test_witness_PacketsAreRead : ((woken hostQ).clerkRuns = true ∧ ((woken hostQ).queue 3).wake = some (0, 0) ∧ ((woken hostQ).queue 3).loc = 1 ∧ (woken hostQ).hp.mode ≠ 5 ∧ (woken hostQ).earlierQueue 3 0 = false ∧ ((woken hostQ).queue 3).ringerr = false) ∧
    2 ^ 4 < ((woken { hostQ with qpi := 17 }).queue 3).unread ∧ (((woken { hostQ with qpi := 16 }).queue 3).unread ≤ 2 ^ 4 ∧ ((woken { hostQ with qpi := 16 }).queue 3).unread ≠ 0) ∧
    ((woken { hostQ with qpi := 1, rpi := 31 }).queue 3).freeReplies < 2 * ((woken { hostQ with qpi := 1, rpi := 31 }).outstanding 3 + 1) ∧
    (2 * ((woken { hostQ with qpi := 1, rpi := 30 }).outstanding 3 + 1) ≤ ((woken { hostQ with qpi := 1, rpi := 30 }).queue 3).freeReplies ∧ (woken hostQ).cmd (woken hostQ).ck.nextCmd = none) ∧
    (aFlit.seq = ((linked {}).port 3).rxSeq + 1 ∧ aFlit.sr = false ∧ ((linked {}).port 3).nbr.state = .up ∧ aFlit.kindOk = true ∧ (linked {}).ab.fidValid = true ∧ aFlit.dst = (linked {}).ab.fid) ∧
    (({ aFlit with payload := [3] } : Flit).payload = BitVec.ofNat 8 3 :: [] ∧ ((linked {}).setQueue 3 { enable := true, loc := 3, attfid := 6, qpi := 15 }).queue 3 = { enable := true, loc := 3, attfid := 6, qpi := 15 } ∧
      (({ enable := true, loc := 3, attfid := 6, qpi := 15 } : Queue)).unread < 2 ^ 4) := by decide +kernel
def issued (x : Cmd) : State := withCmd up { x with phase := .issued }
/-- A CAP_ORDER_SET, which names no memory. -/
def setting : Cmd := cmdOf 0x0702 0xFF [(0, 1, 6)]
theorem test_witness_CommandsRunAndComplete : ((issued setting).cmd 7 = some { setting with phase := .issued } ∧ (issued setting).clerkRuns = true ∧
      (issued setting).cannotRun { setting with phase := .issued } = none) ∧
    ((issued setting).held { setting with phase := .issued } = false ∧ (issued setting).unitsFor { setting with phase := .issued } = [] ∧
      ((issued setting).unitsNeeded { setting with phase := .issued }).any (issued setting).sliceHolds = false) ∧
    (let x : Cmd := { cmdOf 0x0001 0xFF [] .issued with hdr := { opcode := 1, stall := 0xFF, flags := 8 } };
      x.hdr.fence = true ∧ ({ up with ck := { cmds := [{ setting with no := 6 }, x] } } : State).held x = true) ∧
    ((withCmd up { setting with phase := .ended }).mustWait { setting with phase := .ended } = false ∧ { setting with phase := .ended }.phase = .ended ∧ { setting with phase := .ended }.origin = .queue 0) ∧
    ((issued setting).badRegion { setting with phase := .issued } (((issued setting).contentsOf { setting with phase := .issued }).flatMap (fun r => reads r.1 r.2)) = none ∧
      (issued setting).lateCheck { setting with phase := .issued } = none ∧ setting.op ≠ 0x0606 ∧ (issued setting).bayMaskOf { setting with phase := .issued } = 0 ∧
      (issued setting).endSlices [] = issued setting ∧
      (issued setting).badRegion { setting with phase := .issued } ((issued setting).dispatchRegions { setting with phase := .issued }) = none ∧
      (((issued setting).takeInstance 7).grant { setting with phase := .issued }).1.isSome = true) ∧
    (let x : Cmd := { cmdOf 0x0001 0xFF [] .issued with hdr := { opcode := 1, deadline := 3 } };
      x.hdr.deadline ≠ 0 ∧ ({ up with clk := { time := 30 } } : State).reached (x.wakeTick + 10 * x.hdr.deadline.toNat) = true ∧ ¬(x.disp = true ∧ deadlineFree x.op = true) ∧ ¬(x.op = 0x0B02 ∧ x.phase = .working) ∧ x.runs = false ∧
      ({ up with clk := { time := 29 } } : State).reached (x.wakeTick + 10 * x.hdr.deadline.toNat) = false) ∧
    (let x : Cmd := { cmdOf 0x0B02 0xFF [] .working with hdr := { opcode := 0x0B02, deadline := 3 } };
      x.op = 0x0B02 ∧ x.phase = .working ∧ up.latched (fun i => Machine.cmdOf i = some 7) = false) := by decide +kernel
/-- A window over the first 64 KiB, and a command whose accesses it allows. -/
def lowWindow : Window := { valid := true, w := true, r := true, base := 0, limit := 16 }
def openCmd (op stall : Nat) (fs : List (Nat × Nat × Nat)) : Cmd := { cmdOf op stall fs with wins := [(0, lowWindow)] }
/-- A running command satisfies `running` of its opcode, and of no other. -/
theorem test_running (op : Nat) (h : op < 65536) : (withCmd up (cmdOf op 1 [])).running 7 op = some (cmdOf op 1 []) := by
  simp [State.running, State.cmd, withCmd, cmdOf, Nat.mod_eq_of_lt h, up]
theorem test_running_other : (withCmd up (cmdOf 0x0301 1 [])).running 7 0x0302 = none ∧ (withCmd up (cmdOf 0x0301 1 [] .issued)).running 7 0x0301 = none := by decide +kernel
theorem test_witness_QueriesAnswer : (∀ op ∈ [0x0001, 0x0704, 0x0802, 0x0902, 0x0A01, 0x0A02, 0x0405], (withCmd up (openCmd op 0xFF [])).begins 7 op = some (openCmd op 0xFF [])) ∧ (withCmd up (openCmd 0x0704 0xFF [(8, 1, 1)])).begins 7 0x0704 = some (openCmd 0x0704 0xFF [(8, 1, 1)]) ∧
    (withCmd up (openCmd 0x0902 0xFF [(16, 1, 1)])).begins 7 0x0902 = some (openCmd 0x0902 0xFF [(16, 1, 1)]) ∧ (¬(openCmd 0x0A02 0xFF [(16, 4, 64)]).p 16 4 < 4 ∧ (openCmd 0x0A02 0xFF []).p 16 4 < 4) ∧
    (cmdOf 0x0902 0xFF []).p 16 1 = 0 ∧ (cmdOf 0x0902 0xFF [(16, 1, 1)]).p 16 1 = 1 ∧ (cmdOf 0x0A01 0xFF []).p 0 1 = 0 ∧ (cmdOf 0x0704 0xFF [(8, 1, 1)]).p 8 1 % 2 = 1 := by decide +kernel
def fromPeer (fs : List (Nat × Nat × Nat)) (q : Queue) : State :=
  { up with ck := { cmds := [{ cmdOf 0x0606 0xFF fs with origin := .attach 6 }], queues := [(3, q)] } }
theorem test_witness_PeerQueues : (fromPeer [(1, 1, 0xFF)] {}).running 7 0x0606 = some { cmdOf 0x0606 0xFF [(1, 1, 0xFF)] with origin := .attach 6 } ∧
    ((fromPeer [(1, 1, 0xFF)] {}).peerOf { cmdOf 0x0606 0xFF [(1, 1, 0xFF)] with origin := .attach 6 } = some 6 ∧ (cmdOf 0x0606 0xFF [(1, 1, 0xFF)]).p 0 1 = 0 ∧ (cmdOf 0x0606 0xFF [(1, 1, 0xFF)]).p 1 1 = 0xFF ∧
      ((fromPeer [] {}).queue 0).enable = false ∧ ((fromPeer [] {}).queue 0).drain = false ∧ (∀ k, k < (0 : Idx64).val → ¬((fromPeer [] {}).queue k).enable = false)) ∧
    ((cmdOf 0x0606 0xFF [(1, 1, 3)]).p 1 1 = 3 ∧ (cmdOf 0x0606 0xFF [(1, 1, 3)]).p 1 1 ≠ 0xFF ∧ ¬(((fromPeer [(1, 1, 3)] { enable := true }).queue 3).enable = false)) ∧
    ((cmdOf 0x0606 0xFF [(0, 1, 1), (1, 1, 3)]).p 0 1 = 1 ∧ ((fromPeer [] { enable := true }).queue 3).enable = true) ∧
    ((cmdOf 0x0606 0xFF [(0, 1, 5), (1, 1, 3)]).p 0 1 = 5 ∧ ((fromPeer [] { enable := true, loc := 3 }).queue 3).loc = 3 ∧ ((fromPeer [] { enable := true }).queue 3).loc ≠ 3) := by decide +kernel
def unitOf (op : Nat) (fs : List (Nat × Nat × Nat)) (u : UnitState) : State := (withCmd up (cmdOf op 0xFF ((0, 2, 0x1000) :: fs))).setUnit 0x1000 u
theorem test_witness_UnitCommands : ((unitOf 0x0903 [] {}).running 7 0x0903 = some (cmdOf 0x0903 0xFF [(0, 2, 0x1000)]) ∧ (cmdOf 0x0903 0xFF [(0, 2, 0x1000)]).p 2 1 = 0 ∧
      hasState ((cmdOf 0x0903 0xFF [(0, 2, 0x1000)]).p 0 2) = true) ∧
    ((cmdOf 0x0903 0xFF [(0, 2, 0x1000), (2, 1, 1)]).p 2 1 = 1 ∧ ((unitOf 0x0903 [(2, 1, 1)] { clerk := .fenced, last := 1 }).unit 0x1000).clerk = .fenced ∧
      ((unitOf 0x0903 [(2, 1, 1)] { clerk := .fenced, last := 1 }).unit 0x1000).last = 1 ∧ up.flash.fenceList = []) ∧
    ((unitOf 0x0903 [(2, 1, 1)] {}).unit 0x1000).clerk ≠ .fenced ∧ ((unitOf 0x0901 [] {}).begins 7 0x0901 = some (cmdOf 0x0901 0xFF [(0, 2, 0x1000)]) ∧ (unitOf 0x0901 [] {}).unit 0x1000 = {} ∧ ((unitOf 0x0901 [] { clerk := .suspect }).unit 0x1000).clerk ≠ .active) ∧ up.flash.fenceList = [] ∧
    (cmdOf 0x0901 0xFF [(0, 2, 0x6000)]).p 0 2 = 0x6000 ∧ (withCmd up (cmdOf 0x0901 0xFF [(0, 2, 0x6000)])).begins 7 0x0901 = some (cmdOf 0x0901 0xFF [(0, 2, 0x6000)]) := by decide +kernel
/-- The block of an ATTEST key setup that asks for stream 0, its public key the base point of brainpoolP384r1. -/
def keyBlock : List Byte := List.replicate 32 0 ++ [4] ++ bytesBE 48 (ecG.getD (0, 0)).1 ++ bytesBE 48 (ecG.getD (0, 0)).2 ++ [1]
def keying : State := { up with mem := writeTable [] 0x1000 keyBlock, ck := { cmds := [openCmd 0x0A01 0xFF [(0, 1, 1), (8, 8, 0x1000)]], queues := [(0, hostQ)] } }
theorem test_witness_FirmwareAndKeys_keys : keying.begins 7 0x0A01 = some (openCmd 0x0A01 0xFF [(0, 1, 1), (8, 8, 0x1000)]) ∧ keying.hostFull (openCmd 0x0A01 0xFF [(0, 1, 1), (8, 8, 0x1000)]) = true ∧ keying.boot.rngStopped = false ∧
    (keying.readBytes 0x1000 130).getD 32 0 = 4 ∧ onCurve (natBE (((keying.readBytes 0x1000 130).drop 33).take 48)) (natBE (((keying.readBytes 0x1000 130).drop 81).take 48)) = true ∧
    fieldAt (keying.readBytes 0x1000 130) 129 1 = 1 ∧ keying.streamExists 0 = true := by decide +kernel
def slotted : State := { withCmd up (cmdOf 0x0A04 0xFF [(0, 1, 1)]) with flash := { ptrA := { valid0 := true, valid1 := true }, ptrB := { valid0 := true, valid1 := true } } }
theorem test_witness_FirmwareAndKeys_images : ((withCmd up (openCmd 0x0A03 0xFF [(12, 1, 0)])).begins 7 0x0A03 = some (openCmd 0x0A03 0xFF [(12, 1, 0)]) ∧ (cmdOf 0x0A03 0xFF [(12, 1, 0)]).p 12 1 = up.boot.slot) ∧
    ((withCmd up (openCmd 0x0A03 0xFF [(12, 1, 1)])).begins 7 0x0A03 = some (openCmd 0x0A03 0xFF [(12, 1, 1)]) ∧ (cmdOf 0x0A03 0xFF [(12, 1, 1)]).p 12 1 ≠ up.boot.slot ∧ (cmdOf 0x0A03 0xFF [(12, 1, 1)]).p 12 1 < 2 ∧ up.flash.ptr.seq.toNat + 1 < 2 ^ 32) ∧
    ((withCmd up (cmdOf 0x0A03 0xFF [(12, 1, 1)] .working)).cmd 7 = some (cmdOf 0x0A03 0xFF [(12, 1, 1)] .working) ∧ (cmdOf 0x0A03 0xFF [(12, 1, 1)] .working).op = 0x0A03 ∧ up.brd.trip = false) ∧
    (slotted.running 7 0x0A04 = some (cmdOf 0x0A04 0xFF [(0, 1, 1)]) ∧ (cmdOf 0x0A04 0xFF [(0, 1, 1)]).p 0 1 = (1 : Fin 2) ∧ slotted.flash.ptr.valid 1 = true ∧ (∀ y ∈ slotted.ck.cmds, y.no ≠ 7 → y.op = 0x0A03 → y.p 12 1 = 1 → y.phase = .ended) ∧ slotted.flash.ptr.seq.toNat + 2 < 2 ^ 32) ∧
    (cmdOf 0x0A04 0xFF [(0, 1, 1)]).p 1 1 % 2 = 0 ∧ ((cmdOf 0x0A04 0xFF [(0, 1, 1), (1, 1, 1)]).p 1 1 % 2 = 1 ∧ slotted.ck.rounds = [] ∧ slotted.stallsLoaded = []) := by decide +kernel
theorem test_witness_FirmwareAndKeys_svn : slotted.flash.counter.toNat ≤ (imgSvn (slotted.slotReader (1 : Fin 2))).toNat := Nat.zero_le _
theorem test_witness_FirmwareAndKeys_busy : (∃ k ∈ ({ up with ck := { stalls := [(1, some { live := [{ mb := 0 }] })] } } : State).stallsLoaded, k.2.live ≠ []) := by decide +kernel
def loaded (x : Cmd) (st : Stall) : State := { withCmd up x with ck := { cmds := [x], stalls := [(1, some st)] } }
theorem test_witness_StallsLoadAndSwitch : ((withCmd up (openCmd 0x0101 1 [(16, 8, 5)])).begins 7 0x0101 = some (openCmd 0x0101 1 [(16, 8, 5)]) ∧ (cmdOf 0x0101 1 [(16, 8, 5)]).p 16 8 ≠ 0 ∧ up.boot.rngStopped = false) ∧
    ((loaded (cmdOf 0x0102 1 []) { bays := 3 }).running 7 0x0102 = some (cmdOf 0x0102 1 []) ∧ (loaded (cmdOf 0x0102 1 []) { bays := 3 }).stall 1 = some { bays := 3 } ∧ (cmdOf 0x0102 1 []).p 0 8 = 0 ∧
      (∀ b : Idx64, (3 : Nat).testBit b = true → (loaded (cmdOf 0x0102 1 []) { bays := 3 }).bayActive b = true ∧ (loaded (cmdOf 0x0102 1 []) { bays := 3 }).bayBusy b 1 = false)) ∧
    (∃ b : Idx64, (3 : Nat).testBit b = true ∧ up.bayActive b = true ∧ ({ loaded (cmdOf 0x0102 1 []) { bays := 3 } with ck := { cmds := [{ cmdOf 0x0301 2 [] with bays := 1 }] } } : State).bayBusy b 1 = true) ∧
    ((loaded (openCmd 0x0103 1 [(0, 1, 1)]) {}).begins 7 0x0103 = some (openCmd 0x0103 1 [(0, 1, 1)]) ∧ (cmdOf 0x0103 1 [(0, 1, 1)]).p 0 1 = 1 ∧ ({} : Stall).live = []) ∧
    ((loaded (openCmd 0x0103 1 []) {}).begins 7 0x0103 = some (openCmd 0x0103 1 []) ∧ (cmdOf 0x0103 1 []).p 0 1 = 0 ∧ ((loaded (cmdOf 0x0103 1 []) {}).quiesceIssued 1 7).stallBusy 1 7 = false) := by decide +kernel
theorem test_witness_StallsLoadAndSwitch_windows : ((loaded (cmdOf 0x0104 1 []) {}).running 7 0x0104 = some (cmdOf 0x0104 1 []) ∧ (loaded (cmdOf 0x0104 1 []) {}).slotUsed 7 1 0 = false ∧ (loaded (cmdOf 0x0104 1 []) {}).stall 1 = some {}) ∧
    ((withCmd up (cmdOf 0x0104 0xFF [])).slotUsed 7 0xFF 0 = false ∧ (cmdOf 0x0104 0xFF []).stallNo = 0xFF) ∧
    ({ up with ck := { cmds := [cmdOf 0x0104 1 [], { cmdOf 0x0301 1 [] with no := 6, slots := [0], disp := true }] } } : State).slotUsed 7 1 0 = true ∧
    ((loaded (cmdOf 0x0B05 0xFF [(0, 8, 2)]) { live := [{ mb := 0 }] }).cmd 7 = some (cmdOf 0x0B05 0xFF [(0, 8, 2)]) ∧ (cmdOf 0x0B05 0xFF []).op = 0x0B05 ∧ (cmdOf 0x0B05 0xFF []).runs = true ∧ (cmdOf 0x0B05 0xFF [(0, 8, 2)]).stage = 0 ∧
      (∀ j, j < 64 → ((cmdOf 0x0B05 0xFF [(0, 8, 2)]).p 0 8).testBit j = true → ((loaded (cmdOf 0x0B05 0xFF [(0, 8, 2)]) { live := [{ mb := 0 }] }).quiesceIssued j 7).stallBusy j 7 = false)) := by decide +kernel
def mover (op : Nat) (fs : List (Nat × Nat × Nat)) : State := { linked {} with ck := { cmds := [openCmd op 1 fs], stalls := [(1, some { bays := 1, windows := [(0, peerWindow)] })] } }
def ga5 (a : Nat) : Nat := 5 * 2 ^ 48 + a
theorem test_witness_DataMoves : ((mover 0x0201 [(0, 8, ga5 0), (8, 8, ga5 64), (16, 8, 64)]).begins 7 0x0201 = some (openCmd 0x0201 1 [(0, 8, ga5 0), (8, 8, ga5 64), (16, 8, 64)]) ∧
      (linked {}).localGa ((cmdOf 0x0201 1 [(0, 8, ga5 0), (8, 8, ga5 64), (16, 8, 64)]).p 0 8) = true ∧ (linked {}).localGa ((cmdOf 0x0201 1 [(0, 8, ga5 0), (8, 8, ga5 64), (16, 8, 64)]).p 8 8) = true ∧
      (cmdOf 0x0201 1 [(0, 8, ga5 0)]).p 24 1 ≠ 1 ∧ (cmdOf 0x0201 1 [(24, 1, 1)]).p 24 1 = 1) ∧
    ((linked {}).localGa ((cmdOf 0x0201 1 [(0, 8, 6 * 2 ^ 48)]).p 0 8) = false ∧ (linked {}).ab.fidValid = true ∧ ((linked {}).egressOf (BitVec.ofNat 16 (6 * 2 ^ 48 / 2 ^ 48))).isSome = true ∧
      (gaAddr (6 * 2 ^ 48) + 64 ≤ 2 ^ 48) ∧ up.ab.fidValid = false ∧ up.localGa (6 * 2 ^ 48) = false) ∧
    ((mover 0x0202 [(0, 8, ga5 0), (8, 8, 1024), (16, 8, 2048), (24, 4, 1), (28, 4, 64)]).running 7 0x0202 = some (openCmd 0x0202 1 [(0, 8, ga5 0), (8, 8, 1024), (16, 8, 2048), (24, 4, 1), (28, 4, 64)]) ∧
      (mover 0x0202 []).badElem (openCmd 0x0202 1 []) true false (gaAddr (ga5 0) + (mover 0x0202 []).readNat 2048 4 * 64) 64 = none ∧ (mover 0x0202 []).badElem (openCmd 0x0202 1 []) true false 2048 4 = none ∧
      (mover 0x0202 []).badElem (openCmd 0x0202 1 []) false true 1024 64 = none ∧ (mover 0x0202 []).noBay (openCmd 0x0202 1 []) = false ∧ (∀ y ∈ (mover 0x0202 []).ab.xfers, y.cmd ≠ 7)) ∧
    ((mover 0x0203 []).running 7 0x0203 = some (openCmd 0x0203 1 []) ∧ (mover 0x0203 []).badElem (openCmd 0x0203 1 []) false true (gaAddr (ga5 0) + (mover 0x0203 []).readNat 2048 4 * 64) 64 = none ∧ (mover 0x0203 []).badElem (openCmd 0x0203 1 []) true false 0 64 = none ∧
      (mover 0x0203 []).badElem (openCmd 0x0203 1 []) true false 2048 4 = none ∧ (mover 0x0203 []).noBay (openCmd 0x0203 1 []) = false ∧ (∀ y ∈ (mover 0x0203 []).ab.xfers, y.cmd ≠ 7)) := by decide +kernel

theorem test_witness_ComputeCommandsComplete : ∀ op ∈ [0x0301, 0x0302, 0x0303, 0x0304, 0x0305, 0x0306, 0x0401, 0x0402],
    (loaded (cmdOf op 1 []) { bays := 1 }).reading 7 op = some (cmdOf op 1 []) ∧ (loaded (cmdOf op 1 []) { bays := 1 }).stall 1 = some { bays := 1 } := by decide +kernel
theorem test_witness_ComputeCommandsComplete_room : (({} : Stall).batch 0 = none) ∧ ((cmdOf 0x0301 1 [(26, 2, 4)]).p 26 2).testBit 2 = true ∧ ((cmdOf 0x0301 1 [(26, 2, 8)]).p 26 2).testBit 3 = true ∧
    ({ live := [{ mb := 0 }] } : Stall).batch 0 = some { mb := 0 } ∧ ({ mb := 0 } : MicroBatch).keep = none ∧
    (({ live := [{ mb := 0 }] } : Stall).spillPlace (partsAt 0 2 1 32 false true false).endAt).isSome = false ∧ ((cmdOf 0x0302 1 [(30, 2, 2)]).p 30 2).testBit 1 = true ∧
    ((cmdOf 0x0303 1 [(46, 2, 2)]).p 46 2).testBit 1 = true ∧ (cmdOf 0x0306 1 []).addr 48 = 0 := by decide +kernel
def intMatmul : Cmd := { cmdOf 0x0301 1 [(16, 8, 0x400), (26, 2, 1)] with descs := [(16, 9 * 2 ^ 184)] }
theorem test_witness_Int32AccumulateSums : (loaded intMatmul { bays := 1 }).reading 7 0x0301 = some intMatmul ∧ (loaded intMatmul { bays := 1 }).stall 1 = some { bays := 1 } ∧ (intMatmul.p 26 2).testBit 0 = true ∧ (intMatmul.p 26 2).testBit 2 = false ∧
    (intMatmul.p 26 2).testBit 3 = false ∧ (intMatmul.desc 16).ftag = 9 := by decide +kernel
def closer (fs : List (Nat × Nat × Nat)) (g : Option (U32 × U32)) : Cmd := { cmdOf 0x0403 1 ((0, 1, 1) :: fs) with grp := g }
/-- A step close in a group of two, the module its leaf of rank 1. -/
def closing : State := { linked {} with mem := writeTable [] 0x100 (bytesLE 4 1 ++ bytesLE 4 2 ++ bytesLE 2 6 ++ bytesLE 2 5), ck := { cmds := [closer [(16, 8, 0x100)] (some (1, 0))], stalls := [(1, some {})] } }
def afterGrad : State := { loaded (closer [] none) {} with ck := { cmds := [{ cmdOf 0x0302 1 [] with no := 3 }, closer [] none], stalls := [(1, some {})] } }
theorem test_witness_StepsClose : (loaded (closer [] none) {}).modeCmd 7 1 = some (closer [] none, {}) ∧ (closer [] none).addr 16 = 0 ∧
    (∃ y ∈ afterGrad.ck.cmds, y.no < 7 ∧ y.stallNo = (closer [] none).stallNo ∧ y.isGrad = true) ∧ afterGrad.modeCmd 7 1 = some (closer [] none, {}) ∧
    (closing.modeCmd 7 1 = some (closer [(16, 8, 0x100)] (some (1, 0)), {}) ∧ (closer [(16, 8, 0x100)] none).addr 16 ≠ 0 ∧ closing.ab.fidValid = true ∧
      indexOf closing.ab.fid (closing.groupDesc 0x100).members = some 1 ∧ (closing.groupDesc 0x100).members.length ≤ 17 ∧
      closing.egressOf ((closing.groupDesc 0x100).members.getD 0 0) = some 3) ∧
    ((loaded { closer [] none with phase := .working, stage := 1 } {}).cmd 7 = some { closer [] none with phase := .working, stage := 1 } ∧ (closer [] none).op = 0x0403) := by decide +kernel
def numCmd (op action : Nat) : Cmd := cmdOf op 1 [(0, 1, action), (4, 1, 0)]
theorem test_witness_NumericsSettings : (∀ k ∈ [2, 3, 4, 5], (loaded (numCmd 0x0403 k) {}).modeCmd 7 k = some (numCmd 0x0403 k, {})) ∧
    (loaded (numCmd 0x0404 0) {}).running 7 0x0404 = some (numCmd 0x0404 0) ∧ ({} : Numerics).reqMode = none ∧ ({} : Numerics).reqStartlen = none ∧ ({} : Numerics).reqLoss = none ∧ ({} : Numerics).now.cal.length < ({ numcal := 1 } : Stall).numcal.toNat ∧ (numCmd 0x0403 3).p 4 1 ≤ 7 := by decide +kernel
/-- A diagonal layer record of one row and one column at the start of Tier F, its regions after it; low bits `ro`. -/
def recAt : Nat := 0x20000000000
def recBytes (ro : Nat) : List Byte :=
  bytesLE 128 (pack [(976, 48, recAt + 0x1000), (928, 48, recAt + 0x2000), (880, 48, recAt + 0x3000), (832, 48, recAt + 0x4000), (784, 48, recAt + 0x5000), (736, 48, recAt + 0x6000),
    (688, 48, recAt + 0x7000), (640, 48, 0x2000), (616, 24, 1), (592, 24, 1), (496, 32, 0x35800000), (448, 16, 1), (440, 8, 8), (432, 8, 20), (414, 2, 1)] + ro)
def milling (x : Cmd) (ro : Nat) (n : Numerics) : State :=
  { loaded x { layers := [{ vaddr := 0x2000, lraddr := BitVec.ofNat 48 recAt, lines := 1, length := 0 }], bays := 1, num := n } with mem := writeTable [] recAt (recBytes ro) }
def update (o : Nat) : Cmd := cmdOf 0x0501 1 [(0, 8, recAt), (16, 2, o)]
def decidedStep (skip : Bool) : Numerics := { now := { hdr := { step := 1 } }, decisions := [(0, skip, [])] }
theorem test_witness_MillerCommands_updates : let s := milling (update 0) 0 (decidedStep false)
    (s.onMiller 7 0x0501 = some (update 0) ∧ ∃ st, s.stall 1 = some st ∧ st.num.decided 0 (s.layerRec recAt).layer = some (false, [])) ∧
    ({} : Numerics).now.hdr.step.toNat ≤ (update 0).p 8 4 ∧ (update 0).p 8 4 < ((milling (update 0) (2 ^ 272) {}).layerRec recAt).ro.nextstep.toNat ∧
    ((milling (update 0) (2 ^ 409) {}).layerRec recAt).ro.dirty = true ∧ ((s.layerRec recAt).ro.nextstep.toNat ≤ (update 0).p 8 4 ∧ (s.layerRec recAt).ro.dirty = false ∧
      (s.layerRec recAt).ok recAt = true ∧ (s.layerRec recAt).freeze = false) ∧ ((milling (update 0) (2 ^ 413) {}).layerRec recAt).freeze = true ∧
    (decidedStep true).decided 0 0 = some (true, []) ∧ ((update 0).p 16 2).testBit 2 = false ∧ ((update 4).p 16 2).testBit 2 = true := ⟨⟨by decide +kernel, _, rfl, by decide +kernel⟩, by decide +kernel⟩
def refresh : Cmd := cmdOf 0x0502 1 [(0, 8, recAt)]
def masking (a k : Nat) : Cmd := cmdOf 0x0503 1 [(0, 8, recAt), (8, 8, a), (16, 8, k)]
theorem test_witness_MillerCommands_others : let s := milling refresh 0 {}
    (s.onMiller 7 0x0502 = some refresh ∧ ∀ b ∈ blocks1024 (s.layerRec recAt).rows, (s.readMat ((s.layerRec recAt).laddr + b.1 * blockStride) b.2.2 b.2.2).finite = true ∧
      (BlkStatus.ofNat (s.readNat ((s.layerRec recAt).laddr + b.1 * blockStride + statusOff) 4)).valid = false) ∧
    (let t := { s with mem := writeTable s.mem (recAt + 0x3000) [0, 0, 0x80, 0x7F] }; (t.readMat (t.layerRec recAt).laddr 1 1).finite = false) ∧
    ((milling (masking 0 0) 0 {}).onMiller 7 0x0503 = some (masking 0 0) ∧ (masking 0 0).addr 8 = 0 ∧ (masking recAt (recAt + 0x6000)).addr 8 ≠ 0 ∧
      recAt + 128 ≤ (masking recAt (recAt + 0x6000)).addr 16) := by decide +kernel
def publish : Cmd := cmdOf 0x0504 1 [(0, 8, recAt)]
theorem test_witness_WeightPublication : let s := milling publish (2 ^ 410) {}
    (s.onMiller 7 0x0504 = some publish ∧ (s.layerRec recAt).ro.staged = true ∧ ((milling publish 0 {}).layerRec recAt).ro.staged = false ∧ (s.vers 0x2000).pins1 = 0 ∧
      s.pubHeld 0x2000 = false ∧ s.pubOf 0x2000 = none ∧ (s.pubStall 0x2000).map (·.1) = some 1 ∧ s.convBays 0x2000 ≠ 0 ∧ s.convFree 0x2000 = true ∧
      ∃ st, s.stall 1 = some st ∧ st.layerOf (s.layerRec recAt) = some 0) ∧
    ({} : Stall).layerOf (s.layerRec recAt) = none ∧
    (let t := { s with ck := { s.ck with vers := [(0x2000, { pins1 := 1 })] } }; (t.vers 0x2000).pins1 ≠ 0 ∧ ∀ k ∈ t.stallsLoaded, k.2.live = []) := ⟨⟨by decide +kernel, by decide +kernel, by decide +kernel, by decide +kernel, by decide +kernel, by decide +kernel, by decide +kernel, by decide +kernel, by decide +kernel, _, rfl, by decide +kernel⟩, by decide +kernel⟩
/-- The conversions of the publication wait for their bays, or have none (`bays`). -/
def streamed (bays : U64) : State :=
  let s := milling { publish with phase := .working } 0 {}
  { s with ck := { s.ck with stalls := [(1, some { layers := [{ vaddr := 0x2000 }], bays := bays })], pubs := [⟨0x2000, recAt, 7, 1, 0, true, 0, 0, false, none⟩] } }
theorem test_witness_PublicationEvents_conversions : ((streamed 1).pubOf 0x2000).isSome = true ∧ ((streamed 1).cmd 7).isSome = true ∧
    ((streamed 1).pubStall 0x2000).map (·.1) = some 1 ∧ (streamed 1).convBays 0x2000 ≠ 0 ∧ (streamed 1).convFree 0x2000 = true ∧ (streamed 0).convBays 0x2000 = 0 ∧
    (let s := { streamed 1 with ck := { (streamed 1).ck with vers := [(0x2000, { flipped := some 0 })] } }; s.pubHeld 0x2000 = true ∧ (s.vers 0x2000).pins1 = 0) := by decide +kernel
/-- The publication waits for, or converts, the side that micro-batch 0 of stall 1 pins. -/
def publishing (conv : Bool) (pins : U16) : State :=
  { withCmd up { publish with phase := .working } with ck := { cmds := [{ publish with phase := .working }], stalls := [(1, some { live := [{ mb := 0, pins := [(0x2000, true)] }] })], vers := [(0x2000, { pins1 := pins })], pubs := [⟨0x2000, recAt, 7, 1, 0, conv, 0, 0, false, none⟩] }, clk := { ticks := 100000000, time := 100000000 } }
theorem test_witness_PublicationEvents : (∀ b n, ((publishing b n).pubOf (0x2000 : BitVec 48).toNat) = some ⟨0x2000, recAt, 7, 1, 0, b, 0, 0, false, none⟩) ∧ ((publishing false 0).vers 0x2000).pins1 = 0 ∧
    ((publishing false 1).vers 0x2000).pins1 ≠ 0 ∧ ((publishing false 0).cmd 7) = some { publish with phase := .working } ∧ (publishing false 1).reached (0 + 100000000) = true ∧
    (publishing false 1).selfHeld { publish with phase := .working } 0x2000 true = false ∧
    (((publishing false 1).pinners 0x2000 true).all (fun h => (publishing false 1).endLatched h.1 h.2)) = false := ⟨fun b n => by cases b <;> rfl, by decide +kernel⟩
def roundLoading (n : Nat) : Cmd := cmdOf 0x0B01 0xFF [(0, 1, 1), (8, 8, 0x1000), (16, 2, n)]
/-- One step whose packet is CAPS on no stall, NEXT 0xFFFF, PATCH none. -/
def stepBytes : List Byte := [1, 0, 0xFF] ++ List.replicate 61 0 ++ bytesLE 8 (0xFFFF * 2 ^ 48 + 0xFF * 2 ^ 16)
def roundLoader (n : Nat) : State := { withCmd up (roundLoading n) with mem := writeTable [] 0x1000 stepBytes, ck := { cmds := [roundLoading n], svc := [(0, peerWindow)] } }
def aRound (stops : Option (Byte × U16 × U32)) (nxt : Option Nat) : Round :=
  { steps := [⟨stepBytes.take 64, BitVec.ofNat 64 (natLE (stepBytes.drop 64))⟩], mark := true, run := some { cmd := 7, first := 0, iters := 1, next := nxt, stop := stops } }
def rounded (rd : Round) : State := { up with ck := { cmds := [cmdOf 0x0B02 0xFF [(0, 1, 1)]], rounds := [(1, some rd)], nextCmd := 8 } }
/-- A packet of version 3.1. -/
def packetOf (op stall mb : Nat) (fs : List (Nat × Nat × Nat)) : List Byte := bytesLE 64 (pack ([(0, 16, op), (16, 8, 1), (24, 8, 3), (64, 8, stall), (112, 8, 48), (120, 8, mb)] ++ fs))
/-- A round of one step with the packet; `n`: what comes next. -/
def roundOf (packet : List Byte) (run : RoundRun) : Round := { steps := [⟨packet, BitVec.ofNat 64 (0xFFFF * 2 ^ 48 + 0xFF * 2 ^ 16)⟩], mark := true, run := some run }
def run0 : RoundRun := { cmd := 7, first := 0, iters := 1, next := some 0 }
/-- The state in which `roundOf` judges its first step, marked at issue. -/
def issuing (packet : List Byte) : State :=
  let rd := roundOf packet run0
  ((rounded rd).stepMark rd run0).setRound 1 (some { rd with run := some { run0 with next := none, marked := true } })
theorem test_witness_RoundsRun_issue : (let p := packetOf 0x0702 0xFF 0xFF [(128, 8, 6)]
      (rounded (roundOf p run0)).nextStep 1 (roundOf p run0) run0 = some (0, false) ∧ (rounded (roundOf p run0)).clerkRuns = true ∧ (rounded (roundOf p run0)).cmd (rounded (roundOf p run0)).ck.nextCmd = none ∧
      (match (issuing p).judge ((issuing p).candidate (.round 1 0) p true (issuing p).now 0) p with | .ok _ => true | .error _ => false) = true) ∧
    (let p := stepBytes.take 64; (match (issuing p).judge ((issuing p).candidate (.round 1 0) p true (issuing p).now 0) p with | .ok _ => true | .error _ => false) = false) ∧
    (let again : RoundRun := { run0 with again := [0] }; (rounded (roundOf [] again)).nextStep 1 (roundOf [] again) again = some (0, true)) := by decide +kernel
/-- A WEIGHT_PUBLISH that a round issued, whose next step waits for it with the micro-batch that holds the side. -/
def selfWaiting : State :=
  let rd : Round := { steps := [⟨packetOf 0x0301 1 0 [], 0xFFFF00000000FFFF⟩], run := some run0 }
  { rounded rd with ck := { (rounded rd).ck with stalls := [(1, some { live := [{ mb := 0, pins := [(0x2000, true)] }] })] } }
theorem test_witness_WeightPublication_selfHeld : selfWaiting.selfHeld { publish with origin := .round 1 0, no := 9 } 0x2000 true = true ∧
    selfWaiting.selfHeld publish 0x2000 true = false := by decide +kernel
theorem test_witness_RoundsRun : ((roundLoader 1).begins 7 0x0B01 = some (roundLoading 1) ∧ (roundLoader 1).roundLoadCheck (roundLoading 1) = none ∧ ((roundLoader 0).roundLoadCheck (roundLoading 0)).isSome = true) ∧
    ((rounded { aRound none none with run := none }).running 7 0x0B02 = some (cmdOf 0x0B02 0xFF [(0, 1, 1)]) ∧ ((List.range 8).filter (rounded { aRound none none with run := none }).roundRunning).length < 4 ∧
      (cmdOf 0x0B02 0xFF [(0, 1, 1)]).p 8 2 < (aRound none none).steps.length ∧ (rounded (aRound none none)).round 1 = some (aRound none none)) ∧
    (let s := rounded (aRound none none); s.nextStep 1 (aRound none none) { run0 with next := none } = none ∧ s.stepsOpen 1 = false ∧ run0.iter + 1 - run0.startIter = run0.iters ∧ run0.iter + 1 - run0.startIter ≠ 2) ∧
    (∃ run, (aRound (some (0x13, 0, 0)) none).run = some run ∧ run.stop = some (0x13, 0, 0)) := by
  refine ⟨by decide +kernel, by decide +kernel, by decide +kernel, _, rfl, rfl⟩
def saving (host lim : Nat) : Cmd := cmdOf 0x0B03 1 [(8, 8, lim), (16, 2, 0), (18, 1, host)]
theorem test_witness_CheckpointAndRestore_saves : let x := openCmd 0x0B03 1 [(8, 8, 128), (16, 2, 0), (18, 1, 1)]; let s := mover 0x0B03 [(8, 8, 128), (16, 2, 0), (18, 1, 1)]
    (s.begins 7 0x0B03 = some x ∧ (s.stall 1).isSome = true ∧ s.updatesLeft x = false ∧ x.p 18 1 = 1 ∧ (saving 0 128).p 18 1 ≠ 1) ∧
    s.localGa (5 * 2 ^ 48) = true ∧ s.badElem x false true 0 128 = none := by decide +kernel
theorem test_witness_CheckpointAndRestore_limit : (up.image 1 {} 0).length = 128 ∧ 128 ≤ (saving 0 128).p 8 8 ∧ (saving 0 127).p 8 8 < 128 := by decide +kernel
/-- A RESTORE from host memory, of an image of HISTORY alone. -/
def restoring (want : Nat) : Cmd := cmdOf 0x0B04 1 [(8, 2, want), (10, 1, 1)]
def historyBody : List Byte := item (up.section_ 1 {} 3)
def historyImage : List Byte := bytesLE 128 (pack [(640, 384, digest historyBody), (576, 64, historyBody.length), (400, 16, 8), (384, 8, 3)]) ++ historyBody
def restored (want : Nat) (img : List Byte) : State := { loaded (restoring want) {} with hostMem := writeTable [] 0 img }
theorem test_witness_CheckpointAndRestore_digest : let s := restored 8 historyImage; let hdr := natLE (s.readHost 0 128); let body := s.readHost 128 (bits hdr 639 576)
    s.running 7 0x0B04 = some (restoring 8) ∧ (restoring 8).stage < 3 ∧ (restoring 8).p 10 1 = 1 ∧ digest body = bits hdr 1023 640 ∧ ((restoring 8).p 8 2 % 32).testBit 0 = false ∧
      ((restoring 8).p 8 2 % 32).testBit 3 = true ∧ (sectionOf (bits hdr 415 400) body 3).isSome = true ∧ bits hdr 391 384 = 3 := by decide +kernel
/-- An image of ROUNDS alone, whose one round is number 1. -/
def roundsBody : List Byte := item (roundItem 1 (aRound none none))
def roundsImage : List Byte := bytesLE 128 (pack [(640, 384, digest roundsBody), (576, 64, roundsBody.length), (400, 16, 16), (384, 8, 3)]) ++ roundsBody
theorem test_witness_CheckpointAndRestore_rounds : let s := restored 16 roundsImage; let hdr := natLE (s.readHost 0 128); let body := s.readHost 128 (bits hdr 639 576)
    digest body = bits hdr 1023 640 ∧ ((restoring 16).p 8 2 % 32).testBit 4 = true ∧ (sectionOf (bits hdr 415 400) body 4).map roundNumbers = some [1] ∧
      s.roundRunning 1 = false ∧ (s.setRound 1 (some (aRound none (some 0)))).roundRunning 1 = true := by decide +kernel
theorem test_witness_CheckpointAndRestore_failing : let s := restored 8 (bytesLE 128 1); let hdr := natLE (s.readHost 0 128)
    digest (s.readHost 128 (bits hdr 639 576)) ≠ bits hdr 1023 640 := by decide +kernel
/-- A RESTORE at its last layer; `pubs`: the publication of that layer's version record, of a WEIGHT_PUBLISH numbered 8. -/
def layered : Cmd := { restoring 4 with phase := .working, stage := 3, left := [0], wins := [(0, lowWindow)] }
def rewriting (v : Vers) (pubs : List Publication) : State := { restored 4 [] with ck := { cmds := [layered, { publish with no := 8, phase := .working }], stalls := [(1, some { layers := [{ vaddr := 0x2000 }] })], vers := [(0x2000, v)], pubs := pubs } }
theorem test_witness_CheckpointAndRestore_layers : ((rewriting {} []).cmd 7 = some layered ∧ layered.op = 0x0B04 ∧ ({ layers := [{ vaddr := 0x2000 }] } : Stall).layer 0 = some { vaddr := 0x2000 } ∧
      (rewriting {} []).pubOf 0x2000 = none ∧ ((rewriting {} []).vers 0x2000).pins0 = 0 ∧ ((rewriting {} []).vers 0x2000).pins1 = 0 ∧ ((rewriting { pins0 := 1 } []).vers 0x2000).pins0 ≠ 0) ∧
    (rewriting {} []).badElem layered false true ((rewriting {} []).currentBase 0x2000 false) ({ vaddr := 0x2000 } : LayerEnt).sideBytes = none ∧
    (∀ b, (rewriting { pins1 := 1 } [⟨0x2000, recAt, 8, 1, 0, b, 0, 0, false, none⟩]).pubOf 0x2000 = some ⟨0x2000, recAt, 8, 1, 0, b, 0, 0, false, none⟩) ∧
    ((rewriting { pins1 := 1 } [⟨0x2000, recAt, 8, 1, 0, false, 0, 0, false, none⟩]).vers 0x2000).pins1 ≠ 0 ∧ (rewriting {} []).cmd 8 = some { publish with no := 8, phase := .working } := by
  refine ⟨by decide +kernel, by decide +kernel, fun b => by cases b <;> rfl, by decide +kernel⟩
/-! ## The invariant and the queue -/
theorem test_witness_StepsKeepTheInvariant : State.kept State.reset ∧ State.kept up ∧ step up = .next up.tick := ⟨⟨by decide +kernel, by decide +kernel, by decide +kernel, by decide +kernel, by decide +kernel⟩, ⟨by decide +kernel, by decide +kernel, by decide +kernel, by decide +kernel, by decide +kernel⟩, rfl⟩
theorem test_witness_CommandsLeaveTheQueue : step { up with pending := [.caps 0, .powerGoodFall] } = exec (.caps 0) { up with pending := [.powerGoodFall] } := rfl
/-! ## The spec's own examples -/
/-- Example 02-1: INT4 with a zero point. -/
theorem test_example_02_1 : [(-2 : Rat), 9/8, 9, 10].map (fun v => quantElem 1 (3/4) 3 (.fin v) false) =
    [(0, {}, false), (5, {}, false), (15, {}, false), (15, { clipped := 1 }, true)] := by decide +kernel
/-- Example 02-2: BF16 into FP4 with a supplied scale; element 1, where the example and Table 02-2 differ, is left out. -/
theorem test_example_02_2 : let b := suppliedBlock 0 0x40 0x7C800000 ([0x3F10, 0xBF58, 0x3EF0, 0x3DC0, 0x3D40, 0x3FA8].map bf16.read)
    b.rec_ = 0x7C800004 ∧ (b.codes.eraseIdx 1).take 5 = [5, 5, 2, 0, 7] ∧ b.cnt.flushedOut = 1 ∧ b.cnt.clipped = 1 := by decide +kernel
/-- Example 02-3: FP32 into E4M3 and E5M2 with unit scale. -/
theorem test_example_02_3 : ([0x43FA0000, 0x3C000000, 0x3BC00000, 0x7F800000, 0xFFC00000].map (fun k => ((quantElem 2 1 0 (fp32.read k).1 false).1, (quantElem 3 1 0 (fp32.read k).1 false).1))) =
    [(0x7E, 0x60), (0x08, 0x20), (0x00, 0x1E), (0x7F, 0x7F), (0xFF, 0xFF)] := by decide +kernel
/-- Example 02-4: publication of a master weight. -/
theorem test_example_02_4 : (bf16.write (mw40.read 0x3F82800000).1 false false).1 = 0x3F83 ∧ (fp32.write (mw40.read 0x3F82800000).1 false false).1 = 0x3F828000 := by decide +kernel
/-- Example 03-1: three contributions to the ledger, and the sum rounded. -/
theorem test_example_03_1 : let c := ledger (some 4) 1 none ([pow2 (-3), 245/128, 9/2 * pow2 (-96)].map (fun v => ⟨v, false, none, none⟩))
    c.under = 1 ∧ (bf16.write c.v false false).1 = 0x4003 ∧ (fp32.write c.v false false).1 = 0x40028000 := by decide +kernel
/-- Example 05-2: the first pass of one FP4 block, and its candidate. -/
theorem test_example_05_2 : firstPass 0 (7/8) ([13/4, -11/4, 1, 1/8].map XVal.fin ++ List.replicate 28 (.zero false)) = (0x7D, 0xF, 0) ∧
    (quantElem 0 (scaleOf 0x7D 0xF) 0 (.fin (13/4)) false).2.2 = true ∧ (quantElem 0 (scaleOf 0x7D 0xF) 0 (.fin (-11/4)) false).1 = 0xF := by decide +kernel
/-- Example 06-1: small updates held in MW40. -/
theorem test_example_06_1 : (mw40.write (.fin (1 - pow2 (-30))) false false).1 = 0x3F7FFFFFFC ∧ (bf16.write (mw40.read 0x3F7F800000).1 false false).1 = 0x3F80 ∧
    (bf16.write (mw40.read 0x3F7F7FFFFC).1 false false).1 = 0x3F7F := by decide +kernel
/-- Examples 07-1 and 10-1: addresses decoded to their stacks. -/
theorem test_example_07_1 : stackOf 0x009345678C40 = some 15 ∧ stackOf 0x029000000400 = some (24 + 7) ∧ stackOf 0x020001234400 = some (24 + 2) := by decide +kernel
/-- Example 09-1: block scales, wire codes and the owner's sum of one element. -/
theorem test_example_09_1 : [(56 : Rat), 7/128, 7/2 * pow2 (-24)].map (fun b => (firstPass 3 1 [.fin b]).1) = [0x75, 0x6B, 0x59] ∧
    (e5m2.write (.fin (1332)) false true).1 = 0x65 ∧ (e5m2.write (.fin 12800) false true).1 = 0x72 ∧
    (fp32.write (.fin ((5/4 + 3/256 + pow2 (-24)) * pow2 (-16))) false false).1 = 0x37A18001 := by decide +kernel
/-! ## Witnesses of the clauses on what an edge latches, on what waits, and on insecure streams -/
theorem test_witness_LinkLayerFlits_acknowledging : ((linked {}).port 3).resend = [] ∧ aFlit.nak = false ∧ ((linked {}).port 3).nakDue = false ∧ (linked {}).mayCtl 3 = true ∧
    (linked { egress := [⟨data 6, 0, none⟩], lastCtl := some 30000000 }).mayCtl 3 = false := by decide +kernel
theorem test_witness_ProbesAndSwitching_kind : ((linked {}).port 3).kindOk (data 6) = true := by decide +kernel
theorem test_witness_CollectiveData_channel : collVcOk { aFlit with kind := 9, vc := 3 } 2 = true ∧ ({ aFlit with kind := 9, vc := 3 } : Flit).kindOk = true := by decide +kernel
theorem test_witness_BarrierMessages_channel : ({ aFlit with kind := 9, vc := 3 } : Flit).kindOk = true ∧ ({ aFlit with kind := 9, vc := 0 } : Flit).kindOk = true ∧ collVcOk { aFlit with kind := 9, vc := 3 } 4 = true := by decide +kernel
theorem test_witness_HdmDecoders_both : let s : State := { up with hp := { up.hp with dec0 := { committed := true, hpaBase := 0x1000, size := 0x1000 }, dec1 := { committed := true, hpaBase := 0x2000, size := 0x1000 } } }
    (s.dec 0).committed = true ∧ (s.dec (1 - 0)).committed = true ∧ (0x1FFF : U64) < (s.dec 1).hpaBase ∧ (s.dec 0).hpaBase ≤ 0x1FFF ∧ (0x1FFF : U64).toNat < (s.dec 0).hpaBase.toNat + (s.dec 0).size ∧
      (s.dec (1 - 1)).hpaBase.toNat + (s.dec (1 - 1)).size ≤ (0x2000 : U64).toNat ∧ (s.dec 1).hpaBase ≤ 0x2000 := by decide +kernel
theorem test_witness_HdmDecoders_mode : 2 < ({ up with hp := { mode := 3 } } : State).hp.mode ∧ (true = true ∧ (decoded.dec 0).committed = true) := by decide +kernel
theorem test_witness_QueueRegisters_snoop : (queued hostQ).memOpen = true ∧ (insecure (queued hostQ) 1).memOpen = false := by decide +kernel
theorem test_witness_PacketsAreRead_ring : (woken hostQ).ringOpen = true ∧ (insecure (woken hostQ) 1).ringOpen = false := by decide +kernel
theorem test_witness_CommandsRunAndComplete_late : let x : Cmd := { cmdOf 0x0702 0xFF [] .issued with hdr := { opcode := 0x0702, deadline := 3 } }
    let s : State := { (withCmd up x) with clk := { time := 31 } }
    s.clerkRuns = true ∧ s.overDeadline x = true ∧ (issued setting).overDeadline { setting with phase := .issued } = false := by decide +kernel
/-- A BARRIER that ended before its group descriptor was there. -/
def numberless : Cmd := { cmdOf 0x0604 1 [(0, 8, 0x1000)] .ended with no := 9 }
theorem test_witness_CommandsRunAndComplete_number : numberless.unnumbered = true ∧ (withCmd up numberless).contentsPending numberless = false ∧ (withCmd up numberless).numberWait numberless = false ∧
    ({ withCmd up numberless with ck := { cmds := [{ numberless with no := 8 }, numberless] } } : State).numberWait numberless = true ∧ tripped.brd.trip = true ∧
    ({ setting with phase := .ended } : Cmd).unnumbered = false ∧ (issued setting).replyBlocked { setting with phase := .ended } = false ∧
    (insecure ((issued setting).setQueue 0 hostQ) 1).replyBlocked { setting with phase := .ended } = true := by decide +kernel
theorem test_witness_CommandsRunAndComplete_edge : (withCmd up (cmdOf 0x0301 1 [])).endsNow 7 = false ∧ ({ withCmd up (cmdOf 0x0301 1 []) with pending := [.matmulFwd 7] } : State).endsNow 7 = true := by decide +kernel
theorem test_witness_OstlerRequests_clamped : (up.setPower 5 { state := .bo }).clamped 0 5 = true ∧ up.clamped 0 5 = false := by decide +kernel
theorem test_witness_WeightPublication_runs : ((withCmd up (cmdOf 0x0504 1 [] .working)).cmd 7).any Cmd.runs = true := by decide +kernel
theorem test_witness_StallsLoadAndSwitch_quiesce : let x := cmdOf 0x0B05 0xFF [(0, 8, 2)] .working
    x.stage = 0 ∧ x.runs = true ∧ (((withCmd up x).setStall 1 (some {})).quiesceIssued 1 7).stallBusy 1 7 = false ∧ (x.p 0 8).testBit 1 = true ∧ (∀ m ∈ x.left, m / 256 ≠ 1) := by decide +kernel
/-! ## Single steps -/
def after (o : Host.Outcome State Fault Refusal) : State := match o with | .next t => t | _ => State.reset
/-- The descriptor of a one-line INT8 tensor of two elements, its data at `a` and its scale record at `a + 64`. -/
def pairDesc (a tag : Nat) : Nat := pack [(464, 48, a), (416, 48, a + 64), (232, 24, 1), (208, 24, 1), (184, 4, tag)]
def times : Cmd :=
  { cmdOf 0x0301 1 [(26, 2, 1), (28, 4, 0x7F000500), (32, 4, 0x7F000500)] with bays := 1, descs := [(0, pairDesc 0x1000 5), (8, pairDesc 0x2000 5), (16, pack [(464, 48, 0x3000), (232, 24, 1), (184, 4, 9)])] }
/-- MATMUL_FWD in INT32-accumulate mode: (3, −4) · (5, 6) = −9. -/
theorem test_matmul_int32 : (after (exec (.matmulFwd 7) { loaded times { bays := 1 } with mem := writeTable (writeTable [] 0x1000 [3, 0xFC]) 0x2000 [5, 6] })).readNat 0x3000 4 = 0xFFFFFFF7 := by decide +kernel
/-- R337, Table 10-1: a host CLAIM of a module with no owner gives the host its ownership; a claim of one with an owner does not. -/
theorem test_host_claim : (after (exec (.hostClaim false none) up)).ck.owner = .host ∧ (after (exec (.hostClaim false none) (owned up (.peer 6)))).ck.owner = .peer 6 := by decide +kernel
/-- A host read through a decoder committed over HDM0 takes 64 bytes of Tier M. -/
def exposed : State := { up with mem := writeTable [] 0x10000000000 [7, 8], hp := { up.hp with dec0 := { committed := true, hpaBase := 0x400000000000, size := 0x10000000000 } } }
theorem test_hdm_read : (after (exec (.hdmRead 0x400000000000 false) exposed)).resp.take 3 = [7, 8, 0] := by decide +kernel
/-- A port that has sent nothing for 1 µs sends a HEARTBEAT, kind 1, with the next sequence number (R257). -/
theorem test_heartbeat : ((after (exec (.heartbeatSend 3) (linked { credits := [1] }))).port 3).txSeq = ((linked {}).port 3).txSeq + 1 := by decide +kernel
end Sys2Proof.Tests
end

/-! SUPPORT. Frames that compose, the bits of packed words, and the bytes of an answer. -/

namespace Sys2Proof.Machine

/-! ## Frames -/

/-- A part that two steps leave alone is the same after both. -/
theorem Part.same_trans {p : Part} {s t u : State} (h : p.same s t) (h' : p.same t u) : p.same s u := by
  cases p <;> simp_all [Part.same]

/-- Frames compose: what two steps change is what either changes. -/
theorem keepsBut.trans {a b : List Part} {s t u : State} (h : keepsBut a s t) (h' : keepsBut b t u) : keepsBut (a ++ b) s u := by
  intro p hp
  rw [List.mem_append, not_or] at hp
  exact Part.same_trans (h p hp.1) (h' p hp.2)

theorem keepsBut.mono {a b : List Part} {s t : State} (h : keepsBut a s t) (hab : a ⊆ b) : keepsBut b s t :=
  fun p hp => h p (fun ha => hp (hab ha))

theorem keepsBut_answer (s : State) (n v : Nat) : keepsBut [.reply] s (s.answer n v) := by
  intro p hp
  cases p <;> simp_all [Part.same, State.byte]

theorem keepsBut_hp (s : State) (h : HostPort) : keepsBut [.port] s { s with hp := h } := by
  intro p hp
  cases p <;> simp_all [Part.same, State.byte]

theorem keepsBut_mb (s : State) (m : Mailboxes) : keepsBut [.mailboxes] s { s with mb := m } := by
  intro p hp
  cases p <;> simp_all [Part.same, State.byte]

theorem keepsBut_brd (s : State) (b : Board) : keepsBut [.board] s { s with brd := b } := by
  intro p hp
  cases p <;> simp_all [Part.same, State.byte]

theorem keepsBut_freeCtr (s : State) (n : Nat) : keepsBut [.free] s { s with freeCtr := n } := by
  intro p hp
  cases p <;> simp_all [Part.same, State.byte]

theorem keepsBut_setQueue (s : State) (q : Nat) (v : Queue) : keepsBut [.clerk] s (s.setQueue q v) := by
  intro p hp
  cases p <;> simp_all [Part.same, State.byte]

/-! ## Packed fields -/

/-- A bit of a packed word is that bit of a field that covers it. -/
theorem testBit_pack (fs : List (Nat × Nat × Nat)) (k : Nat) :
    (pack fs).testBit k = fs.any (fun f => decide (f.1 ≤ k) && decide (k < f.1 + f.2.1) && f.2.2.testBit (k - f.1)) := by
  induction fs with
  | nil => simp [pack]
  | cons f fs ih =>
    obtain ⟨lo, w, v⟩ := f
    simp only [pack, Nat.testBit_or, Nat.testBit_shiftLeft, Nat.testBit_mod_two_pow, ih, List.any_cons]
    by_cases h : lo ≤ k
    · simp [h, show (k - lo < w) ↔ (k < lo + w) by omega]
    · simp [h]

/-- A word whose fields end at bit `n` or below is less than `2 ^ n`. -/
theorem pack_lt (fs : List (Nat × Nat × Nat)) (n : Nat) (h : ∀ f ∈ fs, f.1 + f.2.1 ≤ n) : pack fs < 2 ^ n := by
  refine Nat.lt_pow_two_of_testBit _ (fun k hk => ?_)
  rw [testBit_pack, List.any_eq_false]
  intro f hf
  have hend := h f hf
  simp [show ¬ k < f.1 + f.2.1 by omega]

/-- The first field, where the others lie below it. -/
theorem pack_cons_div (lo w v : Nat) (fs : List (Nat × Nat × Nat)) (h : pack fs < 2 ^ lo) :
    pack ((lo, w, v) :: fs) / 2 ^ lo = v % 2 ^ w := by
  rw [← Nat.shiftRight_eq_div_pow, pack, Nat.shiftRight_or_distrib, Nat.shiftLeft_shiftRight,
    Nat.shiftRight_eq_div_pow (pack fs), Nat.div_eq_of_lt h, Nat.or_zero]

@[simp] theorem b1_mod_two (b : Bool) : decide (b1 b % 2 = 1) = b := by cases b <;> rfl

theorem bitMask_succ (n : Nat) (f : Nat → Bool) : bitMask (n + 1) f = bitMask n f + if f n then 2 ^ n else 0 := by
  unfold bitMask
  rw [List.range_succ, List.filter_append, List.foldl_append]
  cases hn : f n <;> simp [hn]

theorem bitMask_lt (n : Nat) (f : Nat → Bool) : bitMask n f < 2 ^ n := by
  induction n with
  | zero => exact Nat.one_pos
  | succ n ih =>
    rw [bitMask_succ, Nat.pow_succ]
    split <;> omega

/-- Bit `k` of a mask of the numbers below `n`. -/
theorem testBit_bitMask (n : Nat) (f : Nat → Bool) (k : Nat) : (bitMask n f).testBit k = (decide (k < n) && f k) := by
  induction n with
  | zero => simp [bitMask]
  | succ n ih =>
    have hlt := bitMask_lt n f
    rw [bitMask_succ]
    rcases Nat.lt_trichotomy k n with h | rfl | h
    · cases f n <;> simp [Nat.add_comm _ (2 ^ n), Nat.testBit_two_pow_add_gt h, ih, h, Nat.lt_succ_of_lt h]
    · cases hk : f k <;> simp [Nat.add_comm _ (2 ^ k), Nat.testBit_two_pow_add_eq, ih, hk]
    · have hb : (bitMask (n + 1) f).testBit k = false :=
        Nat.testBit_lt_two_pow (Nat.lt_of_lt_of_le (bitMask_lt (n + 1) f) (Nat.pow_le_pow_right (by omega) h))
      rw [← bitMask_succ, hb]
      simp [show ¬ k < n + 1 by omega]

/-! ## Answers -/

@[simp] theorem State.answer_resp (s : State) (n v : Nat) : (s.answer n v).resp = bytesLE n v := rfl

/-- The bytes of a number that fits spell it. -/
theorem natLE_bytesLE_of_lt {n v : Nat} (h : v < 256 ^ n) : natLE (bytesLE n v) = v := by
  rw [natLE_bytesLE, Nat.mod_eq_of_lt h]

theorem natLE_bytesLE_word (v : U32) : natLE (bytesLE 4 v.toNat) = v.toNat := natLE_bytesLE_of_lt v.isLt

@[simp] theorem cleared_eq (w : Nat) (e : Bool) : cleared w e = if e then 1 else 0 := rfl

/-! ## Clearing reads (R10, R299, R310, R482) -/

theorem exec_notownerRead {s : State} (e : Bool) (h : s.ioOpen = true) : exec (.notownerRead e) s =
    .next (({ s with hp := { s.hp with notOwner := cleared 32 e } } : State).answer 4 s.hp.notOwner.toNat) :=
  congrArg Host.Outcome.next (State.viaIo_open s _ h)

theorem exec_lostreplyRead {s : State} (e : Bool) (h : s.ioOpen = true) : exec (.lostreplyRead e) s =
    .next (({ s with hp := { s.hp with lostReply := cleared 32 e } } : State).answer 4 s.hp.lostReply.toNat) :=
  congrArg Host.Outcome.next (State.viaIo_open s _ h)

theorem exec_acceptsRead {s : State} (q : Idx64) (e : Bool) (h : s.ioOpen = true) : exec (.acceptsRead q e) s =
    .next ((s.setQueue q.val { s.queue q.val with accepts := cleared 32 e }).answer 4 (s.queue q.val).accepts.toNat) :=
  congrArg Host.Outcome.next (State.viaIo_open s _ h)

theorem exec_mbBankRead {s : State} (e : Bool) (h : s.ioOpen = true) : exec (.mbBankRead e) s =
    .next (({ s with mb := { s.mb with dbStray := cleared 16 e } } : State).answer 4 s.mbBank) :=
  congrArg Host.Outcome.next (State.viaIo_open s _ h)

/-- The four clearing reads of BAR0 do nothing over an insecure stream (R295). -/
theorem exec_clearingReads_insecure {s : State} (e : Bool) (q : Idx64) (h : s.ioOpen = false) :
    exec (.notownerRead e) s = .next s ∧ exec (.lostreplyRead e) s = .next s ∧
      exec (.acceptsRead q e) s = .next s ∧ exec (.mbBankRead e) s = .next s :=
  have closed (k : State → State) : Host.Outcome.next (s.viaIo k) = (.next s : Host.Outcome State Fault Refusal) :=
    congrArg Host.Outcome.next (State.viaIo_insecure s k h)
  ⟨closed _, closed _, closed _, closed _⟩

theorem State.mbBank_lt (s : State) : s.mbBank < 2 ^ 32 := pack_lt _ 32 (by simp)

/-- DBSTRAY is the upper half of MB_BANK (Table 11-3). -/
theorem State.mbBank_dbStray (s : State) : s.mbBank / 65536 = s.mb.dbStray.toNat := by
  have hlow := pack_cons_div 16 16 s.mb.dbStray.toNat _ (pack_lt [(8, 4, four (fun i => (s.c2h i).full)),
    (4, 4, four (fun i => (s.h2c i).emptied)), (0, 4, four (fun i => (s.h2c i).full))] 16 (by simp))
  exact hlow.trans (Nat.mod_eq_of_lt s.mb.dbStray.isLt)

/-- The flags of MB_BANK (Table 11-3). -/
theorem State.mbBank_flags (s : State) (i : Fin 4) : s.mbBank.testBit i = (s.h2c i).full ∧
    s.mbBank.testBit (4 + i) = (s.h2c i).emptied ∧ s.mbBank.testBit (8 + i) = (s.c2h i).full := by
  have hi := i.isLt
  unfold State.mbBank four
  simp only [testBit_pack, testBit_bitMask, List.any_cons, List.any_nil]
  refine ⟨?_, ?_, ?_⟩
  · simp [hi, show ¬ 16 ≤ i.val by omega, show ¬ 8 ≤ i.val by omega, show ¬ 4 ≤ i.val by omega]
  · simp [hi, show ¬ 16 ≤ 4 + i.val by omega, show ¬ 8 ≤ 4 + i.val by omega, show 4 + i.val < 8 by omega, show ¬ 4 + i.val < 4 by omega]
  · simp [hi, show ¬ 16 ≤ 8 + i.val by omega, show 8 + i.val < 12 by omega, show ¬ 8 + i.val < 8 by omega,
      show ¬ 8 + i.val < 4 by omega]

theorem State.modstat_lt (s : State) (tcool : Nat) : s.modstat tcool < 2 ^ 32 := pack_lt _ 32 (by simp)

/-- UVCOUNT is the upper half of MODSTAT (Table 18-7). -/
theorem State.modstat_uvCount (s : State) (tcool : Nat) : s.modstat tcool / 65536 = s.brd.uvCount.toNat := by
  have hlow := pack_cons_div 16 16 s.brd.uvCount.toNat _ (pack_lt [(8, 8, tcool), (6, 1, b1 s.boot.halted), (5, 1, b1 s.boot.ready),
    (3, 1, b1 s.brd.cxlRefOk), (2, 1, b1 s.brd.abrefOk), (1, 1, b1 s.brd.trip), (0, 1, b1 s.brd.pg)] 16 (by simp))
  exact hlow.trans (Nat.mod_eq_of_lt s.brd.uvCount.isLt)

/-- The flags of MODSTAT (Table 18-7). -/
theorem State.modstat_flags (s : State) (tcool : Nat) :
    (s.modstat tcool).testBit 0 = s.brd.pg ∧ (s.modstat tcool).testBit 1 = s.brd.trip ∧ (s.modstat tcool).testBit 2 = s.brd.abrefOk ∧
      (s.modstat tcool).testBit 3 = s.brd.cxlRefOk ∧ (s.modstat tcool).testBit 5 = s.boot.ready ∧
      (s.modstat tcool).testBit 6 = s.boot.halted := by
  unfold State.modstat
  simp only [testBit_pack]
  simp

/-- The management die answers while its controller runs, or on its hold-up (R471, R482). -/
theorem State.mgmtAnswers_iff (s : State) :
    s.mgmtAnswers = true ↔ s.brd.mgmtRun = true ∨ ∃ f, s.brd.fellAt = some f ∧ s.clk.ticks < f + 5000000 := by
  unfold State.mgmtAnswers
  cases s.brd.fellAt <;> simp

theorem State.mgmtAnswers_eq_false {s : State} (hrun : s.brd.mgmtRun = false)
    (hfell : ∀ f, s.brd.fellAt = some f → f + 5000000 ≤ s.clk.ticks) : s.mgmtAnswers = false := by
  rw [← Bool.not_eq_true, State.mgmtAnswers_iff, hrun]
  rintro (h | ⟨f, hf, hlt⟩)
  · cases h
  · have := hfell f hf
    omega

theorem exec_modstatRead_answers {s : State} (e : Bool) (h : s.mgmtAnswers = true) : exec (.modstatRead e) s =
    .next (({ s with freeCtr := s.freeCtr + 1, brd := { s.brd with uvCount := cleared 16 e } } : State).answer 4
      (s.modstat (Config.free s.freeCtr 20 0 % 256))) := by
  change execModstatRead s e = _
  simp [execModstatRead, h, State.fresh, State.modstat]

theorem exec_mctpSensorRead_answers {s : State} (h : s.mgmtAnswers = true) : exec .mctpSensorRead s =
    .next (({ s with freeCtr := s.freeCtr + 1 } : State).answer 73 (Config.free s.freeCtr 20 1)) := by
  change execMctpSensorRead s = _
  simp [execMctpSensorRead, h, State.fresh]

theorem exec_boardReads_unanswered {s : State} (e : Bool) (h : s.mgmtAnswers = false) :
    exec (.modstatRead e) s = .next s ∧ exec .mctpSensorRead s = .next s := by
  change execModstatRead s e = _ ∧ execMctpSensorRead s = _
  simp [execModstatRead, execMctpSensorRead, h]

/-- Settles O7: each read answers what the counter or the flags read before it, and writes one counter. -/
theorem clearingReads : Obligations.ClearingReads := by
  unfold Obligations.ClearingReads
  refine ⟨fun e q s h => exec_clearingReads_insecure e q h, ?notOwner, ?lostReply, ?accepts, ?bank, ?board, ?silent⟩
  case notOwner =>
    intro e s h
    exact ⟨_, exec_notownerRead e h, bytesLE_length _ _, natLE_bytesLE_word _, rfl,
      ((keepsBut_hp s _).trans (keepsBut_answer _ _ _)).mono (by simp)⟩
  case lostReply =>
    intro e s h
    exact ⟨_, exec_lostreplyRead e h, bytesLE_length _ _, natLE_bytesLE_word _, rfl,
      ((keepsBut_hp s _).trans (keepsBut_answer _ _ _)).mono (by simp)⟩
  case accepts =>
    intro e q s h
    exact ⟨_, exec_acceptsRead q e h, bytesLE_length _ _, natLE_bytesLE_word _, State.queue_setQueue s q.val _,
      fun j hj => State.queue_setQueue_other s q.val j _ hj, rfl,
      ((keepsBut_setQueue s q.val _).trans (keepsBut_answer _ _ _)).mono (by simp)⟩
  case bank =>
    intro e s h
    have hbytes : natLE (bytesLE 4 s.mbBank) = s.mbBank := natLE_bytesLE_of_lt s.mbBank_lt
    refine ⟨_, exec_mbBankRead e h, bytesLE_length _ _, ?_, ?_, rfl,
      ((keepsBut_mb s _).trans (keepsBut_answer _ _ _)).mono (by simp)⟩
    · rw [State.answer_resp, hbytes, s.mbBank_dbStray]
    · rw [State.answer_resp, hbytes]
      exact s.mbBank_flags
  case board =>
    intro e s hup
    have h := s.mgmtAnswers_iff.mpr hup
    refine ⟨⟨_, exec_modstatRead_answers e h, bytesLE_length _ _, ?_, rfl, ?_⟩, ⟨_, exec_mctpSensorRead_answers h, bytesLE_length _ _, ?_⟩⟩
    · rw [State.answer_resp, natLE_bytesLE_of_lt (s.modstat_lt _)]
      obtain ⟨hpg, htrip, habref, hcxlref, hready, hhalted⟩ := s.modstat_flags (Config.free s.freeCtr 20 0 % 256)
      exact ⟨hpg, htrip, habref, hcxlref, hready, hhalted, s.modstat_uvCount _⟩
    · have hfresh := keepsBut_freeCtr s (s.freeCtr + 1)
      exact ((hfresh.trans (keepsBut_brd _ _)).trans (keepsBut_answer _ _ _)).mono (by simp)
    · exact ((keepsBut_freeCtr s _).trans (keepsBut_answer _ _ _)).mono (by simp)
  case silent =>
    intro e s hrun hfell
    exact exec_boardReads_unanswered e (State.mgmtAnswers_eq_false hrun hfell)

/-! ## Register accesses (R8, R10, R299 to R301) -/

theorem exec_registerWrite (space : RegSpace) (off len : Nat) (v : Option U64) (e : U64) (s : State) :
    exec (.registerWrite space off len v e) s = execRegisterWrite space off len v s e := rfl

/-- A write that is not of an aligned word or double word writes nothing (R300). -/
theorem State.writeRegs_unaligned (s : State) (space : RegSpace) (off len : Nat) (v : U64) (sets : Nat)
    (h : ¬((len = 4 ∨ len = 8) ∧ off % len = 0)) : s.writeRegs space off len v sets = s := by
  unfold State.writeRegs
  rw [if_pos]
  rw [Classical.not_and_iff_not_or_not, not_or] at h
  simpa only [Bool.or_eq_true, Bool.not_eq_true', Bool.or_eq_false_iff, decide_eq_false_iff_not, bne_iff_ne] using h

/-- Every access to BAR0 is refused over an insecure stream (R295). -/
theorem exec_registerWrite_insecure {s : State} (off len : Nat) (v : Option U64) (e : U64) (h : s.ioOpen = false) :
    exec (.registerWrite .bar0 off len v e) s = .next s := by
  simp [exec_registerWrite, execRegisterWrite, h]

theorem exec_registerWrite_write {s : State} (off len : Nat) (v e : U64) (h : s.ioOpen = true) :
    exec (.registerWrite .bar0 off len (some v) e) s = .next (s.writeRegs .bar0 off len v e.toNat) := by
  simp [exec_registerWrite, execRegisterWrite, h]

theorem exec_registerWrite_read {s : State} (off len : Nat) (e : U64) (h : s.ioOpen = true) :
    exec (.registerWrite .bar0 off len none e) s = .next (s.readRegs .bar0 off len e.toNat) := by
  simp [exec_registerWrite, execRegisterWrite, h]

/-- The state after a write that the owner alone may make was counted in NOTOWNER (R299). -/
def State.countNotOwner (s : State) : State := { s with hp := { s.hp with notOwner := satAdd s.hp.notOwner 1 } }

/-- A word write that ownership does not stop: of the owner, or to a register of any host (R299). -/
theorem State.writeRegs_word {s : State} {off : Nat} (v : U64) (sets : Nat) (hoff : off % 4 = 0)
    (hmay : ownerOnly off = false ∨ s.ck.owner = .host) :
    s.writeRegs .bar0 off 4 v sets = s.writeBar0 off (BitVec.ofNat 32 v.toNat) (sets % 2 ^ 32) := by
  rcases hmay with h | h <;> simp [State.writeRegs, State.writeWord, hoff, h]

/-- A word write that ownership stops is counted and does nothing else (R299). -/
theorem State.writeRegs_word_discarded {s : State} {off : Nat} (v : U64) (sets : Nat) (hoff : off % 4 = 0)
    (honly : ownerOnly off = true) (hown : s.ck.owner ≠ .host) :
    s.writeRegs .bar0 off 4 v sets = s.countNotOwner := by
  simp [State.writeRegs, State.countNotOwner, hoff, honly, hown]

/-- A double-word write of which ownership stops the upper word alone (R299). -/
theorem State.writeRegs_upper_discarded {s : State} {off : Nat} (v : U64) (sets : Nat) (hoff : off % 8 = 0)
    (hlow : ownerOnly off = false) (honly : ownerOnly (off + 4) = true) (hown : s.ck.owner ≠ .host) :
    s.writeRegs .bar0 off 8 v sets = s.countNotOwner.writeBar0 off (BitVec.ofNat 32 v.toNat) (sets % 2 ^ 32) := by
  simp [State.writeRegs, State.writeWord, State.countNotOwner, hoff, hlow, honly, hown]

theorem ownerOnly_iff (off : Nat) : ownerOnly off = true ↔
    off = 0x104 ∨ (0x4000 ≤ off ∧ off < 0x4200) ∨ (0x5000 ≤ off ∧ off < 0x5200) := by
  simp [ownerOnly, or_assoc]

/-! ### The registers written -/

/-- INT_CAUSE after a write of it (R10, R301). -/
def causeAfter (c : BitVec 6) (v : U32) (sets : Nat) : BitVec 6 := c &&& (~~~(BitVec.ofNat 6 v.toNat) ||| BitVec.ofNat 6 sets)

theorem State.writeBar0_cause (s : State) (v : U32) (sets : Nat) :
    s.writeBar0 0x100 v sets = { s with hp := { s.hp with cause := causeAfter s.hp.cause v sets } } := by
  simp [State.writeBar0, causeAfter]

theorem State.writeBar0_mask (s : State) (v : U32) (sets : Nat) :
    s.writeBar0 0x104 v sets = { s with hp := { s.hp with mask := BitVec.ofNat 6 v.toNat } } := by
  simp [State.writeBar0]

theorem State.writeBar0_portSel (s : State) (v : U32) (sets : Nat) :
    s.writeBar0 0x5008 v sets = { s with ab := { s.ab with portSel := BitVec.ofNat 6 v.toNat } } := by
  simp [State.writeBar0, State.writeAbondReg]

theorem State.writeBar0_rtIndex (s : State) (v : U32) (sets : Nat) :
    s.writeBar0 0x500C v sets = { s with ab := { s.ab with rtIndex := BitVec.ofNat 16 v.toNat } } := by
  simp [State.writeBar0, State.writeAbondReg]

theorem State.writeBar0_ostSel (s : State) (v : U32) (sets : Nat) :
    s.writeBar0 0x4000 v sets = { s with ostSel := BitVec.ofNat 10 v.toNat } := by
  simp [State.writeBar0, State.writeOstlerReg]

/-- A field of the low word of a value, as a register of at most 32 bits takes it. -/
theorem ofNat_lowWord {w : Nat} (hw : w ≤ 32) (v : U64) :
    BitVec.ofNat w (BitVec.ofNat 32 v.toNat).toNat = BitVec.setWidth w v := by
  have hdvd : 2 ^ w ∣ 2 ^ 32 := Nat.pow_dvd_pow 2 hw
  apply BitVec.eq_of_toNat_eq
  rw [BitVec.toNat_ofNat, BitVec.toNat_ofNat, Nat.mod_mod_of_dvd _ hdvd, BitVec.toNat_setWidth]

/-- A cause stays unless it is written as 1 and hardware does not set it on the same edge (R10). -/
theorem getLsbD_causeAfter (c : BitVec 6) (v e : U64) (k : Fin 6) :
    (causeAfter c (BitVec.ofNat 32 v.toNat) (e.toNat % 2 ^ 32)).getLsbD k = (c.getLsbD k && (!v.getLsbD k || e.getLsbD k)) := by
  have hk := k.isLt
  have hset : BitVec.ofNat 6 (e.toNat % 2 ^ 32) = BitVec.setWidth 6 e := by
    rw [← ofNat_lowWord (by omega) e, BitVec.toNat_ofNat]
  rw [causeAfter, ofNat_lowWord (by omega), hset]
  simp [hk]

/-- A word write to INT_CAUSE clears causes and does nothing else (R301). -/
theorem exec_writeCause {s : State} (v e : U64) (h : s.ioOpen = true) : exec (.registerWrite .bar0 0x100 4 (some v) e) s =
    .next { s with hp := { s.hp with cause := causeAfter s.hp.cause (BitVec.ofNat 32 v.toNat) (e.toNat % 2 ^ 32) } } := by
  rw [exec_registerWrite_write 0x100 4 v e h, State.writeRegs_word v _ (by decide) (.inl (by decide)), State.writeBar0_cause]

/-- A double-word write to INT_CAUSE and INT_MASK by another than the owner clears causes, and counts for the mask (R299). -/
theorem exec_writeCauseMask_notOwner {s : State} (v e : U64) (h : s.ioOpen = true) (hown : s.ck.owner ≠ .host) :
    exec (.registerWrite .bar0 0x100 8 (some v) e) s =
      .next { s with hp := { s.hp with cause := causeAfter s.hp.cause (BitVec.ofNat 32 v.toNat) (e.toNat % 2 ^ 32), notOwner := satAdd s.hp.notOwner 1 } } := by
  rw [exec_registerWrite_write 0x100 8 v e h, State.writeRegs_upper_discarded v _ (by decide) (by decide) (by decide) hown,
    State.writeBar0_cause]
  rfl

/-! ### The registers read -/

/-- A word read answers the value of the register, in the state that reading it leaves. -/
theorem State.readRegs_word {s t : State} {off v : Nat} (sets : Nat) (hoff : off % 4 = 0)
    (h : s.readBar0 off (sets % 2 ^ 32 != 0) = (v, t)) : s.readRegs .bar0 off 4 sets = t.answer 4 v := by
  simp only [State.readRegs, State.readWord, hoff, h]
  simp

theorem State.readBar0_id (s : State) {off : Nat} (event : Bool) (h : off < 0x100) : s.readBar0 off event = (s.idReg off, s) := by
  simp [State.readBar0, h]
theorem State.readBar0_cause (s : State) (event : Bool) : s.readBar0 0x100 event = (s.hp.cause.toNat, s) := by
  simp [State.readBar0]
theorem State.readBar0_mask (s : State) (event : Bool) : s.readBar0 0x104 event = (s.hp.mask.toNat, s) := by
  simp [State.readBar0]
/-- H2C_DATA is write-only and reads as zero (R8). -/
theorem State.readBar0_h2cData (s : State) (event : Bool) : s.readBar0 0x1000 event = (0, s) := by
  simp [State.readBar0]

theorem State.idReg_part (s : State) : s.idReg 0 = 0x0804A100 := rfl
theorem State.idReg_ver (s : State) : s.idReg 4 = 0x03010200 := rfl

theorem State.idReg_state_lt (s : State) : s.idReg 0x18 < 2 ^ 32 := pack_lt _ 32 (by simp)

/-- The link mode in ID_STATE (Table 10-7). -/
theorem State.idReg_state_mode (s : State) {k : Nat} (hlo : 20 ≤ k) (hhi : k < 24) :
    (s.idReg 0x18).testBit k = s.hp.mode.testBit (k - 20) := by
  simp [State.idReg, testBit_pack, hlo, hhi, show ¬ 24 ≤ k by omega, show ¬ k < 20 by omega, show ¬ k < 15 by omega,
    show ¬ k < 13 by omega]

/-- READY in ID_STATE (Table 10-7). -/
theorem State.idReg_state_ready (s : State) : (s.idReg 0x18).testBit 12 = s.boot.ready := by
  simp [State.idReg, testBit_pack]

/-- A word read of a register that only answers: its value is what the bytes spell, and no part but the reply changes. -/
theorem exec_registerWrite_answers {s : State} {off v : Nat} (e : U64) (h : s.ioOpen = true) (hoff : off % 4 = 0)
    (hread : ∀ event, s.readBar0 off event = (v, s)) (hv : v < 2 ^ 32) :
    ∃ t, exec (.registerWrite .bar0 off 4 none e) s = .next t ∧ t.resp.length = 4 ∧ keepsBut [.reply] s t ∧ natLE t.resp = v :=
  ⟨s.answer 4 v, by rw [exec_registerWrite_read off 4 e h, State.readRegs_word _ hoff (hread _)], bytesLE_length _ _,
    keepsBut_answer s 4 v, natLE_bytesLE_of_lt hv⟩

/-- Settles O11: a word write that ownership stops is the count in NOTOWNER, any other is one register's own write, and a read
of the registers named answers and changes nothing else. -/
theorem registerWrites : Obligations.RegisterWrites := by
  unfold Obligations.RegisterWrites
  refine ⟨?unaligned, fun s off len v e h => exec_registerWrite_insecure off len v e h, ?discarded, ?cause, ?both, ?owner, ?read⟩
  case unaligned =>
    intro s sp off len v e h
    simp [exec_registerWrite, execRegisterWrite, State.writeRegs_unaligned s sp off len v _ h]
  case discarded =>
    intro s off v e h hown hoff hwin
    rw [exec_registerWrite_write off 4 v e h, State.writeRegs_word_discarded v _ hoff ((ownerOnly_iff off).mpr hwin) hown]
    rfl
  case cause =>
    intro s v e h
    exact ⟨_, exec_writeCause v e h, getLsbD_causeAfter s.hp.cause v e, rfl, keepsBut_hp s _⟩
  case both =>
    intro s v e h hown
    exact ⟨_, exec_writeCauseMask_notOwner v e h hown, getLsbD_causeAfter s.hp.cause v e, rfl, keepsBut_hp s _⟩
  case owner =>
    intro s v e h hown
    have word (off : Nat) (hoff : off % 4 = 0) : exec (.registerWrite .bar0 off 4 (some v) e) s =
        .next (s.writeBar0 off (BitVec.ofNat 32 v.toNat) (e.toNat % 2 ^ 32)) := by
      rw [exec_registerWrite_write off 4 v e h, State.writeRegs_word v _ hoff (.inr hown)]
    refine ⟨?_, ?_, ?_, ?_⟩
    · rw [word 0x104 (by decide), State.writeBar0_mask, ofNat_lowWord (by decide)]
    · rw [word 0x5008 (by decide), State.writeBar0_portSel, ofNat_lowWord (by decide)]
    · rw [word 0x500C (by decide), State.writeBar0_rtIndex, ofNat_lowWord (by decide)]
    · rw [word 0x4000 (by decide), State.writeBar0_ostSel, ofNat_lowWord (by decide)]
  case read =>
    intro s off e h hmem
    have answers {v : Nat} (hoff : off % 4 = 0) (hread : ∀ event, s.readBar0 off event = (v, s)) (hv : v < 2 ^ 32) :=
      exec_registerWrite_answers e h hoff hread hv
    simp only [List.mem_cons, List.not_mem_nil, or_false] at hmem
    rcases hmem with rfl | rfl | rfl | rfl | rfl | rfl
    · obtain ⟨t, hex, hlen, hkeep, hv⟩ := answers (by decide) (fun b => s.readBar0_id b (by decide)) (by rw [s.idReg_part]; decide)
      exact ⟨t, hex, hlen, hkeep, by simp [hv, s.idReg_part]⟩
    · obtain ⟨t, hex, hlen, hkeep, hv⟩ := answers (by decide) (fun b => s.readBar0_id b (by decide)) (by rw [s.idReg_ver]; decide)
      exact ⟨t, hex, hlen, hkeep, by simp [hv, s.idReg_ver]⟩
    · obtain ⟨t, hex, hlen, hkeep, hv⟩ := answers (by decide) (fun b => s.readBar0_id b (by decide)) s.idReg_state_lt
      refine ⟨t, hex, hlen, hkeep, by simp, by simp, fun _ k hlo hhi => ?_, fun _ => ?_, by simp⟩
      · rw [hv, s.idReg_state_mode hlo hhi]
      · rw [hv, s.idReg_state_ready]
    · obtain ⟨t, hex, hlen, hkeep, hv⟩ := answers (by decide) s.readBar0_cause (by omega)
      exact ⟨t, hex, hlen, hkeep, by simp [hv]⟩
    · obtain ⟨t, hex, hlen, hkeep, hv⟩ := answers (by decide) s.readBar0_mask (by omega)
      exact ⟨t, hex, hlen, hkeep, by simp [hv]⟩
    · obtain ⟨t, hex, hlen, hkeep, hv⟩ := answers (by decide) s.readBar0_h2cData (by decide)
      exact ⟨t, hex, hlen, hkeep, by simp [hv]⟩

end Sys2Proof.Machine

/-! SUPPORT. A command's counts and writes: their frames, and the words that a matrix of sums stores. -/

namespace Sys2Proof.Machine

/-! ## Frames of a command's counts and writes -/

theorem keepsBut.refl (ps : List Part) (s : State) : keepsBut ps s s := by
  intro p _
  cases p <;> simp [Part.same]

theorem keepsBut_setBay (s : State) (b : Nat) (v : Bay) : keepsBut [.bays] s (s.setBay b v) := by
  intro p hp
  cases p <;> simp_all [Part.same, State.byte]

theorem keepsBut_onCmd (s : State) (c : CmdNo) (f : Cmd → Cmd) : keepsBut [.clerk] s (s.onCmd c f) := by
  intro p hp
  cases p <;> simp_all [Part.same, State.byte]

theorem keepsBut_store (s : State) (a : Nat) (bs : List Byte) : keepsBut [.memory, .poison] s (s.store a bs) := by
  intro p hp
  cases p <;> simp_all [Part.same, State.store]

theorem keepsBut_put (s : State) (c : CmdNo) (a : Nat) (bs : List Byte) :
    keepsBut [.memory, .poison, .clerk] s (s.put c a bs) :=
  (keepsBut_store s a bs).trans (keepsBut_onCmd _ _ _)

theorem keepsBut_doneCmd (s : State) (c : CmdNo) : keepsBut [.clerk] s (s.doneCmd c) := keepsBut_onCmd s c _

/-- Counting events changes the counters of bays, and takes free shares (log 22). -/
theorem keepsBut_countOver (s : State) (n : Cnt) (bs : List Nat) : keepsBut [.bays, .free] s (s.countOver n bs) := by
  induction bs generalizing s n with
  | nil => exact keepsBut.refl _ s
  | cons b bs ih =>
    cases bs with
    | nil => exact (keepsBut_setBay s b _).mono (by simp)
    | cons b' bs =>
      exact (((keepsBut_setBay s b _).trans (keepsBut_freeCtr _ _)).trans (ih _ _)).mono (by simp)

@[simp] theorem State.cmd_countOver (s : State) (n : Cnt) (bs : List Nat) (c : CmdNo) : (s.countOver n bs).cmd c = s.cmd c := by
  have hck : (s.countOver n bs).ck = s.ck := keepsBut_countOver s n bs .clerk (by simp)
  rw [State.cmd, hck, State.cmd]

@[simp] theorem State.byte_countOver (s : State) (n : Cnt) (bs : List Nat) (a : Nat) : (s.countOver n bs).byte a = s.byte a :=
  keepsBut_countOver s n bs .memory (by simp) a

/-- A command's write is noted in its entry (R289). -/
theorem State.cmd_put {s : State} {c : CmdNo} {x : Cmd} (h : s.cmd c = some x) (a : Nat) (bs : List Byte) :
    (s.put c a bs).cmd c = some { x with wrote := x.wrote ++ [⟨a, bs.length, true⟩] } := by
  have hno := (s.store a bs).cmd_onCmd c (fun x => { x with wrote := x.wrote ++ [⟨a, bs.length, true⟩] }) (fun _ => rfl)
  have hstore : (s.store a bs).cmd c = some x := h
  exact hno.trans (congrArg _ hstore)

/-- In memory a command's write is the store, and its end nothing. -/
theorem State.byte_put_doneCmd (s : State) (c d : CmdNo) (a : Nat) (bs : List Byte) (m : Nat) :
    ((s.put c a bs).doneCmd d).byte m = (s.store a bs).byte m := rfl

/-! ## Words stored line by line (R5) -/

/-- Where all lines are of one length, position `j` of line `i` comes at `i * w + j` of the lines put end to end. -/
theorem getElem?_flatten_of_length {α : Type} {w : Nat} {rows : List (List α)} (hw : ∀ r ∈ rows, r.length = w)
    {i j : Nat} {r : List α} {v : α} (hi : rows[i]? = some r) (hj : r[j]? = some v) : rows.flatten[i * w + j]? = some v := by
  induction rows generalizing i with
  | nil => simp at hi
  | cons r' rows ih =>
    have hlen : r'.length = w := hw r' (by simp)
    cases i with
    | zero =>
      obtain rfl : r' = r := by simpa using hi
      have hlt : j < r'.length := (List.getElem?_eq_some_iff.mp hj).1
      simpa [List.getElem?_append_left hlt] using hj
    | succ i =>
      have hrest := ih (fun r hr => hw r (List.mem_cons_of_mem _ hr)) (by simpa using hi)
      have hidx : (i + 1) * w + j = r'.length + (i * w + j) := by rw [hlen, Nat.succ_mul]; omega
      rw [List.flatten_cons, hidx, List.getElem?_append_right (by omega), Nat.add_sub_cancel_left]
      exact hrest

theorem State.readBytes_congr {s t : State} (h : ∀ a, t.byte a = s.byte a) (a n : Nat) : t.readBytes a n = s.readBytes a n := by
  induction n generalizing a with
  | zero => rfl
  | succ n ih => rw [State.readBytes, State.readBytes, h a, ih]

theorem State.readNat_congr {s t : State} (h : ∀ a, t.byte a = s.byte a) (a n : Nat) : t.readNat a n = s.readNat a n :=
  congrArg natLE (State.readBytes_congr h a n)

/-- A byte string of which every byte stands in memory is what its span reads as. -/
theorem State.readBytes_eq {s : State} {a : Nat} {bs : List Byte} (h : ∀ k b, bs[k]? = some b → s.byte (a + k) = b) :
    s.readBytes a bs.length = bs := by
  induction bs generalizing a with
  | nil => rfl
  | cons b bs ih =>
    have hrest : s.readBytes (a + 1) bs.length = bs := ih (fun k b' hk => by
      rw [Nat.add_assoc, Nat.add_comm 1]
      exact h (k + 1) b' hk)
    rw [List.length_cons, State.readBytes, hrest, show s.byte a = b from h 0 b rfl]

theorem State.byte_store_inside {s : State} {a k : Nat} {bs : List Byte} {b : Byte} (h : bs[k]? = some b) :
    (s.store a bs).byte (a + k) = b := by
  have hlt : k < bs.length := (List.getElem?_eq_some_iff.mp h).1
  rw [State.byte_store, if_pos (by omega), Nat.add_sub_cancel_left, List.getD_eq_getElem?_getD, h, Option.getD_some]

/-- The little-endian bytes of `n`-byte words, line by line. -/
def wordBytes {α : Type} (n : Nat) (f : α → Nat) (rows : List (List α)) : List Byte := rows.flatten.flatMap (fun v => bytesLE n (f v))

theorem wordBytes_length {α : Type} {n w : Nat} {f : α → Nat} {rows : List (List α)} (hw : ∀ r ∈ rows, r.length = w) :
    (wordBytes n f rows).length = n * (rows.length * w) := by
  have hlens : rows.map List.length = List.replicate rows.length w := List.eq_replicate_iff.mpr (by simpa using hw)
  have hcount : rows.flatten.length = rows.length * w := by simp [hlens]
  rw [wordBytes, List.length_flatMap]
  simp only [bytesLE_length, List.map_const', List.sum_replicate_nat, hcount]
  rw [Nat.mul_comm]

/-- The word at position `j` of line `i` is read back. -/
theorem State.readNat_store_wordBytes {α : Type} (s : State) (a : Nat) {n w : Nat} {f : α → Nat} {rows : List (List α)}
    (hw : ∀ r ∈ rows, r.length = w) {i j : Nat} {r : List α} {v : α} (hi : rows[i]? = some r) (hj : r[j]? = some v) :
    (s.store a (wordBytes n f rows)).readNat (a + n * (i * w + j)) n = f v % 256 ^ n := by
  have hword : (rows.flatten.map (fun v => bytesLE n (f v)))[i * w + j]? = some (bytesLE n (f v)) := by
    rw [List.getElem?_map, getElem?_flatten_of_length hw hi hj, Option.map_some]
  have hbytes : ∀ bs ∈ rows.flatten.map (fun v => bytesLE n (f v)), bs.length = n := by
    intro bs hbs
    obtain ⟨v, -, rfl⟩ := List.mem_map.mp hbs
    exact bytesLE_length n _
  have hbyte (k : Nat) (b : Byte) (hb : (bytesLE n (f v))[k]? = some b) :
      (s.store a (wordBytes n f rows)).byte (a + n * (i * w + j) + k) = b := by
    rw [Nat.add_assoc, Nat.mul_comm]
    refine State.byte_store_inside ?_
    rw [wordBytes, List.flatMap_def]
    exact getElem?_flatten_of_length hbytes hword hb
  have hread := State.readBytes_eq hbyte
  rw [bytesLE_length] at hread
  rw [State.readNat, hread, natLE_bytesLE]

/-! ## INT32-accumulate products (R43, R88) -/

/-- A two's-complement reading differs from the number by a multiple of `2 ^ w`. -/
theorem sgn_emod (w v : Nat) : sgn w v % 2 ^ w = (v : Int) % 2 ^ w := by
  unfold sgn
  split <;> simp

/-- The sum that INT32 arithmetic leaves is the exact sum modulo 2^32 (R43). -/
theorem intDot_emod (a b : List Int) : (intDot a b).1 % 2 ^ 32 = (List.zipWith (· * ·) a b).sum % 2 ^ 32 := by
  have hnonneg : 0 ≤ (List.zipWith (· * ·) a b).sum % 2 ^ 32 := Int.emod_nonneg _ (by decide)
  rw [intDot, ← List.sum_eq_foldl]
  change sgn 32 ((List.zipWith (· * ·) a b).sum % 2 ^ 32).toNat % 2 ^ 32 = _
  rw [sgn_emod, Int.toNat_of_nonneg hnonneg, Int.emod_emod]

/-- The sums of an INT32-accumulate product, line by line, with their wraps. -/
def State.intSums (s : State) (x : Cmd) (xd wd : Desc) : List (List (Int × Nat)) :=
  (s.intLines xd (x.p 28 4)).map (fun a => (s.intLines wd (x.p 32 4)).map (fun b => intDot a b))

/-- The word that an INT32 sum is stored as. -/
def sumWord (p : Int × Nat) : Nat := (p.1 % 4294967296).toNat

theorem sumWord_intDot (a b : List Int) :
    ((sumWord (intDot a b) % 256 ^ 4 : Nat) : Int) = (List.zipWith (· * ·) a b).sum % 2 ^ 32 := by
  have hnonneg : 0 ≤ (intDot a b).1 % 2 ^ 32 := Int.emod_nonneg _ (by decide)
  have hword : (sumWord (intDot a b) : Int) = (intDot a b).1 % 2 ^ 32 := Int.toNat_of_nonneg hnonneg
  rw [Int.natCast_emod, hword, ← intDot_emod]
  exact Int.emod_emod _ _

theorem State.intSums_row_length {s : State} {x : Cmd} {xd wd : Desc} :
    ∀ r ∈ s.intSums x xd wd, r.length = (s.intLines wd (x.p 32 4)).length := by
  simp [State.intSums]

/-- With an INT32 output the product is the count of the wraps, and a write of the sums. -/
theorem State.intProduct_int32 (s : State) (x : Cmd) (xd wd : Desc) {yd : Desc} (h : yd.ftag = 9) :
    ∃ n, s.intProduct x xd wd yd =
      (s.countOver n (maskBits x.bays.toNat 64)).put x.no yd.daddr (wordBytes 4 sumWord (s.intSums x xd wd)) :=
  ⟨_, if_pos h⟩

theorem State.running_of_begins {s : State} {c : CmdNo} {op : Nat} {x : Cmd} (h : s.begins c op = some x) :
    s.running c op = some x := by
  unfold State.begins at h
  split at h
  · simp_all
  · cases h

theorem State.begins_of_reading {s : State} {c : CmdNo} {op : Nat} {x : Cmd} (h : s.reading c op = some x) :
    s.begins c op = some x := by
  unfold State.reading at h
  split at h
  · split at h
    · cases h
    · exact ‹s.begins c op = _›.trans h
  · cases h

/-- A MATMUL_FWD in INT32-accumulate mode without WLAYER and SAVE (Table 12-17). -/
theorem exec_matmulFwd_int {s : State} {c : CmdNo} {x : Cmd} {st : Stall} (h : s.reading c 0x0301 = some x)
    (hst : s.stall x.stallNo = some st) (hint : (x.p 26 2).testBit 0 = true) (hsave : (x.p 26 2).testBit 2 = false)
    (hlayer : (x.p 26 2).testBit 3 = false) :
    exec (.matmulFwd c) s = .next ((s.intProduct x (x.desc 0) (x.desc 8) (x.desc 16)).doneCmd c) := by
  change execMatmulFwd c s = _
  simp [execMatmulFwd, h, hst, bit, hint, hsave, hlayer]

/-- Settles O54: the command counts the wraps, writes the words of its sums line by line, and ends. -/
theorem int32AccumulateSums : Obligations.Int32AccumulateSums := by
  unfold Obligations.Int32AccumulateSums
  intro s c x st hreading hst hint hsave hlayer htag xs ws y
  obtain ⟨hcmd, hrun, -⟩ := s.running_eq c 0x0301 x (State.running_of_begins (State.begins_of_reading hreading))
  obtain ⟨n, hproduct⟩ := s.intProduct_int32 x (x.desc 0) (x.desc 8) htag
  have hrows := s.intSums_row_length (x := x) (xd := x.desc 0) (wd := x.desc 8)
  have hexec := exec_matmulFwd_int hreading hst hint hsave hlayer
  rw [hproduct, s.cmd_no c x hcmd] at hexec
  refine ⟨_, _, hexec, State.cmd_doneCmd _ c _ (State.cmd_put ((State.cmd_countOver _ _ _ _).trans hcmd) _ _) (by simp [hrun]),
    rfl, rfl, ?sums, ?outside, ?frame⟩
  case sums =>
    intro i j a b ha hb
    have hi : (s.intSums x (x.desc 0) (x.desc 8))[i]? = some (ws.map (intDot a)) := by
      rw [State.intSums, List.getElem?_map, ha, Option.map_some]
    have hj : (ws.map (intDot a))[j]? = some (intDot a b) := by rw [List.getElem?_map, hb, Option.map_some]
    rw [← sumWord_intDot, State.readNat_congr (fun m => State.byte_put_doneCmd _ c c y _ m),
      State.readNat_store_wordBytes _ y hrows hi hj]
  case outside =>
    intro m hm
    have hlen : (wordBytes 4 sumWord (s.intSums x (x.desc 0) (x.desc 8))).length = 4 * (xs.length * ws.length) := by
      rw [wordBytes_length hrows, State.intSums, List.length_map]
    rw [State.byte_put_doneCmd, State.byte_store_outside _ y m _ (by rw [hlen]; exact hm), State.byte_countOver]
  case frame =>
    exact (((keepsBut_countOver _ _ _).trans (keepsBut_put _ _ _ _)).trans (keepsBut_doneCmd _ _)).mono (by simp)

end Sys2Proof.Machine

/-! SUPPORT. A SAVE of a saved tensor: its place in the spill window is that of the tensor as it is stored, whatever extents its
descriptor declares. -/

namespace Sys2Proof.Machine

/-! ## A command that saves a saved tensor again (R126 to R130, R345, log 24) -/

/-- A saved tensor of one line of 4,096 elements, kept in bay 0. -/
def longKept : Saved :=
  { layer := 0, idx := 0, lines := 1, len := 4096, kept := true, bays := 1, data := List.replicate 8192 0, addr := 0 }

/-- A stall with a spill window of one page. Its micro-batch keeps layer 0, which command 6 saved; command 7 saves it a second time,
and a further tensor of a layer that the choice already served is spilled (log 24). -/
def onePageStall : Stall :=
  { bays := 1, budget := 1, windows := [(0, { valid := true, spill := true, w := true, r := true, base := 1, limit := 2 })]
    live := [{ mb := 0, saved := [longKept], keep := some [0], saves := [(6, 0), (7, 0)] }] }

/-- MATMUL_FWD on the B-arrays with SAVE. XDESC names the kept tensor and declares one line of 32 elements; WDESC is a BF16 line of
4,096 elements, and YDESC one FP32 element. -/
def saveAgain : Cmd :=
  { no := 7, origin := .queue 0, hdr := { opcode := 0x0301, stall := 1 }, phase := .running, bays := 1
    params := bytesLE 48 (pack [(0, 48, 0x400), (64, 48, 0x440), (128, 48, 0x480), (208, 16, 6), (304, 16, 8)])
    descs := [(0, pack [(232, 24, 1), (208, 24, 31), (178, 1, 1)]),
      (8, pack [(464, 48, 0x2000), (232, 24, 1), (208, 24, 4095), (184, 4, 6)]),
      (16, pack [(464, 48, 0x4000), (232, 24, 1), (184, 4, 7)])] }

def saveAgainState : State := { State.reset with ck := { cmds := [saveAgain], stalls := [(1, some onePageStall)] } }

/-- The place in the stall's spill window for the E4M3 form of a descriptor's extents (R128). -/
def Stall.spillPlaceOf (st : Stall) (d : Desc) : Option Nat := st.spillPlace (partsAt 0 2 d.lines d.len false true false).endAt

/-- The command begins its work, and its dispatch finds nothing to refuse: it compares the extents of a saved tensor's form (R492,
`State.agree`), not those that the descriptor declares. -/
theorem saveAgain_dispatched : saveAgainState.reading 7 0x0301 = some saveAgain ∧ saveAgainState.dispatchCheck saveAgain = none := by
  decide +kernel

/-- The page holds the extents that the descriptor declares, and not the tensor that it names. -/
theorem onePageStall_spillPlaceOf : (onePageStall.spillPlaceOf (saveAgain.desc 0)).isSome = true ∧
    onePageStall.spillPlaceOf (saveAgainState.stored 1 (saveAgain.desc 0)) = none := by
  decide +kernel

/-- So the command ends with REFUSED_STATE. -/
theorem saveAgain_refused {t : State} (h : exec (.matmulFwd 7) saveAgainState = .next t) : (t.cmd 7).map (·.status) = some 0x13 := by
  obtain rfl := Host.Outcome.next.inj h
  decide +kernel

/-- A command that ends normally does not end with REFUSED_STATE (R321). -/
theorem Cmd.normalStatus_ne_refusedState (x : Cmd) : x.normalStatus ≠ 0x13 := by
  unfold Cmd.normalStatus
  repeat' split
  all_goals decide

/-- Refutes O53: the statement gives a MATMUL_FWD with SAVE its place in the spill window by the extents that XDESC declares. Where
XDESC names a saved tensor, the command saves the tensor as it is stored (R130), and dispatch compares the stored extents alone
(R492, `State.agree`). One page holds the 32 elements that XDESC of `saveAgain` declares and not the 4,096 of the tensor that it names: the command
ends with REFUSED_STATE, which no events give. -/
theorem not_computeCommandsComplete : ¬ Obligations.ComputeCommandsComplete := by
  unfold Obligations.ComputeCommandsComplete
  intro h
  obtain ⟨hreading, -⟩ := saveAgain_dispatched
  obtain ⟨hroom, -⟩ := onePageStall_spillPlaceOf
  obtain ⟨hfwd, -⟩ := h saveAgainState 7 saveAgain onePageStall rfl
  obtain ⟨hcompletes, -⟩ := hfwd hreading
  obtain ⟨t, hexec, z, -, hz, -, hstatus, -⟩ := hcompletes (fun _ => .inr hroom)
  have hrefused : z.status = 0x13 := by
    have hcmd : t.cmd 7 = some z := hz
    simpa [hcmd] using saveAgain_refused hexec
  exact z.normalStatus_ne_refusedState (hstatus.symm.trans hrefused)

end Sys2Proof.Machine

/-! SUPPORT. Saturating counts, signed words, tables mapped entry by entry, and the frames of one Ostler's change and of a record. -/

namespace Sys2Proof.Machine

/-! ## Counters, signed words and tables -/

/-- A saturating count stops at the counter's largest value (R7). -/
theorem satAdd_toNat {w : Nat} (c : BitVec w) (n : Nat) : (satAdd c n).toNat = min (c.toNat + n) (2 ^ w - 1) := by
  have hlt : min (c.toNat + n) (2 ^ w - 1) < 2 ^ w := by have := Nat.two_pow_pos w; omega
  rw [satAdd, BitVec.toNat_ofNat, Nat.mod_eq_of_lt hlt]

/-- The model's two's-complement reading of a word is the library's. -/
theorem sgn_toNat {w : Nat} (v : BitVec w) : sgn w v.toNat = v.toInt := by
  have hlt := v.isLt
  rw [sgn, BitVec.toInt_eq_toNat_cond, Nat.mod_eq_of_lt hlt]
  cases w with
  | zero => simp [Nat.lt_one_iff.mp hlt]
  | succ w =>
    have hhalf : 2 * v.toNat < 2 ^ (w + 1) ↔ v.toNat < 2 ^ w := by rw [Nat.pow_succ]; omega
    have hcast : ((2 ^ (w + 1) : Nat) : Int) = 2 ^ (w + 1) := by norm_cast
    simp only [Nat.add_sub_cancel, hhalf, hcast]

/-- A read of a table whose values were mapped. -/
theorem tget_map_values {α β : Type} {d : α} (f : α → β) (m : TMap α) (k : Nat) :
    tget (f d) (m.map (fun e => (e.1, f e.2))) k = f (tget d m k) := by
  induction m with
  | nil => rfl
  | cons e m ih =>
    rw [List.map_cons, tget, tget, ih, apply_ite f]

/-- A read at a key of a table mapped entry by entry, where keys stay and the entry of this key does. -/
theorem tget_map_of_fixed {α : Type} {d : α} {g : Nat × α → Nat × α} {k : Nat} (hkey : ∀ e, (g e).1 = e.1) (hfix : ∀ v, g (k, v) = (k, v))
    (m : TMap α) : tget d (m.map g) k = tget d m k := by
  induction m with
  | nil => rfl
  | cons e m ih =>
    obtain ⟨j, v⟩ := e
    by_cases hj : k = j
    · subst hj
      simp [tget, hfix]
    · have hentry : g (j, v) = (j, (g (j, v)).2) := Prod.ext (hkey _) rfl
      rw [List.map_cons, hentry]
      simp [tget, hj, ih]

theorem ceilDiv_mul_bounds (a : Nat) {b : Nat} (hb : 0 < b) : a ≤ ceilDiv a b * b ∧ ceilDiv a b * b < a + b := by
  have hdiv := Nat.div_add_mod (a + b - 1) b
  have hmod := Nat.mod_lt (a + b - 1) hb
  rw [ceilDiv, Nat.mul_comm]
  omega

/-! ## Frames -/

theorem keepsBut_setOstler (s : State) (o : Nat) (v : Ostler) : keepsBut [.ostlers] s (s.setOstler o v) := by
  intro p hp
  cases p <;> simp_all [Part.same, State.byte]

/-- A write of one Ostler leaves every other part, the select and every other Ostler alone. -/
theorem State.setOstler_frame (s : State) (o : Nat) (v : Ostler) : keepsBut [.ostlers] s (s.setOstler o v) ∧
    (s.setOstler o v).ostSel = s.ostSel ∧ ∀ j, j ≠ o → (s.setOstler o v).ostler j = s.ostler j :=
  ⟨keepsBut_setOstler s o v, rfl, fun j hj => s.ostler_setOstler_other o j v hj⟩

theorem keepsBut_note (s : State) (r : ErrRec) : keepsBut [.mgmt, .port, .out, .free] s (s.note r) := by
  intro p hp
  cases p <;> simp_all [Part.same, State.byte]

@[simp] theorem State.ostler_note (s : State) (r : ErrRec) (o : Nat) : (s.note r).ostler o = s.ostler o := by
  rw [State.ostler, State.note_ostlers, State.ostler]

/-- An Ostler under a frame that does not name the Ostlers. -/
theorem keepsBut.ostler_eq {ps : List Part} {s t : State} (h : keepsBut ps s t) (hps : Part.ostlers ∉ ps) (o : Nat) : t.ostler o = s.ostler o := by
  obtain ⟨hostlers, -⟩ := h .ostlers hps
  rw [State.ostler, hostlers, State.ostler]

/-- What the part stamps on a record is not the record's class or code (Table 15-2). -/
theorem State.stamp_cls_code (s : State) (r : ErrRec) : (s.stamp r).cls = r.cls ∧ (s.stamp r).code = r.code := by
  unfold State.stamp
  simp only
  split <;> exact ⟨rfl, rfl⟩

/-- The newest record of the log is the one written last (R418). -/
theorem State.note_log_getLast (s : State) (r : ErrRec) :
    ∃ r', (s.note r).mg.log.getLast? = some r' ∧ r'.cls = r.cls ∧ r'.code = r.code := by
  have hstamp := s.stamp_cls_code { r with index := s.mg.nextIndex, time := s.clk.time, fidv := s.ab.fidValid, fid := if s.ab.fidValid then s.ab.fid else 0 }
  refine ⟨_, ?_, hstamp⟩
  have hnewest (l : List ErrRec) (a : ErrRec) : ((l ++ [a]).drop ((l ++ [a]).length - 8192)).getLast? = some a := by
    have hkept : ¬ (l ++ [a]).length ≤ (l ++ [a]).length - 8192 := by rw [List.length_append, List.length_singleton]; omega
    rw [List.getLast?_drop, if_neg hkept, List.getLast?_concat]
  simp only [State.note, State.record, State.setCause_mg, hnewest]

end Sys2Proof.Machine

/-! SUPPORT. The requests of an Ostler and its slots' ALIVE (R228 to R231, R236, R237, R239). -/

namespace Sys2Proof.Machine

theorem ostlerClass_eq_four_iff (o : Nat) : ostlerClass o = 4 ↔ 744 ≤ o := by
  unfold ostlerClass
  grind

/-! ## Slack (R230, R231) -/

theorem slackAt_eq (dl : U16) (now : Nat) : slackAt dl now = max (-32767) (dl - BitVec.ofNat 16 now).toInt := by
  rw [slackAt, sgn_toNat]

theorem slackAt_le (dl : U16) (now : Nat) : slackAt dl now ≤ 32767 := by
  have hword := BitVec.toInt_lt (x := dl - BitVec.ofNat 16 now)
  rw [slackAt_eq]
  omega

/-- A slack falls from its value at the latch, and not below -32,767 (R230). -/
theorem Request.slack_bounds (r : Request) (now : Nat) : -32767 ≤ r.slack now ∧ r.slack now ≤ max (-32767) r.slack0 := by
  unfold Request.slack
  omega

theorem Ostler.effective_eq (x : Ostler) (slot : Nat) (r : Request) (now : Nat) :
    x.effective slot r now = r.slack now + (tget (0 : BitVec 12) x.active slot).toInt := by
  rw [Ostler.effective, sgn_toNat]

/-- The range of an effective slack (R231). -/
theorem Ostler.effective_bounds (x : Ostler) (slot : Nat) (r : Request) (now : Nat) (h : r.slack0 ≤ 32767) :
    -34815 ≤ x.effective slot r now ∧ x.effective slot r now ≤ 34814 := by
  obtain ⟨hlo, hhi⟩ := r.slack_bounds now
  have hofflo := BitVec.le_toInt (tget (0 : BitVec 12) x.active slot)
  have hoffhi := BitVec.toInt_lt (x := tget (0 : BitVec 12) x.active slot)
  rw [x.effective_eq]
  omega

/-! ## Latching a request (R228 to R230, R236, R237) -/

/-- LOCK as an Ostler takes it: the link slot of an egress is never locked (R233). -/
def lockAsked (o slot : Nat) (lock : Option Nat) : Option Nat := if 744 ≤ o ∧ slot = 19 then none else lock

/-- A request as an Ostler latches it; one that has no deadline carries NOW + 32,767 (R229, R230). -/
def latchedRequest (o slot : Nat) (dl : Option U16) (beats : Nat) (lock : Option Nat) (now : Nat) : Request :=
  let d := dl.getD (BitVec.ofNat 16 (now + 32767))
  ⟨d, now, slackAt d now, beats, lockAsked o slot lock, false⟩

/-- A slot from which an Ostler takes requests: it serves the slot, whose requester has power (R399) and is ALIVE (R239). -/
def State.takesRequests (s : State) (o slot : Nat) : Prop :=
  Machine.slotUsed o slot = true ∧ s.clamped o slot = false ∧ tget false (s.ostler o).masked slot = false

/-- A lock refused, counted in LOCKREFUSED (R237). -/
def State.countLockRefused (s : State) (o : Nat) : State :=
  s.setOstler o { s.ostler o with ctrs := { (s.ostler o).ctrs with lockrefused := satAdd (s.ostler o).ctrs.lockrefused 1 } }

section
variable (s : State) (o : Fin 808) (slot : Fin 21) (e : Bool) (dl : Option U16) (beats : Nat) (lock : Option Nat) (c : Option CmdNo)

theorem exec_ostlerRequest_ignored (h : ¬ s.takesRequests o slot) : exec (.ostlerRequest o slot dl beats lock c e) s = .next s := by
  have hguard : (!slotUsed o slot || s.clamped o slot || tget false (s.ostler o).masked slot) = true :=
    Classical.byContradiction (fun hopen => h (by simpa [State.takesRequests, and_assoc] using hopen))
  change execOstlerRequest o slot dl beats lock c s e = _
  simp only [execOstlerRequest, hguard, if_true]

theorem exec_ostlerRequest_latched (h : s.takesRequests o slot) (hlock : ∀ l, lockAsked o slot lock = some l → l ≤ 16) :
    exec (.ostlerRequest o slot dl beats lock c e) s =
      .next (s.setOstler o ((s.ostler o).latch slot (latchedRequest o slot dl beats lock (s.edge o e)) (s.edge o e))) := by
  obtain ⟨hused, hpower, halive⟩ := h
  have hasked : (if ostlerClass o.val = 4 && slot.val = 19 then none else lock) = lockAsked o slot lock := by
    simp [lockAsked, ostlerClass_eq_four_iff]
  change execOstlerRequest o slot dl beats lock c s e = _
  unfold execOstlerRequest
  simp only [hused, hpower, halive, hasked]
  cases hl : lockAsked o slot lock with
  | none => simp [latchedRequest, hl]
  | some l => simp [latchedRequest, hl, Nat.not_lt.mpr (hlock l hl)]

/-- A lock of more than 16 beats: the count and a control record, and the end of the requester's command (R237). -/
theorem exec_ostlerRequest_refused {l : Nat} (h : s.takesRequests o slot) (hlock : lockAsked o slot lock = some l) (hl : 16 < l) :
    ∃ t r, exec (.ostlerRequest o slot dl beats lock c e) s = .next t ∧ r.cls = 6 ∧ r.code = 2 ∧
      keepsBut [.clerk] ((s.countLockRefused o).note r) t := by
  obtain ⟨hused, hpower, halive⟩ := h
  have hasked : (if ostlerClass o.val = 4 && slot.val = 19 then none else lock) = some l := by
    simpa [lockAsked, ostlerClass_eq_four_iff] using hlock
  change ∃ t r, execOstlerRequest o slot dl beats lock c s e = .next t ∧ _
  unfold execOstlerRequest
  simp only [hused, hpower, halive, hasked, hl, Bool.not_true, Bool.or_self, Bool.false_eq_true, if_false, decide_true, if_true]
  split
  · exact ⟨_, _, rfl, rfl, rfl, keepsBut_onCmd _ _ _⟩
  · exact ⟨_, _, rfl, rfl, rfl, keepsBut.refl _ _⟩

end

/-- The waiting request goes last in its slot. -/
theorem Ostler.tget_queue_latch (x : Ostler) (slot : Nat) (r : Request) (now : Nat) :
    ∃ under, tget [] (x.latch slot r now).queue slot = tget [] x.queue slot ++ [{ r with underLock := under }] :=
  ⟨_, tget_tset_same _ _ _ _⟩

/-- While no lock is held a request waits under none (R238). -/
theorem Ostler.latch_of_unlocked {x : Ostler} (slot : Nat) (r : Request) (now : Nat) (h : x.lock = none) :
    x.latch slot r now = { x with queue := tset [] x.queue slot (tget [] x.queue slot ++ [{ r with underLock := false }]) } := by
  simp [Ostler.latch, h]

/-- A request that an OSTLER_REQUEST adds to its slot is the one that it latches, of a slack of at most 32,767 (R230). -/
theorem slack0_le_of_exec_ostlerRequest {s t : State} {o : Fin 808} {slot : Fin 21} {e : Bool} {dl : Option U16} {beats : Nat}
    {lock : Option Nat} {c : Option CmdNo} (h : exec (.ostlerRequest o slot dl beats lock c e) s = .next t) {r : Request}
    (hr : r ∈ tget [] (t.ostler o).queue slot) (hnew : r ∉ tget [] (s.ostler o).queue slot) : r.slack0 ≤ 32767 := by
  by_cases htakes : s.takesRequests o slot
  · by_cases hlock : ∀ l, lockAsked o slot lock = some l → l ≤ 16
    · rw [exec_ostlerRequest_latched s o slot e dl beats lock c htakes hlock] at h
      obtain rfl := Host.Outcome.next.inj h
      obtain ⟨under, hqueue⟩ := (s.ostler o).tget_queue_latch slot (latchedRequest o slot dl beats lock (s.edge o e)) (s.edge o e)
      rw [State.ostler_setOstler, hqueue, List.mem_append, List.mem_singleton] at hr
      obtain rfl := hr.resolve_left hnew
      exact slackAt_le _ _
    · simp only [Classical.not_forall, Nat.not_le] at hlock
      obtain ⟨l, hsome, hl⟩ := hlock
      obtain ⟨t', r', hexec, -, -, hkeep⟩ := exec_ostlerRequest_refused s o slot e dl beats lock c htakes hsome hl
      obtain rfl := Host.Outcome.next.inj (h.symm.trans hexec)
      rw [hkeep.ostler_eq (by simp), State.ostler_note, State.countLockRefused, State.ostler_setOstler] at hr
      exact absurd hr hnew
  · rw [exec_ostlerRequest_ignored s o slot e dl beats lock c htakes] at h
    obtain rfl := Host.Outcome.next.inj h
    exact absurd hr hnew

/-- Settles O42: the sum is taken over the integers, the slack of a latched request never exceeds 32,767 and the offset is a
12-bit signed number. -/
theorem effectiveSlackIsExact : Obligations.EffectiveSlackIsExact := by
  unfold Obligations.EffectiveSlackIsExact
  refine ⟨fun x slot now r => x.effective_eq slot r now, ?_⟩
  intro s t o slot e dl beats lock c hexec r hr hnew now
  exact (t.ostler o).effective_bounds slot r now (slack0_le_of_exec_ostlerRequest hexec hr hnew)

/-! ## ALIVE (R239, R399) -/

/-- A request without its mark of a lock (R238). -/
def Request.plain (r : Request) : Request := { r with underLock := false }

/-- A slot latched not ALIVE: it is masked, and the requests that it has waiting are dropped (R239). -/
def Ostler.dropSlot (x : Ostler) (slot dropped : Nat) : Ostler :=
  { x with masked := tset false x.masked slot true, queue := tset [] x.queue slot [], ctrs := { x.ctrs with maskdrop := satAdd x.ctrs.maskdrop dropped } }

@[simp] theorem Ostler.tget_masked_dropSlot (x : Ostler) (slot n : Nat) : tget false (x.dropSlot slot n).masked slot = true := by
  rw [Ostler.dropSlot, tget_tset_same]
@[simp] theorem Ostler.tget_queue_dropSlot_same (x : Ostler) (slot n : Nat) : tget [] (x.dropSlot slot n).queue slot = [] := by
  rw [Ostler.dropSlot, tget_tset_same]
theorem Ostler.tget_queue_dropSlot_other (x : Ostler) {slot j : Nat} (n : Nat) (h : j ≠ slot) :
    tget [] (x.dropSlot slot n).queue j = tget [] x.queue j := by
  rw [Ostler.dropSlot, tget_tset_other _ _ _ _ _ h]
theorem Ostler.maskdrop_dropSlot (x : Ostler) (slot n : Nat) :
    (x.dropSlot slot n).ctrs.maskdrop.toNat = min (x.ctrs.maskdrop.toNat + n) 65535 :=
  satAdd_toNat _ n

/-- An ALIVE that falls drops the slot, and first cuts a locked sequence in progress where the slot holds it (R239). -/
theorem Ostler.fall_cases (x : Ostler) (slot now unit : Nat) :
    (∃ left, x.lock = some (slot, left)) ∧ x.fall slot now unit = (x.cutLock now unit).dropSlot slot (tget [] x.queue slot).length ∨
    (x.busy = true → now ≤ x.busyUntil → ∀ k, x.lock = some k → k.1 ≠ slot) ∧
      x.fall slot now unit = x.dropSlot slot (tget [] x.queue slot).length := by
  cases hlock : x.lock with
  | none => simp [Ostler.fall, Ostler.dropSlot, hlock]
  | some k =>
    obtain ⟨holder, left⟩ := k
    by_cases hmine : x.busy = true ∧ now ≤ x.busyUntil ∧ holder = slot
    · exact .inl (by simp [Ostler.fall, Ostler.dropSlot, hlock, hmine])
    · refine .inr ⟨?_, ?_⟩
      · rintro hbusy hnow k hk rfl
        exact hmine ⟨hbusy, hnow, congrArg Prod.fst (Option.some.inj hk)⟩
      · simp [Ostler.fall, Ostler.dropSlot, hlock, show ¬((x.busy = true ∧ now ≤ x.busyUntil) ∧ holder = slot) by rwa [and_assoc]]

/-- A request once a lock is cut that was to hold the path beyond `last`: its slack has yet to cross 0 there (R238, R239). -/
def Request.unmarkAfter (last : Nat) (r : Request) : Request :=
  if r.crosses.any (fun k => last < k) then { r with underLock := false } else r

theorem Request.plain_unmarkAfter (last : Nat) (r : Request) : (r.unmarkAfter last).plain = r.plain := by
  unfold Request.unmarkAfter
  split <;> rfl

/-- A cut lock takes back marks of waiting requests, and changes nothing else of them (R238, R239). -/
theorem Ostler.plain_queue_cutLock (x : Ostler) (now unit j : Nat) :
    (tget [] (x.cutLock now unit).queue j).map Request.plain = (tget [] x.queue j).map Request.plain := by
  have hread : ∃ last, tget [] (x.cutLock now unit).queue j = (tget [] x.queue j).map (Request.unmarkAfter last) :=
    ⟨_, tget_map_values (d := []) (List.map (Request.unmarkAfter _)) _ _⟩
  obtain ⟨last, hqueue⟩ := hread
  rw [hqueue, List.map_map]
  exact List.map_congr_left (fun r _ => r.plain_unmarkAfter last)

@[simp] theorem Ostler.tget_masked_rise (x : Ostler) (slot now : Nat) : tget false (x.rise slot now).masked slot = false := by
  rw [Ostler.rise, tget_tset_same]

/-- A rising slot presents no request up to the edge on which it rises (R239). -/
theorem Ostler.front_rise (x : Ostler) {slot now edge : Nat} (h : now ≤ edge) : (x.rise slot edge).front slot now = none := by
  simp [Ostler.front, Ostler.rise, Nat.lt_succ_of_le h]

theorem exec_aliveFall (o : Fin 808) (slot : Fin 21) (e : Bool) (s : State) :
    exec (.aliveFall o slot e) s = .next (s.setOstler o ((s.ostler o).fall slot (s.edge o e) (s.beatTime o))) := rfl

theorem exec_aliveRise_clamped {o : Fin 808} {slot : Fin 21} (e : Bool) {s : State} (h : s.clamped o slot = true) :
    exec (.aliveRise o slot e) s = .next s :=
  congrArg Host.Outcome.next (if_pos h)

theorem exec_aliveRise_powered {o : Fin 808} {slot : Fin 21} (e : Bool) {s : State} (h : s.clamped o slot = false) :
    exec (.aliveRise o slot e) s = .next (s.setOstler o ((s.ostler o).rise slot (s.edge o e))) :=
  congrArg Host.Outcome.next (if_neg (by simp [h]))

/-- Settles O39: a request is ignored, refused or latched, and ALIVE drops a slot or lets it in. -/
theorem ostlerRequests : Obligations.OstlerRequests := by
  unfold Obligations.OstlerRequests
  refine ⟨?requests, ?alive⟩
  case requests =>
    intro s o slot e dl beats lock c x now d asked
    have hd : d = dl.getD (BitVec.ofNat 16 (now + 32767)) := by cases dl <;> rfl
    refine ⟨fun h => ?ignored, fun hused hpower halive hlock hfree => ?latched, fun hused hpower halive hlong => ?refused⟩
    case ignored =>
      refine exec_ostlerRequest_ignored s o slot e dl beats lock c ?_
      rintro ⟨hused, hpower, halive⟩
      simp [hused, hpower, show tget false x.masked slot = false from halive] at h
    case latched =>
      have hexec := exec_ostlerRequest_latched s o slot e dl beats lock c ⟨hused, hpower, halive⟩ hlock
      rw [Ostler.latch_of_unlocked slot _ _ hfree] at hexec
      refine ⟨_, hexec, s.setOstler_frame o _,
        ⟨{ latchedRequest o slot dl beats lock now with underLock := false }, hd.symm, rfl, ?_, rfl, rfl, rfl, ?_⟩, fun j hj => ?_, ?_⟩
      · rw [hd]
        exact slackAt_eq _ _
      · rw [State.ostler_setOstler]
        exact tget_tset_same _ _ _ _
      · rw [State.ostler_setOstler]
        exact tget_tset_other _ _ _ _ _ hj
      · rw [State.ostler_setOstler]
    case refused =>
      obtain ⟨l, hsome, hl⟩ := hlong
      obtain ⟨t, r, hexec, hcls, hcode, hkeep⟩ := exec_ostlerRequest_refused s o slot e dl beats lock c ⟨hused, hpower, halive⟩ hsome hl
      obtain ⟨r', hlast, hcls', hcode'⟩ := (s.countLockRefused o).note_log_getLast r
      have hmg : t.mg = ((s.countLockRefused o).note r).mg := hkeep .mgmt (by simp)
      have hostler : t.ostler o = (s.countLockRefused o).ostler o := by rw [hkeep.ostler_eq (by simp), State.ostler_note]
      have hframe := ((keepsBut_setOstler s o _).trans (keepsBut_note (s.countLockRefused o) r)).trans hkeep
      rw [State.countLockRefused, State.ostler_setOstler] at hostler
      refine ⟨t, hexec, ?_, ?_, ⟨r', by rw [hmg, hlast], hcls'.trans hcls, hcode'.trans hcode⟩, ?_, hframe.mono (by simp)⟩
      · rw [hostler]
      · rw [hostler]
        exact satAdd_toNat _ 1
      · rw [hmg, State.note_index]
        rfl
  case alive =>
    intro s o slot e x plain
    refine ⟨?fall, fun h => exec_aliveRise_clamped e h, fun h => ?rise⟩
    case fall =>
      refine ⟨_, exec_aliveFall o slot e s, s.setOstler_frame o _, ?_⟩
      rw [State.ostler_setOstler]
      rcases x.fall_cases slot (s.edge o e) (s.beatTime o) with ⟨⟨left, hlock⟩, hfall⟩ | ⟨hother, hfall⟩
      · rw [hfall]
        refine ⟨by simp, by simp, fun j hj => ?_, fun hnone => ?_, Ostler.maskdrop_dropSlot _ _ _, fun _ _ k hk => by cases hk⟩
        · rw [Ostler.tget_queue_dropSlot_other _ _ hj]
          exact x.plain_queue_cutLock _ _ j
        · exact absurd (hlock.symm.trans hnone) (by simp)
      · rw [hfall]
        refine ⟨by simp, by simp, fun j hj => ?_, fun _ j hj => ?_, x.maskdrop_dropSlot _ _, hother⟩
        · rw [x.tget_queue_dropSlot_other _ hj]
        · exact x.tget_queue_dropSlot_other _ hj
    case rise =>
      refine ⟨_, exec_aliveRise_powered e h, s.setOstler_frame o _, ?_⟩
      rw [State.ostler_setOstler]
      exact ⟨x.tget_masked_rise _ _, rfl, fun now hnow => x.front_rise hnow⟩

end Sys2Proof.Machine

/-! SUPPORT. The arbitration boundaries of an Ostler (R231 to R234, R236, R241). -/

namespace Sys2Proof.Machine

/-! ## COMMIT at a boundary (R241) -/

theorem Ostler.applyCommit_active (x : Ostler) : x.applyCommit.active = if x.pending then x.shadow else x.active := by
  unfold Ostler.applyCommit
  split <;> rfl

@[simp] theorem Ostler.applyCommit_pending (x : Ostler) : x.applyCommit.pending = false := by
  unfold Ostler.applyCommit
  split <;> simp_all

@[simp] theorem Ostler.rests_applyCommit (x : Ostler) (now : Nat) : x.applyCommit.rests now = x.rests now := by
  unfold Ostler.applyCommit
  split <;> rfl

/-! ## The slot of least effective slack (R233) -/

/-- The effective slack of the request that a slot presents; 0 where it presents none. -/
def Ostler.urgency (x : Ostler) (now slot : Nat) : Int := (x.front slot now).elim 0 (fun r => x.effective slot r now)

theorem Ostler.urgency_of_front {x : Ostler} {now slot : Nat} {r : Request} (h : x.front slot now = some r) :
    x.urgency now slot = x.effective slot r now := by
  rw [Ostler.urgency, h, Option.elim_some]

/-- A slot presents its oldest request (R228). -/
theorem Ostler.queue_of_front {x : Ostler} {now slot : Nat} {r : Request} (h : x.front slot now = some r) :
    ∃ rest, tget [] x.queue slot = r :: rest := by
  unfold Ostler.front at h
  split at h
  · cases h
  · exact List.head?_eq_some_iff.mp h

theorem State.front_of_eligible {s : State} {o : Nat} {x : Ostler} {now slot : Nat} (h : s.eligible o x now slot = true) :
    ∃ r, x.front slot now = some r := by
  rw [State.eligible, Bool.and_eq_true] at h
  exact Option.isSome_iff_exists.mp h.1

/-- How far a slot stands from the one after the slot last granted (R233). -/
def slotDist (last k : Nat) : Nat := (k + 21 - (last + 1) % 21) % 21

theorem mem_slotOrder {last k : Nat} : k ∈ slotOrder last ↔ k < 21 := by
  simp only [slotOrder, List.mem_map, List.mem_range]
  constructor
  · rintro ⟨i, -, rfl⟩
    omega
  · exact fun hk => ⟨slotDist last k, by unfold slotDist; omega, by unfold slotDist; omega⟩

/-- The order of R233 goes from the nearest slot to the farthest. -/
theorem slotOrder_pairwise (last : Nat) : (slotOrder last).Pairwise (fun j k => slotDist last j < slotDist last k) := by
  rw [slotOrder, List.pairwise_map]
  refine List.pairwise_lt_range.imp_of_mem (fun {i j} hi hj hij => ?_)
  rw [List.mem_range] at hi hj
  unfold slotDist
  omega

/-- Of two slots, the one of lesser value; of equal ones the one that stood before. -/
def lesser (f : Nat → Int) (j k : Nat) : Nat := if f k < f j then k else j

/-- A fold by `lesser` over a list in the order of a distance ends at an element of least value, the nearest of equal ones. -/
theorem foldl_lesser_least {f : Nat → Int} {d : Nat → Nat} (l : List Nat) (j : Nat) (h : (j :: l).Pairwise (fun a b => d a < d b)) :
    l.foldl (lesser f) j ∈ j :: l ∧
      ∀ k ∈ j :: l, f (l.foldl (lesser f) j) ≤ f k ∧ (f (l.foldl (lesser f) j) = f k → d (l.foldl (lesser f) j) ≤ d k) := by
  induction l generalizing j with
  | nil => simp
  | cons a l ih =>
    obtain ⟨hja, hal⟩ := List.pairwise_cons.mp h
    have hda : d j < d a := hja a (List.mem_cons_self)
    rw [List.foldl_cons]
    by_cases hless : f a < f j
    · obtain ⟨hmem, hleast⟩ := ih a hal
      rw [show lesser f j a = a from if_pos hless]
      have hathead := (hleast a List.mem_cons_self).1
      refine ⟨List.mem_cons_of_mem _ hmem, fun k hk => ?_⟩
      rcases List.mem_cons.mp hk with rfl | hk
      · exact ⟨by omega, fun heq => by omega⟩
      · exact hleast k hk
    · have hskip : (j :: l).Pairwise (fun a b => d a < d b) :=
        List.pairwise_cons.mpr ⟨fun k hk => hja k (List.mem_cons_of_mem _ hk), (List.pairwise_cons.mp hal).2⟩
      obtain ⟨hmem, hleast⟩ := ih j hskip
      rw [show lesser f j a = j from if_neg hless]
      obtain ⟨hjleast, hjnear⟩ := hleast j List.mem_cons_self
      refine ⟨?_, fun k hk => ?_⟩
      · rcases List.mem_cons.mp hmem with heq | hmem
        · exact List.mem_cons.mpr (.inl heq)
        · exact List.mem_cons_of_mem _ (List.mem_cons_of_mem _ hmem)
      · rcases List.mem_cons.mp hk with rfl | hk
        · exact ⟨hjleast, hjnear⟩
        · rcases List.mem_cons.mp hk with rfl | hk
          · refine ⟨by omega, fun heq => ?_⟩
            have hnear := hjnear (by omega)
            omega
          · exact hleast k (List.mem_cons_of_mem _ hk)

/-- A boundary's choice between the slot chosen so far and the next in the order of R233. -/
def Ostler.pick (x : Ostler) (now : Nat) (acc : Option Nat) (k : Nat) : Option Nat :=
  match acc with
  | none => some k
  | some j =>
    match x.front j now, x.front k now with
    | some a, some b => if x.effective k b now < x.effective j a now then some k else some j
    | _, _ => some j

theorem Ostler.pick_of_front {x : Ostler} {now j k : Nat} {a b : Request} (ha : x.front j now = some a) (hb : x.front k now = some b) :
    x.pick now (some j) k = some (lesser (x.urgency now) j k) := by
  simp only [Ostler.pick, ha, hb, lesser, Ostler.urgency_of_front ha, Ostler.urgency_of_front hb]
  split <;> rfl

/-- Among slots that each present a request, a boundary chooses by their urgency. -/
theorem Ostler.foldl_pick {x : Ostler} {now : Nat} (l : List Nat) (j : Nat) (h : ∀ k ∈ j :: l, ∃ r, x.front k now = some r) :
    l.foldl (x.pick now) (some j) = some (l.foldl (lesser (x.urgency now)) j) := by
  induction l generalizing j with
  | nil => rfl
  | cons k l ih =>
    obtain ⟨a, ha⟩ := h j List.mem_cons_self
    obtain ⟨b, hb⟩ := h k (List.mem_cons_of_mem _ List.mem_cons_self)
    rw [List.foldl_cons, List.foldl_cons, Ostler.pick_of_front ha hb]
    refine ih _ (fun i hi => ?_)
    rcases List.mem_cons.mp hi with rfl | hi
    · unfold lesser
      split
      · exact ⟨b, hb⟩
      · exact ⟨a, ha⟩
    · exact h i (List.mem_cons_of_mem _ (List.mem_cons_of_mem _ hi))

/-- The eligible slots at a boundary, in the order of R233. -/
def State.eligibleSlots (s : State) (o : Nat) (x : Ostler) (now : Nat) : List Nat := (slotOrder x.last).filter (s.eligible o x now)

theorem State.mem_eligibleSlots {s : State} {o : Nat} {x : Ostler} {now k : Nat} :
    k ∈ s.eligibleSlots o x now ↔ k < 21 ∧ s.eligible o x now k = true := by
  rw [State.eligibleSlots, List.mem_filter, mem_slotOrder]

/-- The link slot of an egress is granted before all others (R233). -/
theorem State.winner_link {s : State} {o : Nat} {x : Ostler} {now : Nat} (ho : 744 ≤ o) (h : s.eligible o x now 19 = true) :
    s.winner o x now = some 19 := by
  simp [State.winner, (ostlerClass_eq_four_iff o).mpr ho, h]

/-- Else the boundary chooses among the eligible slots, in the order of R233. -/
theorem State.winner_eq_foldl {s : State} {o : Nat} {x : Ostler} {now : Nat} (h : ¬(744 ≤ o ∧ s.eligible o x now 19 = true)) :
    s.winner o x now = (s.eligibleSlots o x now).foldl (x.pick now) none := by
  have hlink : ¬(ostlerClass o = 4 && s.eligible o x now 19) = true := by
    rwa [Bool.and_eq_true, decide_eq_true_eq, ostlerClass_eq_four_iff]
  exact if_neg hlink

/-- It grants the first of the slots of least effective slack; with no eligible slot it grants none (R233). -/
theorem State.winner_cases {s : State} {o : Nat} {x : Ostler} {now : Nat} (h : ¬(744 ≤ o ∧ s.eligible o x now 19 = true)) :
    (s.eligibleSlots o x now = [] ∧ s.winner o x now = none) ∨
    ∃ w, s.winner o x now = some w ∧ w ∈ s.eligibleSlots o x now ∧ ∀ k ∈ s.eligibleSlots o x now,
      x.urgency now w ≤ x.urgency now k ∧ (x.urgency now w = x.urgency now k → slotDist x.last w ≤ slotDist x.last k) := by
  have hfronts : ∀ k ∈ s.eligibleSlots o x now, ∃ r, x.front k now = some r :=
    fun k hk => State.front_of_eligible (State.mem_eligibleSlots.mp hk).2
  have hsorted : (s.eligibleSlots o x now).Pairwise (fun j k => slotDist x.last j < slotDist x.last k) :=
    (slotOrder_pairwise x.last).filter _
  rw [State.winner_eq_foldl h]
  cases hslots : s.eligibleSlots o x now with
  | nil => exact .inl ⟨rfl, rfl⟩
  | cons j l =>
    rw [hslots] at hfronts hsorted
    exact .inr ⟨_, Ostler.foldl_pick l j hfronts, foldl_lesser_least l j hsorted⟩

section
variable {s : State} {o : Nat} {x : Ostler} {now w : Nat}

/-- The slot granted is an eligible one. -/
theorem State.eligible_of_winner (h : s.winner o x now = some w) : w < 21 ∧ s.eligible o x now w = true := by
  by_cases hlink : 744 ≤ o ∧ s.eligible o x now 19 = true
  · obtain ⟨ho, helig⟩ := hlink
    obtain rfl := Option.some.inj (h.symm.trans (State.winner_link ho helig))
    exact ⟨by decide, helig⟩
  · rcases State.winner_cases hlink with ⟨-, hnone⟩ | ⟨w', hwinner, hmem, -⟩
    · exact absurd (h.symm.trans hnone) (Option.some_ne_none _)
    · obtain rfl := Option.some.inj (h.symm.trans hwinner)
      exact State.mem_eligibleSlots.mp hmem

/-- A boundary that grants none has no eligible slot. -/
theorem State.not_eligible_of_winner_none (h : s.winner o x now = none) {k : Nat} (hk : k < 21) : s.eligible o x now k = false := by
  refine Bool.eq_false_iff.mpr (fun helig => ?_)
  by_cases hlink : 744 ≤ o ∧ s.eligible o x now 19 = true
  · exact Option.some_ne_none 19 ((State.winner_link hlink.1 hlink.2).symm.trans h)
  · rcases State.winner_cases hlink with ⟨hnil, -⟩ | ⟨w, hwinner, -⟩
    · exact List.not_mem_nil (hnil ▸ State.mem_eligibleSlots.mpr ⟨hk, helig⟩)
    · exact Option.some_ne_none w (hwinner.symm.trans h)

/-- But for an egress's link slot, the slot granted has least effective slack, and of equal ones it is the first (R233). -/
theorem State.winner_least (h : s.winner o x now = some w) (hw : ¬(744 ≤ o ∧ w = 19)) {r q : Request} (hr : x.front w now = some r)
    {k : Nat} (hk : k < 21) (helig : s.eligible o x now k = true) (hq : x.front k now = some q) :
    x.effective w r now ≤ x.effective k q now ∧ (x.effective w r now = x.effective k q now → slotDist x.last w ≤ slotDist x.last k) := by
  have hlink : ¬(744 ≤ o ∧ s.eligible o x now 19 = true) := by
    rintro ⟨ho, helig⟩
    exact hw ⟨ho, Option.some.inj (h.symm.trans (State.winner_link ho helig))⟩
  rcases State.winner_cases hlink with ⟨-, hnone⟩ | ⟨w', hwinner, -, hleast⟩
  · exact absurd (h.symm.trans hnone) (Option.some_ne_none _)
  · obtain rfl := Option.some.inj (h.symm.trans hwinner)
    rw [← Ostler.urgency_of_front hr, ← Ostler.urgency_of_front hq]
    exact hleast k (State.mem_eligibleSlots.mpr ⟨hk, helig⟩)

end

/-! ## A transfer granted (R232, R234, R236, R242) -/

/-- What a transfer granted counts: itself in XFERS, and its negative slack in MISS, or in LOCKMISS where a lock made it late. -/
theorem OstlerCtrs.grant_counts (c : OstlerCtrs) (slot : Nat) (r : Request) (now : Nat) (time : U64) :
    (c.grant slot r now time).xfers = satAdd c.xfers 1 ∧ (c.grant slot r now time).beats = c.beats ∧
    (c.grant slot r now time).miss.toNat = min (c.miss.toNat + if r.slack now < 0 ∧ r.underLock = false then 1 else 0) 0xFFFFFFFF ∧
    (c.grant slot r now time).lockmiss.toNat = min (c.lockmiss.toNat + if r.slack now < 0 ∧ r.underLock = true then 1 else 0) 0xFFFFFFFF := by
  have hmiss := c.miss.isLt
  have hlockmiss := c.lockmiss.isLt
  by_cases hmet : 0 ≤ r.slack now
  · have hlate : ¬ r.slack now < 0 := by omega
    simp only [OstlerCtrs.grant, hmet, hlate, if_true, if_false, false_and, true_and]
    omega
  · have hlate : r.slack now < 0 := by omega
    cases hunder : r.underLock <;>
    · simp only [OstlerCtrs.grant, hmet, hlate, hunder, satAdd_toNat, if_true, if_false, true_and, and_true, reduceCtorEq]
      omega

/-- Once the transfer in progress has moved its last beat, BEATS has all of them (R242). -/
theorem Ostler.moved_of_rests {x : Ostler} {now : Nat} (unit : Nat) (h : x.rests now = true) :
    x.moved now unit = { x with due := 0, ctrs := { x.ctrs with beats := satAdd x.ctrs.beats x.due } } := by
  have hleft : (if x.busy then min x.due (ceilDiv (x.ends - now * 257) (max 1 unit)) else 0) = 0 := by
    split
    next hbusy =>
      have hdone : x.busyUntil ≤ now := by simpa [Ostler.rests, hbusy] using h
      have hends : x.ends - now * 257 = 0 := by unfold Ostler.ends; omega
      rw [hends, ceilDiv, Nat.div_eq_of_lt (by omega), Nat.min_zero]
    · rfl
  simp only [Ostler.moved, hleft, Nat.sub_zero]

/-- A transfer's last beat ends in the cycle of its edge, its beats without a gap behind those of a transfer that ends on this edge. -/
theorem Ostler.busyUntil_run (x : Ostler) (slot now unit eighths : Nat) (r : Request) (time : U64) :
    (x.run slot now unit eighths r time).spare < 257 ∧
    257 * (x.run slot now unit eighths r time).busyUntil =
      257 * now - (if x.busy = true ∧ x.busyUntil = now then x.spare else 0) + r.beats * unit + (x.run slot now unit eighths r time).spare := by
  have hbounds := ceilDiv_mul_bounds (now * 257 - (if x.busy && x.busyUntil = now then x.spare else 0) + r.beats * unit) (b := 257) (by decide)
  simp only [Bool.and_eq_true, decide_eq_true_eq] at hbounds
  simp only [Ostler.run, Bool.and_eq_true, decide_eq_true_eq]
  omega

/-- The oldest request of the slot leaves (R228), and no other. -/
theorem Ostler.tget_queue_run (x : Ostler) (slot now unit eighths : Nat) (r : Request) (time : U64) (k : Nat) :
    tget [] (x.run slot now unit eighths r time).queue k = if k = slot then (tget [] x.queue slot).drop 1 else tget [] x.queue k :=
  tget_tset [] x.queue slot k ((tget [] x.queue slot).drop 1)

/-- The counters at the grant of a transfer, the one before it having moved its last beat (R234, R238, R242). -/
theorem Ostler.run_counts {x : Ostler} {now : Nat} (slot unit eighths : Nat) (r : Request) (time : U64) (h : x.rests now = true) :
    (x.run slot now unit eighths r time).ctrs.xfers.toNat = min (x.ctrs.xfers.toNat + 1) (2 ^ 64 - 1) ∧
    (x.run slot now unit eighths r time).ctrs.beats.toNat = min (x.ctrs.beats.toNat + x.due) (2 ^ 64 - 1) ∧
    (x.run slot now unit eighths r time).ctrs.miss.toNat = min (x.ctrs.miss.toNat + if r.slack now < 0 ∧ r.underLock = false then 1 else 0) 0xFFFFFFFF ∧
    (x.run slot now unit eighths r time).ctrs.lockmiss.toNat = min (x.ctrs.lockmiss.toNat + if r.slack now < 0 ∧ r.underLock = true then 1 else 0) 0xFFFFFFFF := by
  have hmoved := x.moved_of_rests unit h
  obtain ⟨hxfers, hbeats, hmiss, hlockmiss⟩ := (x.moved now unit).ctrs.grant_counts slot r now time
  simp only [Ostler.run, hxfers, hbeats, hmiss, hlockmiss]
  simp only [hmoved, satAdd_toNat, and_self]

/-- What a transfer without LOCK leaves: it leaves its queue, and no lock is held. -/
theorem Ostler.grantSlot_unlocked {x : Ostler} {slot : Nat} {r : Request} {rest : List Request} (now unit eighths ticks : Nat) (time : U64)
    (h : tget [] x.queue slot = r :: rest) (hlock : r.lock = none) : x.grantSlot slot now unit eighths ticks time =
      { x.run slot now unit eighths r time with linkAt := if slot = 19 then some ticks else x.linkAt, lock := none } := by
  simp only [Ostler.grantSlot, h, hlock]

/-- A grant begins the transfer that the slot presents; LOCK bears on the lock, the marks of waiting requests and the counters alone. -/
theorem Ostler.grantSlot_eq_run {x : Ostler} {slot : Nat} {r : Request} {rest : List Request} (now unit eighths ticks : Nat) (time : U64)
    (h : tget [] x.queue slot = r :: rest) : ∃ q c l k, x.grantSlot slot now unit eighths ticks time =
      { x.run slot now unit eighths r time with queue := q, ctrs := c, lock := l, linkAt := k } := by
  cases hlock : r.lock with
  | none => exact ⟨_, _, _, _, x.grantSlot_unlocked now unit eighths ticks time h hlock⟩
  | some l => exact ⟨_, _, _, _, by simp only [Ostler.grantSlot, h, hlock]; rfl⟩

/-! ## The edge of a boundary -/

/-- A lock marks no request of the slot that holds it (R238). -/
theorem Ostler.tget_queue_hold (x : Ostler) (slot now left : Nat) : tget [] (x.hold slot now left).queue slot = tget [] x.queue slot := by
  rw [Ostler.hold, markUnder]
  refine tget_map_of_fixed (fun e => ?_) (fun rs => if_pos rfl) x.queue
  split
  split <;> rfl

/-- A ready request that fits in the beats left follows at the last beat of a transfer of its slot's locked sequence (R236). -/
theorem Ostler.follows_of_ready {x : Ostler} {now k n : Nat} {r : Request} {rest : List Request} (hbusy : x.busy = true)
    (hlast : x.busyUntil = now) (hlock : x.lock = some (k, n)) (hqueue : tget [] x.queue k = r :: rest)
    (halive : tget false x.masked k = false) (hrisen : tget 0 x.rising k ≤ now) (hfits : r.beats ≤ n) :
    x.follows now = some (k, n, r) := by
  have hfront : x.front k now = some r := by simp [Ostler.front, halive, hrisen, hqueue]
  simp [Ostler.follows, hlock, hbusy, hlast, hfront, hfits]

section
variable {s : State} {o : Fin 808} {e : Bool}

theorem exec_arbitrationBoundary_waits (h : s.edges o = 0 ∨ (s.ostler o).rests (s.edge o e) = false) :
    exec (.arbitrationBoundary o e) s = .next s := by
  refine congrArg Host.Outcome.next (if_pos ?_)
  rcases h with h | h <;> simp [h]

theorem exec_arbitrationBoundary_follows {k left : Nat} {r : Request} (hedge : 0 < s.edges o) (hrests : (s.ostler o).rests (s.edge o e) = true)
    (h : (s.ostler o).follows (s.edge o e) = some (k, left, r)) : exec (.arbitrationBoundary o e) s = .next (s.setOstler o
      (((s.ostler o).run k (s.edge o e) (s.beatTime o) (s.eighths o k) r s.clk.time).hold k (s.edge o e) (left - r.beats))) := by
  change execArbitrationBoundary o s e = _
  simp [execArbitrationBoundary, Nat.ne_of_gt hedge, hrests, h]

theorem Ostler.boundary_iff {x : Ostler} {now : Nat} : x.boundary now = true ↔ x.rests now = true ∧ x.follows now = none := by
  simp [Ostler.boundary]

theorem exec_arbitrationBoundary_idle (hedge : 0 < s.edges o) (h : (s.ostler o).boundary (s.edge o e) = true)
    (hwinner : s.winner o (s.ostler o).applyCommit (s.edge o e) = none) : exec (.arbitrationBoundary o e) s =
      .next (s.setOstler o { (s.ostler o).applyCommit with busy := false, lock := none }) := by
  obtain ⟨hrests, hfollows⟩ := Ostler.boundary_iff.mp h
  change execArbitrationBoundary o s e = _
  simp [execArbitrationBoundary, Nat.ne_of_gt hedge, hrests, hfollows, hwinner]

theorem exec_arbitrationBoundary_grants {w : Nat} (hedge : 0 < s.edges o) (h : (s.ostler o).boundary (s.edge o e) = true)
    (hwinner : s.winner o (s.ostler o).applyCommit (s.edge o e) = some w) : exec (.arbitrationBoundary o e) s =
      .next (s.setOstler o ((s.ostler o).applyCommit.grantSlot w (s.edge o e) (s.beatTime o) (s.eighths o w) s.clk.ticks s.clk.time)) := by
  obtain ⟨hrests, hfollows⟩ := Ostler.boundary_iff.mp h
  change execArbitrationBoundary o s e = _
  simp [execArbitrationBoundary, Nat.ne_of_gt hedge, hrests, hfollows, hwinner]

end

/-- Settles O40: an edge waits, goes on with a locked sequence, or is a boundary, which grants the least effective slack. -/
theorem ostlerArbitration : Obligations.OstlerArbitration := by
  unfold Obligations.OstlerArbitration
  intro s o e x now dist
  refine ⟨fun h => ?waits, ?follows, fun hedge hboundary => ?boundary⟩
  case waits =>
    refine exec_arbitrationBoundary_waits (h.imp_right ?_)
    rintro ⟨hbusy, hleft⟩
    simpa [Ostler.rests, hbusy] using hleft
  case follows =>
    intro k n r rest hedge hbusy hlast hlock hqueue halive hrisen hfits
    have hrests : (s.ostler o).rests now = true := by simp [Ostler.rests, hlast]
    have hexec := exec_arbitrationBoundary_follows hedge hrests
      (Ostler.follows_of_ready hbusy hlast hlock hqueue halive hrisen hfits)
    obtain ⟨hkeep, -, hothers⟩ := s.setOstler_frame o
      (((s.ostler o).run k now (s.beatTime o) (s.eighths o k) r s.clk.time).hold k now (n - r.beats))
    obtain ⟨hxfers, -⟩ := Ostler.run_counts k (s.beatTime o) (s.eighths o k) r s.clk.time hrests
    refine ⟨_, hexec, ?_⟩
    rw [State.ostler_setOstler]
    refine ⟨rfl, ?_, rfl, hxfers, hkeep, hothers⟩
    rw [Ostler.tget_queue_hold, Ostler.tget_queue_run, if_pos rfl, hqueue, List.drop_one, List.tail_cons]
  case boundary =>
    have hactive := (s.ostler o).applyCommit_active
    have hpending := (s.ostler o).applyCommit_pending
    cases hwinner : s.winner o x now with
    | none =>
      obtain ⟨hkeep, hsel, hothers⟩ := s.setOstler_frame o { x with busy := false, lock := none }
      refine ⟨_, exec_arbitrationBoundary_idle hedge hboundary hwinner, ?_⟩
      rw [State.ostler_setOstler]
      refine ⟨hactive, hpending, hkeep, hsel, hothers, fun _ => rfl, fun hsome => ?_⟩
      obtain ⟨k, hk, helig⟩ := hsome
      exact absurd helig (Bool.eq_false_iff.mp (State.not_eligible_of_winner_none hwinner hk))
    | some w =>
      obtain ⟨hw, helig⟩ := State.eligible_of_winner hwinner
      obtain ⟨r, hfront⟩ := State.front_of_eligible helig
      obtain ⟨rest, hqueue⟩ := Ostler.queue_of_front hfront
      have hrests : x.rests now = true := ((s.ostler o).rests_applyCommit now).trans (Ostler.boundary_iff.mp hboundary).1
      obtain ⟨hkeep, hsel, hothers⟩ := s.setOstler_frame o (x.grantSlot w now (s.beatTime o) (s.eighths o w) s.clk.ticks s.clk.time)
      obtain ⟨q, c, l, k, hrun⟩ := x.grantSlot_eq_run now (s.beatTime o) (s.eighths o w) s.clk.ticks s.clk.time hqueue
      obtain ⟨hspare, hbusy⟩ := x.busyUntil_run w now (s.beatTime o) (s.eighths o w) r s.clk.time
      refine ⟨_, exec_arbitrationBoundary_grants hedge hboundary hwinner, ?_⟩
      rw [State.ostler_setOstler]
      refine ⟨?active, ?pending, hkeep, hsel, hothers, fun hnone => absurd helig (by simp [hnone w hw]), fun _ =>
        ⟨w, r, rest, hw, helig, hqueue, ?last, ?busy, ?spare, ?busyUntil, ?least, fun hunlocked => ?unlocked⟩⟩
      case least => exact fun k q hk hlink hk' hq => State.winner_least hwinner hlink hfront hk hk' hq
      case unlocked =>
        obtain ⟨hxfers, hbeats, hmiss, hlockmiss⟩ := Ostler.run_counts w (s.beatTime o) (s.eighths o w) r s.clk.time hrests
        have hqueue' := x.tget_queue_run w now (s.beatTime o) (s.eighths o w) r s.clk.time
        rw [x.grantSlot_unlocked now _ _ _ _ hqueue hunlocked]
        refine ⟨?_, fun k hk => (hqueue' k).trans (if_neg hk), hxfers, rfl, hbeats, hmiss, hlockmiss⟩
        exact (hqueue' w).trans (by rw [if_pos rfl, hqueue, List.drop_one, List.tail_cons])
      all_goals rw [hrun]
      case active => exact hactive
      case pending => exact hpending
      case last => rfl
      case busy => rfl
      case spare => exact hspare
      case busyUntil => exact hbusy

end Sys2Proof.Machine
